-- ==== Sys2Proof/Word.lean ====
section
/-!
DEFINITION. The word types of the model and the shape of its sparse tables.

Bit vectors stand for what the spec treats as bits (register contents, instruction fields, bytes). Addresses
into memories and sparse tables are natural numbers.
-/
namespace Sys2Proof

abbrev Byte := BitVec 8
abbrev W16 := BitVec 16
abbrev W32 := BitVec 32
abbrev W64 := BitVec 64

/-- The 16-bit immediate of the instruction formats of Table 4.4. -/
abbrev Imm := BitVec 16
/-- A 5-bit register number (scalar or vector). -/
abbrev R5 := BitVec 5
/-- A predicate number p0-p3. -/
abbrev P2 := BitVec 2
/-- A mask register number m0-m7. -/
abbrev M3 := BitVec 3
/-- A 4-bit code: an element type or a function. -/
abbrev Ty := BitVec 4

/-- A core: package cluster number times 128 plus the core's place in its cluster (R11, R12). -/
abbrev Core := Fin 25600
/-- A PCIe function, PF0 or VF n (R380). -/
abbrev Fn := Fin 64
/-- A tenant context; context n is bound to function n (R381). -/
abbrev Ctx := Fin 64
/-- A ring of a function (R384). -/
abbrev Ring := Fin 8
/-- A Dolmel stack S0-S11 and its Press (R161). -/
abbrev Stack := Fin 12
/-- A package cluster number (R12). -/
abbrev Cluster := Fin 200
/-- A fabric port: L0-L13 are 0-13, G0-G5 are 14-19 (R277). -/
abbrev Port := Fin 20
/-- A virtual channel VC0-VC7 (R286). -/
abbrev Vc := Fin 8
/-- A global package number, 64 times the chassis plus the package (R281). -/
abbrev Pkg := Fin 24640

/-- A sparse table: keys strictly rising, and no entry equal to what an unlisted key reads as.
The operations are in `Machine/Tab.lean`. -/
abbrev Tab (α : Type) := List (Nat × α)

end Sys2Proof
end

