-- ==== Sys2Proof/Syntax.lean ====
section
/-!
DEFINITION. The commands of the block (`Instr`), one constructor per row of spec/opcode_table.json, and the operand
types they carry. A command carries what only its sender knows (the fields of an instruction word, the value of a
register write, the bytes of a PCIe completion, a sensor's reading); everything else is read from the state.
-/
namespace Sys2Proof

/-- What a PCIe read completion brings (R400): bytes, an error or a timeout, or poisoned data. -/
inductive HostData where
  | data (bytes : List Byte)
  | abort
  | poison
deriving DecidableEq, Repr

/-- The register of a vat pool that a VAT_POOL_CONFIG command writes (R261). -/
inductive PoolField where
  | bytes
  | ovfBase
  | ovfCount
  | low
  | crit
deriving DecidableEq, Repr

/-- A fabric packet: the header of Table 10.4 and the payload (R284). LEN is the payload's length. `final` is no field of the spec's header: it is the package a
TRICK_ROW bound for another chassis is finally for, which a gateway must know and for which Table 10.9 gives no place (log 24); any other packet has
its DST there, and a copy of a multicast that is routed as unicast, which `wasMcast` marks, has the multicast DST there (R292, log 24). `arrived` is the stamp of a time packet's arrival at this package (R453);
no packet carries it. -/
structure Packet where
  typ     : Byte
  vc      : BitVec 3
  phase   : BitVec 2
  mcast   : Bool
  retx    : Bool
  src     : BitVec 15
  dst     : BitVec 15
  seq     : W32
  srcBoot : W16
  sctx    : BitVec 6
  dctx    : BitVec 6
  opfield : BitVec 128
  payload : List Byte
  final   : BitVec 15
  wasMcast : Bool := false
  arrived  : Nat := 0
deriving DecidableEq, Repr

/-- How the trailer of an arriving packet checks (R280). -/
inductive CrcResult where
  | good
  | bad
  | stomped
deriving DecidableEq, Repr

/-- The four traffic classes of Table 10.6. -/
inductive PktClass where
  | request
  | reply
  | bulk
  | management
deriving DecidableEq, Repr

/-- How a training attempt ends (R278): which halves of the lanes trained, and the package number the far end gave. -/
inductive TrainResult where
  | trained (lower upper : Bool) (peer : BitVec 15)
  | failed
deriving DecidableEq, Repr

/-- Why a port in Up goes Down (R278, R279, Table 17.9). -/
inductive DownCause where
  | lossOfLock
  | lossOfLight
  | fecErrors
  | peerSilent
  | opticsHot
deriving DecidableEq, Repr

/-- What a read of a memory word finds (R144, R164). -/
inductive MemErr where
  | none
  | corrected
  | uncorrectable
deriving DecidableEq, Repr

/-- The credential presented at the debug port (R155, R446) (log 132). -/
structure DebugCred where
  key       : List Byte            -- the public key that signs credentials
  serial    : BitVec 64            -- the part it names
  answer    : List Byte            -- the challenge it answers
  signature : List Byte
deriving DecidableEq, Repr

/-- The factory credential of PROVISION (Table 16.4) (log 132): the public key that signs credentials, what it signs and the signature. -/
structure FactoryCred where
  key       : List Byte
  body      : List Byte
  signature : List Byte
deriving DecidableEq, Repr

/-- An end of a path inside the package (R17): the cluster network of a cluster, a channel of a stack, or the Table. -/
inductive NetEnd where
  | cluster (n : Nat)
  | stack (k channel : Nat)
  | table
deriving DecidableEq, Repr

/-- One passage through the networks that a request makes: the class of its packet (0 request, 1 reply, 2 bulk, 3 management) and its ends. -/
structure NetLeg where
  cls : Nat
  src : NetEnd
  dst : NetEnd
deriving DecidableEq, Repr

/-- A packet of the on-package networks (R16): its class, the context that owns it, if one does, its ends, and in a cluster the port it enters by (0 to 7 its core's group's, 8 the cluster
DMA's). `job` names the request of a core that it carries (core and number), and `legs` are the passages that follow this one: what is read goes back, and what is written is acknowledged. -/
structure NetPkt where
  cls  : Nat
  ctx  : Option Nat
  src  : NetEnd
  dst  : NetEnd
  port : Nat
  job  : Option (Nat × Nat)
  legs : List NetLeg
deriving DecidableEq, Repr

/-- A buffer of the on-package networks (R13, R16): a port of a cluster's network into its crossbar; an input of a router; the way from a router into its cluster's network, into a
stack, across a ring bridge, or across the Table bridge; and the way from a Table bridge back to a north-edge router. Each holds every class apart. -/
inductive NetBuf where
  | port (cluster g : Nat)
  | input (n i : Nat)
  | inward (n : Nat)
  | stack (n : Nat)
  | ring (n : Nat)
  | up (n : Nat)
  | down (n : Nat)
deriving DecidableEq, Repr

/-- A handshake of the networks: an output of a router serves one of its inputs (R18), another buffer passes on the head of a class, or a sender's oldest packet for a buffer enters it. -/
inductive NetTurn where
  | router (n out : Nat)
  | hop (b : NetBuf) (q : Nat)
  | enter (b : NetBuf) (q : Nat)
deriving DecidableEq, Repr

/-- An access that a master presents at a bank (Table 5.2): its row, whether it uses the write port, and whether it is an atomic, which uses the read port and then the write port (R147). -/
structure BankAcc where
  master : Nat
  row    : Nat
  write  : Bool
  atomic : Bool
deriving DecidableEq, Repr

/-- Who presents an access (Table 5.2): an engine of a core (0 control core, 1 vector, 2 matrix, 3 DMA), the cluster DMA of a cluster, what comes over the die network, or a block of the Table. -/
inductive SramUser where
  | engine (core e : Nat)
  | clusterDma (cluster : Nat)
  | dieNet
  | block (b : Nat)
deriving DecidableEq, Repr

/-- An access to SRAM by its physical address (the Table SRAM's bytes from 2^44 on). -/
structure SramAcc where
  user   : SramUser
  addr   : Nat
  len    : Nat
  write  : Bool
  atomic : Bool
deriving DecidableEq, Repr

/-- One handshake of a bank of a cluster. Units 0 to 31 are the cluster-store banks (`bank` is 0); unit 32 + i is the scratchpad of core i, with its 16 banks. Cluster 200 stands for the Table SRAM,
with its 256 banks in unit 0. -/
structure BankTurn where
  cluster : Nat
  unit    : Nat
  bank    : Nat
deriving DecidableEq, Repr

/-- A write of PCI configuration space by the host (R376, R379, R382): Max Payload Size and Max Read Request Size as the Device Control codes 0 (128 bytes) up, ECRC generation and checking, the clearing of the ECRC
error that AER has noted, NumVFs, a function put into D3hot, and the bases of PF0's and the VFs' BAR0. -/
inductive CfgWrite where
  | maxPayload (code : Nat)
  | maxRead (code : Nat)
  | ecrc (on : Bool)
  | clearEcrcError
  | numVfs (n : Nat)
  | d3hot (fn : Nat)
  | pfBar (base : Nat)
  | vfBar (base : Nat)
deriving DecidableEq, Repr

/-- The header fields of Table 14.2. -/
inductive CfgField where
  | vendorId | deviceId | revisionId | classCode | subsystemVendorId | subsystemId | headerType | interruptPin
deriving DecidableEq, Repr

/-- The capabilities of Table 14.3. -/
inductive CfgCap where
  | powerManagement | msix | express | errorReporting | ari | sriov | serialNumber | secondaryExpress | dataLink | phys16 | phys32 | phys64
deriving DecidableEq, Repr

/-- What the capabilities of Tables 14.1 and 14.3 say of every function. -/
inductive CapField where
  | noSoftReset | d3hotSupport | msixVectors | msixTable | msixPba | flrCapable | maxPayload | maxRead | ecrcEnabled | ecrcError
deriving DecidableEq, Repr

/-- The fields of PF0's SR-IOV capability (Table 14.4). Page sizes are bits from 4 KiB up; BAR j of the VFs is `vfBar j`. -/
inductive SriovField where
  | initialVfs | totalVfs | numVfs | vfEnable | ariHierarchy | firstVfOffset | vfStride | vfDeviceId | supportedPageSizes | vfBar (j : Fin 6)
deriving DecidableEq, Repr

/-- What a read of configuration space names: a header field, base address register j, the offset of a capability, one of its fields, or the serial number. -/
inductive CfgReg where
  | header (f : CfgField)
  | bar (j : Fin 6)
  | capAt (c : CfgCap)
  | cap (f : CapField)
  | sriov (f : SriovField)
  | serial
deriving DecidableEq, Repr

/-- What happens or holds during one 6.4 ns timebase step and only the environment knows: the accesses to banks that follow from no command's own operands (fetch, the matrix engine, command blocks, the cluster DMA, the
Table's blocks), the handshakes of banks and of the networks, and the packets of blocks whose commands name none (R18, R145); the requests that a cluster DMA sends (true) or that end (R151); the words that are damaged (physical address, and whether beyond correction; R144, R164) and the words of
vats in Table SRAM (pool, index, 8-byte word, R144); the vats that firmware asks for (its number for the request, bytes) and frees (R264); the reads of BAR0 (function, offset, bytes), the writes and the reads of configuration space that the host makes (R376, R383), and whether something comes from it whose ECRC is wrong; whether every rail now stands within its absolute limits, and within its steady-state band (R468), and the level that SYS_RST_N goes to (R474); the cores found failed by a self-check or an engine's error (R28) and the routers that fail (R29); the FEC results of a port (corrected and uncorrectable
codewords, R305); whether the identity key is put to another use than R447 allows (R154); and the cores with an engine executing and the contexts the Dealer, ring engine or weight fetch works for (R434). -/
structure StepEnv where
  accesses  : List SramAcc
  bankTurns : List BankTurn
  netIn     : List NetPkt
  netTurns  : List NetTurn
  cdma      : List (Nat × Bool)
  upsets    : List (Nat × Bool)
  vatUpsets : List (Nat × Nat × Nat × Bool)
  fwAsk     : List (Nat × Nat)
  fwFree    : List (Nat × Bool × Nat)
  barReads  : List (Nat × Nat × Nat)
  cfgWrites : List CfgWrite
  cfgReads  : List (Nat × CfgReg)
  badEcrc   : Bool
  rails     : Option (Bool × Bool)
  sysRst    : Option Bool
  badCores  : List Nat
  badRouters : List Nat
  keyMisuse : Bool
  fec       : List (Nat × Nat × Nat)
  busyCores : List Nat
  tableBusy : List Nat
deriving DecidableEq, Repr

/-- What firmware's 100 microsecond thermal and power loop reads and computes (R478, R479): the hottest reading of each
sensor in 1/16 degree Celsius, mean package power, the thermal set point of each die and the common cap set point in 5 mV steps,
for each die whether its regulator acknowledged the last write, and what READ_VOUT reports before each write that the interval has time for (R471). -/
structure ThermalEnv where
  dies       : List W16
  table      : W16
  stackTemps     : List W16
  optics     : List W16
  powerW     : Nat
  thermalSet : List Nat
  capSet     : Nat
  acks       : List Bool
  vouts      : List (List W16)
deriving DecidableEq, Repr

/-- The part whose junction reached its trip point (Table 17.9). -/
inductive TripPart where
  | die (d : Fin 4)
  | table
  | stack (s : Stack)
  | optics (p : Port)
deriving DecidableEq, Repr

/-- A junction reading, in sixteenths of a degree, that the trip sensor of a part has taken (R478, R480). -/
structure TripReading where
  part    : TripPart
  reading : W16
deriving DecidableEq, Repr

/-- The commands of the block: one constructor per row of the spec's table of operations and events. -/
inductive Instr where
  | registerWrite (fn : Fn) (offset size : Nat) (value : W64)
  | highestLowestReset (offset : Nat) (value : W64)
  | conflictClr (cluster : Cluster) (value : W64) (lost : List Nat)
  | fabCntClr (value : W64) (same : List Nat)
  | slotSel (fn : Fn) (value : W64)
  | vfReset (value : W64)
  | ringEn (fn : Fn) (value : W64)
  | rcvGo (value : W64) (part : Nat)
  | pkgReset (value : W64)
  | tbSet (value : W64)
  | vatPoolConfig (k : Fin 6) (field : PoolField) (value : W64)
  | vatQuotaWrite (c : Ctx) (e : Fin 4) (k : Fin 6) (value : W64)
  | fabPortCtl (p : Port) (value : W64)
  | mxDrained (cluster : Cluster) (drained : Bool)
  | mxDrainedTakeEffect (core : Core)
  | msixVectorUnmask (fn : Fn) (vector : Fin 64)
  | add (core : Core) (rd rs1 rs2 : R5)
  | sub (core : Core) (rd rs1 rs2 : R5)
  | and (core : Core) (rd rs1 rs2 : R5)
  | or (core : Core) (rd rs1 rs2 : R5)
  | xor (core : Core) (rd rs1 rs2 : R5)
  | sll (core : Core) (rd rs1 rs2 : R5)
  | srl (core : Core) (rd rs1 rs2 : R5)
  | sra (core : Core) (rd rs1 rs2 : R5)
  | mul (core : Core) (rd rs1 rs2 : R5)
  | mulhu (core : Core) (rd rs1 rs2 : R5)
  | min (core : Core) (rd rs1 rs2 : R5)
  | max (core : Core) (rd rs1 rs2 : R5)
  | minu (core : Core) (rd rs1 rs2 : R5)
  | maxu (core : Core) (rd rs1 rs2 : R5)
  | divu (core : Core) (rd rs1 rs2 : R5)
  | remu (core : Core) (rd rs1 rs2 : R5)
  | addi (core : Core) (rd rs1 : R5) (imm : Imm)
  | andi (core : Core) (rd rs1 : R5) (imm : Imm)
  | ori (core : Core) (rd rs1 : R5) (imm : Imm)
  | xori (core : Core) (rd rs1 : R5) (imm : Imm)
  | slli (core : Core) (rd rs1 : R5) (rsvd : BitVec 8) (sh : BitVec 6)
  | srli (core : Core) (rd rs1 : R5) (rsvd : BitVec 8) (sh : BitVec 6)
  | srai (core : Core) (rd rs1 : R5) (rsvd : BitVec 8) (sh : BitVec 6)
  | movi (core : Core) (rd rsvd : R5) (imm : Imm)
  | shori (core : Core) (rd rsvd : R5) (imm : Imm)
  | cmp (core : Core) (pd : P2) (cc : BitVec 3) (rs1 rs2 : R5) (rsvd : BitVec 11)
  | cmpi (core : Core) (pd : P2) (cc : BitVec 3) (rs1 : R5) (imm : Imm)
  | pand (core : Core) (pd pa pb : P2) (rsvd : R5)
  | por (core : Core) (pd pa pb : P2) (rsvd : R5)
  | pxor (core : Core) (pd pa pb : P2) (rsvd : R5)
  | pnot (core : Core) (pd pa : P2) (rsvd : R5)
  | pset (core : Core) (pd : P2) (rsvd : R5)
  | pclr (core : Core) (pd : P2) (rsvd : R5)
  | tstb (core : Core) (pd : P2) (rs1 : R5) (bit : BitVec 6) (rsvd : R5)
  | br (core : Core) (p : P2) (t : Bool) (off : BitVec 23)
  | j (core : Core) (off : BitVec 26)
  | jal (core : Core) (off : BitVec 26)
  | jalr (core : Core) (rd rs1 : R5) (rsvd : BitVec 16)
  | dbnz (core : Core) (rs : R5) (off : BitVec 21)
  | ldB (core : Core) (rd rs1 : R5) (imm : Imm)
  | ldBu (core : Core) (rd rs1 : R5) (imm : Imm)
  | ldH (core : Core) (rd rs1 : R5) (imm : Imm)
  | ldHu (core : Core) (rd rs1 : R5) (imm : Imm)
  | ldW (core : Core) (rd rs1 : R5) (imm : Imm)
  | ldWu (core : Core) (rd rs1 : R5) (imm : Imm)
  | ldD (core : Core) (rd rs1 : R5) (imm : Imm)
  | stB (core : Core) (rd rs1 : R5) (imm : Imm)
  | stH (core : Core) (rd rs1 : R5) (imm : Imm)
  | stW (core : Core) (rd rs1 : R5) (imm : Imm)
  | stD (core : Core) (rd rs1 : R5) (imm : Imm)
  | amoAdd (core : Core) (rd rs1 rs2 : R5)
  | amoMin (core : Core) (rd rs1 rs2 : R5)
  | amoMax (core : Core) (rd rs1 rs2 : R5)
  | amoAnd (core : Core) (rd rs1 rs2 : R5)
  | amoOr (core : Core) (rd rs1 rs2 : R5)
  | amoXchg (core : Core) (rd rs1 rs2 : R5)
  | amoCas (core : Core) (rd rs1 rs2 : R5)
  | waitMx (core : Core) (rsvd : BitVec 3) (n : BitVec 8)
  | waitVx (core : Core) (rsvd : BitVec 3) (n : BitVec 8)
  | waitDma (core : Core) (rsvd : BitVec 3) (n : BitVec 8)
  | fenceL (core : Core) (rsvd : BitVec 3)
  | fenceG (core : Core) (rsvd : BitVec 3)
  | waitSatisfied (core : Core)
  | waitw (core : Core) (pd : P2) (rs1 rs2 : R5) (rsvd : BitVec 3)
  | waitwWake (core : Core)
  | waitwTimeout (core : Core)
  | issueMxi (core : Core) (rs1 : R5) (rsvd : BitVec 18)
  | issueVxc (core : Core) (rs1 : R5) (rsvd : BitVec 18)
  | issueDmai (core : Core) (rs1 : R5) (rsvd : BitVec 18)
  | queueRoomFreed (core : Core)
  | sumrPop (core : Core) (rd : R5) (rsvd : BitVec 18)
  | sumrLastMx (core : Core) (rd : R5) (rsvd : BitVec 18)
  | sumrOrMx (core : Core) (rd : R5) (rsvd : BitVec 18)
  | sumrDma (core : Core) (rd : R5) (rsvd : BitVec 18)
  | trap (core : Core) (rsvd : Bool) (imm : Imm)
  | yield (core : Core) (rsvd : Bool)
  | rdtb (core : Core) (rd : R5) (rsvd : Bool) (lag : Fin 3)
  | csrr (core : Core) (rd : R5) (rsvd : Bool) (imm : Imm)
  | csrw (core : Core) (rs : R5) (rsvd : Bool) (imm : Imm)
  | setvl (core : Core) (rd rs1 : R5) (rsvd : BitVec 12) (ty : Ty)
  | vadd (core : Core) (vd vs1 vs2 : R5) (mk : M3) (ty : Ty)
  | vsub (core : Core) (vd vs1 vs2 : R5) (mk : M3) (ty : Ty)
  | vmul (core : Core) (vd vs1 vs2 : R5) (mk : M3) (ty : Ty)
  | vmac (core : Core) (vd vs1 vs2 : R5) (mk : M3) (ty : Ty)
  | vmin (core : Core) (vd vs1 vs2 : R5) (mk : M3) (ty : Ty)
  | vmax (core : Core) (vd vs1 vs2 : R5) (mk : M3) (ty : Ty)
  | vabs (core : Core) (vd vs1 vs2 : R5) (mk : M3) (ty : Ty)
  | vneg (core : Core) (vd vs1 vs2 : R5) (mk : M3) (ty : Ty)
  | vrcp (core : Core) (vd vs1 vs2 : R5) (mk : M3) (ty : Ty)
  | vsqrt (core : Core) (vd vs1 vs2 : R5) (mk : M3) (ty : Ty)
  | vrsqrt (core : Core) (vd vs1 vs2 : R5) (mk : M3) (ty : Ty)
  | vexp (core : Core) (vd vs1 vs2 : R5) (mk : M3) (ty : Ty)
  | vmov (core : Core) (vd vs1 vs2 : R5) (mk : M3) (ty : Ty)
  | vmerge (core : Core) (vd vs1 vs2 : R5) (mk : M3) (ty : Ty)
  | vadds (core : Core) (vd vs1 rs : R5) (mk : M3) (ty : Ty)
  | vsubs (core : Core) (vd vs1 rs : R5) (mk : M3) (ty : Ty)
  | vmuls (core : Core) (vd vs1 rs : R5) (mk : M3) (ty : Ty)
  | vmins (core : Core) (vd vs1 rs : R5) (mk : M3) (ty : Ty)
  | vmaxs (core : Core) (vd vs1 rs : R5) (mk : M3) (ty : Ty)
  | vsplat (core : Core) (vd vs1 rs : R5) (mk : M3) (ty : Ty)
  | vext (core : Core) (vd vs1 rs : R5) (mk : M3) (ty : Ty)
  | vcmp (core : Core) (rsvd : P2) (md : M3) (vs1 vs2 : R5) (mk : M3) (ty fn : Ty)
  | vredSum (core : Core) (vd vs1 vs2 : R5) (mk : M3) (ty : Ty)
  | vredMax (core : Core) (vd vs1 vs2 : R5) (mk : M3) (ty : Ty)
  | vredMin (core : Core) (vd vs1 vs2 : R5) (mk : M3) (ty : Ty)
  | vredProd (core : Core) (vd vs1 vs2 : R5) (mk : M3) (ty : Ty)
  | vredMean (core : Core) (vd vs1 vs2 : R5) (mk : M3) (ty : Ty)
  | vredArgmax (core : Core) (vd vs1 vs2 : R5) (mk : M3) (ty : Ty)
  | vredArgmin (core : Core) (vd vs1 vs2 : R5) (mk : M3) (ty : Ty)
  | vredSoftmax (core : Core) (vd vs1 vs2 : R5) (mk : M3) (ty : Ty)
  | vcvt (core : Core) (vd vs1 : R5) (src part dst : Ty) (sr ieee : Bool) (rsvd : P2)
  | mand (core : Core) (md ma mb : M3) (rsvd : BitVec 13)
  | mor (core : Core) (md ma mb : M3) (rsvd : BitVec 13)
  | mxor (core : Core) (md ma mb : M3) (rsvd : BitVec 13)
  | mandn (core : Core) (md ma mb : M3) (rsvd : BitVec 13)
  | mnot (core : Core) (md ma mb : M3) (rsvd : BitVec 13)
  | mset (core : Core) (md ma mb : M3) (rsvd : BitVec 13)
  | mclr (core : Core) (md ma mb : M3) (rsvd : BitVec 13)
  | mpop (core : Core) (md ma mb : M3) (rsvd : BitVec 13)
  | mfirst (core : Core) (md ma mb : M3) (rsvd : BitVec 13)
  | vld (core : Core) (vd rs1 rs2 : R5) (mk : M3) (ty : Ty)
  | vst (core : Core) (vd rs1 rs2 : R5) (mk : M3) (ty : Ty)
  | vldm (core : Core) (rsvd : P2) (md : M3) (rs1 rs2 : R5) (mk : M3) (ty : Ty)
  | vstm (core : Core) (rsvd : P2) (md : M3) (rs1 rs2 : R5) (mk : M3) (ty : Ty)
  | vxQuant (core : Core)
  | vxAcomb (core : Core)
  | vxTopf (core : Core)
  | mxPass (core : Core)
  | mxGroup (core : Core)
  | mxGroupMerge (core : Core)
  | mxRead (core : Core)
  | mxClear (core : Core)
  | mxLoadacc (core : Core)
  | mxAddacc (core : Core)
  | mxCommandComplete (core : Core)
  | dmaCopy (core : Core)
  | dmaFill (core : Core)
  | atomicAdd (core : Core)
  | atomicMin (core : Core)
  | atomicMax (core : Core)
  | atomicAnd (core : Core)
  | atomicOr (core : Core)
  | atomicXchg (core : Core)
  | atomicCas (core : Core)
  | dmaRequestComplete (core : Core) (i : Nat)
  | hskMeterWindow (cluster : Cluster) (handshakes : Nat)
  | coreAckTimeout (core : Core)
  | clusterRetired (cluster : Cluster)
  | patrolScrub (s : Stack) (word : Nat) (err : MemErr)
  | flatRemapComplete (s : Stack)
  | seqStateAccess (core : Core) (i : Nat)
  | attention (s : Stack)
  | attentionDone (s : Stack)
  | tilePack (s : Stack)
  | tileUnpack (s : Stack)
  | seqAdmit (fn : Fn) (ring : Ring)
  | seqRetire (fn : Fn) (ring : Ring)
  | seqModify (fn : Fn) (ring : Ring)
  | seqStep (fn : Fn) (ring : Ring)
  | stepBoundary (c : Ctx)
  | boundaryComplete
  | dealTrick (c : Ctx)
  | dealReturn (c : Ctx)
  | dealDirset (fn : Fn) (ring : Ring)
  | dirsetApply (fn : Fn) (ring : Ring)
  | trickRow
  | trickBundle
  | trickNotice
  | trickStalled (c : Ctx) (trickId : W32)
  | packetForward (p : Port) (pkt : Packet) (trailer : W32)
  | ack
  | ackSend (peer : Pkg) (cls : PktClass)
  | retransmit (peer : Pkg) (cls : PktClass) (seq : W32)
  | deadTarget (peer : Pkg)
  | linkState
  | linkStateSend (chassisWide : Bool)
  | neighbourSilent (peer : Pkg)
  | trainingComplete (p : Port) (result : TrainResult)
  | portDown (p : Port) (cause : DownCause)
  | retrainTimer (p : Port)
  | fabRetrain
  | fabGwset
  | fabRevive
  | rdReq
  | wrReq
  | fillReq
  | atReq
  | batchPerform
  | rdReply
  | atReply
  | wrStatus
  | replyTimeout (slot : Fin 65536)
  | collLaunch (fn : Fn) (ring : Ring)
  | collAbort (fn : Fn) (ring : Ring)
  | collStart (c : Ctx) (collId : W32)
  | collData
  | collZero
  | collCredit
  | collNack
  | collCtrlPause
  | collCtrlResume
  | collCtrlAbort
  | collCtrlRelease
  | collWatchdog (c : Ctx) (collId : W32)
  | whlLoad (fn : Fn) (ring : Ring)
  | epochDeclare (fn : Fn) (ring : Ring)
  | weightRelease (fn : Fn) (ring : Ring)
  | whlPull
  | whlData
  | whlMcast
  | whlEnd
  | whlNack
  | pullTimeout (load : Nat) (pull : Nat)
  | pullRoundWait (load : Nat) (wheel : Nat)
  | mcastIdle (load : Nat)
  | whlWatchdog (load : Nat)
  | hostReadCompletion (readId : Nat) (data : HostData)
  | sqTail (fn : Fn) (ring : Ring) (value : W32)
  | cqHead (fn : Fn) (ring : Ring) (value : W32)
  | evqHead (value : W32)
  | cqModTimer (fn : Fn) (ring : Ring)
  | nop (fn : Fn) (ring : Ring)
  | hostCopy (fn : Fn) (ring : Ring)
  | ringBarrier (fn : Fn) (ring : Ring)
  | fwFlash (fn : Fn) (ring : Ring) (image : HostData) (readBackOk : Bool)
  | functionLevelReset (fn : Fn)
  | vfEnableClear
  | linkReset
  | functionResetDone (fn : Fn)
  | ctxCreate (fn : Fn) (ring : Ring)
  | ctxMap (fn : Fn) (ring : Ring)
  | ctxPreempt (fn : Fn) (ring : Ring)
  | coresStopped (c : Ctx)
  | preemptComplete (c : Ctx)
  | ctxResume (fn : Fn) (ring : Ring)
  | resumeComplete (c : Ctx) (verified : Bool)
  | ctxDestroy (fn : Fn) (ring : Ring)
  | teardownDrainEnd (c : Ctx)
  | ctxReclaim (fn : Fn) (ring : Ring) (keepList : HostData)
  | reclaimDeadline
  | reclaimCopiesDone
  | ctxKeyset (fn : Fn) (ring : Ring) (key : HostData)
  | acctWindowEnd
  | railEnergyInterval (energy : List Nat)
  | packageReset (lowNs : Nat)
  | packageResetRelease
  | brownOut
  | firmwareWatchdog
  | tableSramWipeDone
  | pressWipeDone (s : Stack)
  | clusterWipeDone (c : Ctx)
  | debugUnlock (credential : DebugCred)
  | provision (credential : FactoryCred) (certificate : List Byte)
  | rindWipeDone
  | lcDeploy (fn : Fn) (ring : Ring) (key : HostData)
  | secAttest (fn : Fn) (ring : Ring) (challenge : HostData)
  | mgmtSend (fn : Fn) (ring : Ring) (packet : HostData)
  | mgmtCmd
  | attest
  | certRead
  | mgmtHome
  | jobTeardown
  | timeConfig
  | timeSet
  | lcAdvance
  | mgmtKeyset
  | ledgerRead
  | timeExchange
  | timeReq (t2 t3 : W64)
  | timeResp (t4 : W64)
  | timeHoldover
  | timebaseStep (env : StepEnv)
  | ledgerSave
  | ledgerSaveDone
  | thermalControl (env : ThermalEnv)
  | vrRetry (die : Fin 4) (ack : Bool)
  | vrAlert (status : List (BitVec 16))
  | thermalTrip (sensor : TripReading)
  | refclkLost
  | refclkRestored
  | position (pecOk : Bool) (data : BitVec 24)
  | status (pecOk : Bool)
  | powerDown (pecOk : Bool)
  | temp (pecOk : Bool)
  | power (pecOk : Bool)
  | cap (pecOk : Bool) (watts : BitVec 16)
  | vectorInstructionComplete (core : Core)
  | linkCredit (p : Port) (vc : Vc) (units : Nat)
  | vfEnableSet (numVfs : Fin 64) (ari : Bool)
  | collPreemptDeadline (c : Ctx)
  | acctCtl (value : W64)
deriving DecidableEq, Repr

end Sys2Proof
end

