-- ==== Sys2Proof/Decode.lean ====
section
/-!
DEFINITION. From words to commands. No row of the opcode table has bits, so no table word spells a command (log 47). What the spec
does encode is the instruction word of a control core (R126, R127): `decodeCoreWord` reads Tables 4.4 to 4.11.
-/
namespace Sys2Proof

/-- The command that a word of the opcode table spells: none, since no row has bits. -/
def decodeTableWord (_nbits _w : Nat) : Option Instr := none

/-- The fields of the formats of Table 4.4. -/
def wordOp (w : W32) : Nat := (w.extractLsb' 26 6).toNat
def wordRd (w : W32) : R5 := w.extractLsb' 21 5
def wordRs1 (w : W32) : R5 := w.extractLsb' 16 5
def wordRs2 (w : W32) : R5 := w.extractLsb' 11 5
def wordImm (w : W32) : Imm := w.extractLsb' 0 16
def wordPd (w : W32) : P2 := w.extractLsb' 24 2
def wordMk (w : W32) : M3 := w.extractLsb' 8 3
def wordTy (w : W32) : Ty := w.extractLsb' 4 4
def wordFn4 (w : W32) : Nat := (w.extractLsb' 0 4).toNat

/-- Table 4.6. -/
def decodeAlu (core : Core) (w : W32) : Option Instr :=
  match (w.extractLsb' 0 11).toNat with
  | 0 => some (.add core (wordRd w) (wordRs1 w) (wordRs2 w))
  | 1 => some (.sub core (wordRd w) (wordRs1 w) (wordRs2 w))
  | 2 => some (.and core (wordRd w) (wordRs1 w) (wordRs2 w))
  | 3 => some (.or core (wordRd w) (wordRs1 w) (wordRs2 w))
  | 4 => some (.xor core (wordRd w) (wordRs1 w) (wordRs2 w))
  | 5 => some (.sll core (wordRd w) (wordRs1 w) (wordRs2 w))
  | 6 => some (.srl core (wordRd w) (wordRs1 w) (wordRs2 w))
  | 7 => some (.sra core (wordRd w) (wordRs1 w) (wordRs2 w))
  | 8 => some (.mul core (wordRd w) (wordRs1 w) (wordRs2 w))
  | 9 => some (.mulhu core (wordRd w) (wordRs1 w) (wordRs2 w))
  | 10 => some (.min core (wordRd w) (wordRs1 w) (wordRs2 w))
  | 11 => some (.max core (wordRd w) (wordRs1 w) (wordRs2 w))
  | 12 => some (.minu core (wordRd w) (wordRs1 w) (wordRs2 w))
  | 13 => some (.maxu core (wordRd w) (wordRs1 w) (wordRs2 w))
  | 14 => some (.divu core (wordRd w) (wordRs1 w) (wordRs2 w))
  | 15 => some (.remu core (wordRd w) (wordRs1 w) (wordRs2 w))
  | _ => none

/-- SHIFTI: imm[15:14] selects, imm[13:6] is RSVD, imm[5:0] the shift (Table 4.5). -/
def decodeShifti (core : Core) (w : W32) : Option Instr :=
  match (w.extractLsb' 14 2).toNat with
  | 0 => some (.slli core (wordRd w) (wordRs1 w) (w.extractLsb' 6 8) (w.extractLsb' 0 6))
  | 1 => some (.srli core (wordRd w) (wordRs1 w) (w.extractLsb' 6 8) (w.extractLsb' 0 6))
  | 2 => some (.srai core (wordRd w) (wordRs1 w) (w.extractLsb' 6 8) (w.extractLsb' 0 6))
  | _ => none

/-- Table 4.7. TSTB names its register in [15:11] and its bit in [10:5]. -/
def decodePred (core : Core) (w : W32) : Option Instr :=
  match (w.extractLsb' 22 4).toNat with
  | 0 => some (.pand core (w.extractLsb' 20 2) (w.extractLsb' 18 2) (w.extractLsb' 16 2) (w.extractLsb' 0 5))
  | 1 => some (.por core (w.extractLsb' 20 2) (w.extractLsb' 18 2) (w.extractLsb' 16 2) (w.extractLsb' 0 5))
  | 2 => some (.pxor core (w.extractLsb' 20 2) (w.extractLsb' 18 2) (w.extractLsb' 16 2) (w.extractLsb' 0 5))
  | 3 => some (.pnot core (w.extractLsb' 20 2) (w.extractLsb' 18 2) (w.extractLsb' 0 5))
  | 4 => some (.pset core (w.extractLsb' 20 2) (w.extractLsb' 0 5))
  | 5 => some (.pclr core (w.extractLsb' 20 2) (w.extractLsb' 0 5))
  | 6 => some (.tstb core (w.extractLsb' 20 2) (wordRs2 w) (w.extractLsb' 5 6) (w.extractLsb' 0 5))
  | _ => none

/-- AMO (Table 4.5). -/
def decodeAmo (core : Core) (w : W32) : Option Instr :=
  match (w.extractLsb' 0 11).toNat with
  | 0 => some (.amoAdd core (wordRd w) (wordRs1 w) (wordRs2 w))
  | 1 => some (.amoMin core (wordRd w) (wordRs1 w) (wordRs2 w))
  | 2 => some (.amoMax core (wordRd w) (wordRs1 w) (wordRs2 w))
  | 3 => some (.amoAnd core (wordRd w) (wordRs1 w) (wordRs2 w))
  | 4 => some (.amoOr core (wordRd w) (wordRs1 w) (wordRs2 w))
  | 5 => some (.amoXchg core (wordRd w) (wordRs1 w) (wordRs2 w))
  | 6 => some (.amoCas core (wordRd w) (wordRs1 w) (wordRs2 w))
  | _ => none

/-- Table 4.8. -/
def decodeWait (core : Core) (w : W32) : Option Instr :=
  match (w.extractLsb' 8 3).toNat with
  | 0 => some (.waitMx core (w.extractLsb' 21 3) (w.extractLsb' 0 8))
  | 1 => some (.waitVx core (w.extractLsb' 21 3) (w.extractLsb' 0 8))
  | 2 => some (.waitDma core (w.extractLsb' 21 3) (w.extractLsb' 0 8))
  | 3 => some (.fenceL core (w.extractLsb' 21 3))
  | 4 => some (.fenceG core (w.extractLsb' 21 3))
  | 5 => some (.waitw core (wordPd w) (wordRs1 w) (wordRs2 w) (w.extractLsb' 21 3))
  | _ => none

/-- ISSUE: rd, rs2 and fn[7:0] are RSVD (Table 4.5). -/
def decodeIssue (core : Core) (w : W32) : Option Instr :=
  match (w.extractLsb' 8 3).toNat with
  | 0 => some (.issueMxi core (wordRs1 w) ((w.extractLsb' 21 5) ++ (w.extractLsb' 11 5) ++ (w.extractLsb' 0 8)))
  | 1 => some (.issueVxc core (wordRs1 w) ((w.extractLsb' 21 5) ++ (w.extractLsb' 11 5) ++ (w.extractLsb' 0 8)))
  | 2 => some (.issueDmai core (wordRs1 w) ((w.extractLsb' 21 5) ++ (w.extractLsb' 11 5) ++ (w.extractLsb' 0 8)))
  | _ => none

/-- SUMR: rs1, rs2 and fn[7:0] are RSVD (Table 4.5). -/
def decodeSumr (core : Core) (w : W32) : Option Instr :=
  match (w.extractLsb' 8 3).toNat with
  | 0 => some (.sumrPop core (wordRd w) ((w.extractLsb' 16 5) ++ (w.extractLsb' 11 5) ++ (w.extractLsb' 0 8)))
  | 1 => some (.sumrLastMx core (wordRd w) ((w.extractLsb' 16 5) ++ (w.extractLsb' 11 5) ++ (w.extractLsb' 0 8)))
  | 2 => some (.sumrOrMx core (wordRd w) ((w.extractLsb' 16 5) ++ (w.extractLsb' 11 5) ++ (w.extractLsb' 0 8)))
  | 3 => some (.sumrDma core (wordRd w) ((w.extractLsb' 16 5) ++ (w.extractLsb' 11 5) ++ (w.extractLsb' 0 8)))
  | _ => none

/-- Table 4.9. The timebase copy of RDTB lags by a number of steps the word does not say (R27): 0 here. -/
def decodeSys (core : Core) (w : W32) : Option Instr :=
  match (w.extractLsb' 22 4).toNat with
  | 0 => some (.trap core (w.getLsbD 16) (wordImm w))
  | 1 => some (.yield core (w.getLsbD 16))
  | 2 => some (.rdtb core (w.extractLsb' 17 5) (w.getLsbD 16) 0)
  | 3 => some (.csrr core (w.extractLsb' 17 5) (w.getLsbD 16) (wordImm w))
  | 4 => some (.csrw core (w.extractLsb' 17 5) (w.getLsbD 16) (wordImm w))
  | _ => none

/-- VOP (Table 4.11). -/
def decodeVop (core : Core) (w : W32) : Option Instr :=
  match wordFn4 w with
  | 0 => some (.vadd core (wordRd w) (wordRs1 w) (wordRs2 w) (wordMk w) (wordTy w))
  | 1 => some (.vsub core (wordRd w) (wordRs1 w) (wordRs2 w) (wordMk w) (wordTy w))
  | 2 => some (.vmul core (wordRd w) (wordRs1 w) (wordRs2 w) (wordMk w) (wordTy w))
  | 3 => some (.vmac core (wordRd w) (wordRs1 w) (wordRs2 w) (wordMk w) (wordTy w))
  | 4 => some (.vmin core (wordRd w) (wordRs1 w) (wordRs2 w) (wordMk w) (wordTy w))
  | 5 => some (.vmax core (wordRd w) (wordRs1 w) (wordRs2 w) (wordMk w) (wordTy w))
  | 6 => some (.vabs core (wordRd w) (wordRs1 w) (wordRs2 w) (wordMk w) (wordTy w))
  | 7 => some (.vneg core (wordRd w) (wordRs1 w) (wordRs2 w) (wordMk w) (wordTy w))
  | 8 => some (.vrcp core (wordRd w) (wordRs1 w) (wordRs2 w) (wordMk w) (wordTy w))
  | 9 => some (.vsqrt core (wordRd w) (wordRs1 w) (wordRs2 w) (wordMk w) (wordTy w))
  | 10 => some (.vrsqrt core (wordRd w) (wordRs1 w) (wordRs2 w) (wordMk w) (wordTy w))
  | 11 => some (.vexp core (wordRd w) (wordRs1 w) (wordRs2 w) (wordMk w) (wordTy w))
  | 12 => some (.vmov core (wordRd w) (wordRs1 w) (wordRs2 w) (wordMk w) (wordTy w))
  | 13 => some (.vmerge core (wordRd w) (wordRs1 w) (wordRs2 w) (wordMk w) (wordTy w))
  | _ => none

/-- VOPS (Table 4.11). -/
def decodeVops (core : Core) (w : W32) : Option Instr :=
  match wordFn4 w with
  | 0 => some (.vadds core (wordRd w) (wordRs1 w) (wordRs2 w) (wordMk w) (wordTy w))
  | 1 => some (.vsubs core (wordRd w) (wordRs1 w) (wordRs2 w) (wordMk w) (wordTy w))
  | 2 => some (.vmuls core (wordRd w) (wordRs1 w) (wordRs2 w) (wordMk w) (wordTy w))
  | 3 => some (.vmins core (wordRd w) (wordRs1 w) (wordRs2 w) (wordMk w) (wordTy w))
  | 4 => some (.vmaxs core (wordRd w) (wordRs1 w) (wordRs2 w) (wordMk w) (wordTy w))
  | 5 => some (.vsplat core (wordRd w) (wordRs1 w) (wordRs2 w) (wordMk w) (wordTy w))
  | 6 => some (.vext core (wordRd w) (wordRs1 w) (wordRs2 w) (wordMk w) (wordTy w))
  | _ => none

/-- VRED: fn is OP of Table 4.3. -/
def decodeVred (core : Core) (w : W32) : Option Instr :=
  match wordFn4 w with
  | 0 => some (.vredSum core (wordRd w) (wordRs1 w) (wordRs2 w) (wordMk w) (wordTy w))
  | 1 => some (.vredMax core (wordRd w) (wordRs1 w) (wordRs2 w) (wordMk w) (wordTy w))
  | 2 => some (.vredMin core (wordRd w) (wordRs1 w) (wordRs2 w) (wordMk w) (wordTy w))
  | 3 => some (.vredProd core (wordRd w) (wordRs1 w) (wordRs2 w) (wordMk w) (wordTy w))
  | 4 => some (.vredMean core (wordRd w) (wordRs1 w) (wordRs2 w) (wordMk w) (wordTy w))
  | 5 => some (.vredArgmax core (wordRd w) (wordRs1 w) (wordRs2 w) (wordMk w) (wordTy w))
  | 6 => some (.vredArgmin core (wordRd w) (wordRs1 w) (wordRs2 w) (wordMk w) (wordTy w))
  | 7 => some (.vredSoftmax core (wordRd w) (wordRs1 w) (wordRs2 w) (wordMk w) (wordTy w))
  | _ => none

/-- VMSK (Table 4.11). -/
def decodeVmsk (core : Core) (w : W32) : Option Instr :=
  match wordFn4 w with
  | 0 => some (.mand core (w.extractLsb' 23 3) (w.extractLsb' 20 3) (w.extractLsb' 17 3) (w.extractLsb' 4 13))
  | 1 => some (.mor core (w.extractLsb' 23 3) (w.extractLsb' 20 3) (w.extractLsb' 17 3) (w.extractLsb' 4 13))
  | 2 => some (.mxor core (w.extractLsb' 23 3) (w.extractLsb' 20 3) (w.extractLsb' 17 3) (w.extractLsb' 4 13))
  | 3 => some (.mandn core (w.extractLsb' 23 3) (w.extractLsb' 20 3) (w.extractLsb' 17 3) (w.extractLsb' 4 13))
  | 4 => some (.mnot core (w.extractLsb' 23 3) (w.extractLsb' 20 3) (w.extractLsb' 17 3) (w.extractLsb' 4 13))
  | 5 => some (.mset core (w.extractLsb' 23 3) (w.extractLsb' 20 3) (w.extractLsb' 17 3) (w.extractLsb' 4 13))
  | 6 => some (.mclr core (w.extractLsb' 23 3) (w.extractLsb' 20 3) (w.extractLsb' 17 3) (w.extractLsb' 4 13))
  | 7 => some (.mpop core (w.extractLsb' 23 3) (w.extractLsb' 20 3) (w.extractLsb' 17 3) (w.extractLsb' 4 13))
  | 8 => some (.mfirst core (w.extractLsb' 23 3) (w.extractLsb' 20 3) (w.extractLsb' 17 3) (w.extractLsb' 4 13))
  | _ => none

/-- VMEM (Table 4.11). -/
def decodeVmem (core : Core) (w : W32) : Option Instr :=
  match wordFn4 w with
  | 0 => some (.vld core (wordRd w) (wordRs1 w) (wordRs2 w) (wordMk w) (wordTy w))
  | 1 => some (.vst core (wordRd w) (wordRs1 w) (wordRs2 w) (wordMk w) (wordTy w))
  | 2 => some (.vldm core (wordPd w) (w.extractLsb' 21 3) (wordRs1 w) (wordRs2 w) (wordMk w) (wordTy w))
  | 3 => some (.vstm core (wordPd w) (w.extractLsb' 21 3) (wordRs1 w) (wordRs2 w) (wordMk w) (wordTy w))
  | _ => none

/-- The command a core executes for an instruction word (Table 4.5): none for the all-zero word, a reserved opcode and a reserved function code, each an illegal
instruction (R126). RSVD bits are operands of the command, whose meaning refuses them. -/
def decodeCoreWord (core : Core) (w : W32) : Option Instr :=
  match wordOp w with
  | 0x01 => decodeAlu core w
  | 0x02 => some (.addi core (wordRd w) (wordRs1 w) (wordImm w))
  | 0x03 => some (.andi core (wordRd w) (wordRs1 w) (wordImm w))
  | 0x04 => some (.ori core (wordRd w) (wordRs1 w) (wordImm w))
  | 0x05 => some (.xori core (wordRd w) (wordRs1 w) (wordImm w))
  | 0x06 => decodeShifti core w
  | 0x07 => some (.movi core (wordRd w) (wordRs1 w) (wordImm w))
  | 0x08 => some (.shori core (wordRd w) (wordRs1 w) (wordImm w))
  | 0x09 => some (.cmp core (wordPd w) (w.extractLsb' 21 3) (wordRs1 w) (wordRs2 w) (w.extractLsb' 0 11))
  | 0x0A => some (.cmpi core (wordPd w) (w.extractLsb' 21 3) (wordRs1 w) (wordImm w))
  | 0x0B => decodePred core w
  | 0x0C => some (.br core (wordPd w) (w.getLsbD 23) (w.extractLsb' 0 23))
  | 0x0D => some (.j core (w.extractLsb' 0 26))
  | 0x0E => some (.jal core (w.extractLsb' 0 26))
  | 0x0F => some (.jalr core (wordRd w) (wordRs1 w) (w.extractLsb' 0 16))
  | 0x10 => some (.dbnz core (wordRd w) (w.extractLsb' 0 21))
  | 0x11 => some (.ldB core (wordRd w) (wordRs1 w) (wordImm w))
  | 0x12 => some (.ldBu core (wordRd w) (wordRs1 w) (wordImm w))
  | 0x13 => some (.ldH core (wordRd w) (wordRs1 w) (wordImm w))
  | 0x14 => some (.ldHu core (wordRd w) (wordRs1 w) (wordImm w))
  | 0x15 => some (.ldW core (wordRd w) (wordRs1 w) (wordImm w))
  | 0x16 => some (.ldWu core (wordRd w) (wordRs1 w) (wordImm w))
  | 0x17 => some (.ldD core (wordRd w) (wordRs1 w) (wordImm w))
  | 0x18 => some (.stB core (wordRd w) (wordRs1 w) (wordImm w))
  | 0x19 => some (.stH core (wordRd w) (wordRs1 w) (wordImm w))
  | 0x1A => some (.stW core (wordRd w) (wordRs1 w) (wordImm w))
  | 0x1B => some (.stD core (wordRd w) (wordRs1 w) (wordImm w))
  | 0x1C => decodeAmo core w
  | 0x1D => decodeWait core w
  | 0x20 => decodeIssue core w
  | 0x21 => decodeSumr core w
  | 0x22 => decodeSys core w
  | 0x30 => decodeVop core w
  | 0x31 => decodeVops core w
  | 0x32 => some (.vcmp core (wordPd w) (w.extractLsb' 21 3) (wordRs1 w) (wordRs2 w) (wordMk w) (wordTy w) (w.extractLsb' 0 4))
  | 0x33 => decodeVred core w
  | 0x34 => some (.vcvt core (wordRd w) (wordRs1 w) (w.extractLsb' 12 4) (w.extractLsb' 8 4) (wordTy w) (w.getLsbD 3) (w.getLsbD 2) (w.extractLsb' 0 2))
  | 0x35 => decodeVmsk core w
  | 0x36 => decodeVmem core w
  | 0x37 => some (.setvl core (wordRd w) (wordRs1 w) ((w.extractLsb' 8 8) ++ (w.extractLsb' 0 4)) (wordTy w))
  | _ => none

/-- The word of a control-core instruction (Tables 4.4 to 4.11) and the core that executes it; none for a command that no word spells. Bits that the instruction does not use are 0. -/
def encodeCoreWord (i : Instr) : Option (Core × W32) :=
  match i with
  | .add c rd rs1 rs2 => some (c, 0x01#6 ++ rd ++ rs1 ++ rs2 ++ 0#11)
  | .sub c rd rs1 rs2 => some (c, 0x01#6 ++ rd ++ rs1 ++ rs2 ++ 1#11)
  | .and c rd rs1 rs2 => some (c, 0x01#6 ++ rd ++ rs1 ++ rs2 ++ 2#11)
  | .or c rd rs1 rs2 => some (c, 0x01#6 ++ rd ++ rs1 ++ rs2 ++ 3#11)
  | .xor c rd rs1 rs2 => some (c, 0x01#6 ++ rd ++ rs1 ++ rs2 ++ 4#11)
  | .sll c rd rs1 rs2 => some (c, 0x01#6 ++ rd ++ rs1 ++ rs2 ++ 5#11)
  | .srl c rd rs1 rs2 => some (c, 0x01#6 ++ rd ++ rs1 ++ rs2 ++ 6#11)
  | .sra c rd rs1 rs2 => some (c, 0x01#6 ++ rd ++ rs1 ++ rs2 ++ 7#11)
  | .mul c rd rs1 rs2 => some (c, 0x01#6 ++ rd ++ rs1 ++ rs2 ++ 8#11)
  | .mulhu c rd rs1 rs2 => some (c, 0x01#6 ++ rd ++ rs1 ++ rs2 ++ 9#11)
  | .min c rd rs1 rs2 => some (c, 0x01#6 ++ rd ++ rs1 ++ rs2 ++ 10#11)
  | .max c rd rs1 rs2 => some (c, 0x01#6 ++ rd ++ rs1 ++ rs2 ++ 11#11)
  | .minu c rd rs1 rs2 => some (c, 0x01#6 ++ rd ++ rs1 ++ rs2 ++ 12#11)
  | .maxu c rd rs1 rs2 => some (c, 0x01#6 ++ rd ++ rs1 ++ rs2 ++ 13#11)
  | .divu c rd rs1 rs2 => some (c, 0x01#6 ++ rd ++ rs1 ++ rs2 ++ 14#11)
  | .remu c rd rs1 rs2 => some (c, 0x01#6 ++ rd ++ rs1 ++ rs2 ++ 15#11)
  | .addi c rd rs1 imm => some (c, 0x02#6 ++ rd ++ rs1 ++ imm)
  | .andi c rd rs1 imm => some (c, 0x03#6 ++ rd ++ rs1 ++ imm)
  | .ori c rd rs1 imm => some (c, 0x04#6 ++ rd ++ rs1 ++ imm)
  | .xori c rd rs1 imm => some (c, 0x05#6 ++ rd ++ rs1 ++ imm)
  | .movi c rd rs1 imm => some (c, 0x07#6 ++ rd ++ rs1 ++ imm)
  | .shori c rd rs1 imm => some (c, 0x08#6 ++ rd ++ rs1 ++ imm)
  | .slli c rd rs1 rsvd sh => some (c, 0x06#6 ++ rd ++ rs1 ++ 0#2 ++ rsvd ++ sh)
  | .srli c rd rs1 rsvd sh => some (c, 0x06#6 ++ rd ++ rs1 ++ 1#2 ++ rsvd ++ sh)
  | .srai c rd rs1 rsvd sh => some (c, 0x06#6 ++ rd ++ rs1 ++ 2#2 ++ rsvd ++ sh)
  | .cmp c pd cc rs1 rs2 rsvd => some (c, 0x09#6 ++ pd ++ cc ++ rs1 ++ rs2 ++ rsvd)
  | .cmpi c pd cc rs1 imm => some (c, 0x0A#6 ++ pd ++ cc ++ rs1 ++ imm)
  | .pand c pd pa pb rsvd => some (c, 0x0B#6 ++ 0#4 ++ pd ++ pa ++ pb ++ 0#11 ++ rsvd)
  | .por c pd pa pb rsvd => some (c, 0x0B#6 ++ 1#4 ++ pd ++ pa ++ pb ++ 0#11 ++ rsvd)
  | .pxor c pd pa pb rsvd => some (c, 0x0B#6 ++ 2#4 ++ pd ++ pa ++ pb ++ 0#11 ++ rsvd)
  | .pnot c pd pa rsvd => some (c, 0x0B#6 ++ 3#4 ++ pd ++ pa ++ 0#13 ++ rsvd)
  | .pset c pd rsvd => some (c, 0x0B#6 ++ 4#4 ++ pd ++ 0#15 ++ rsvd)
  | .pclr c pd rsvd => some (c, 0x0B#6 ++ 5#4 ++ pd ++ 0#15 ++ rsvd)
  | .tstb c pd rs1 bit rsvd => some (c, 0x0B#6 ++ 6#4 ++ pd ++ 0#4 ++ rs1 ++ bit ++ rsvd)
  | .br c p t off => some (c, 0x0C#6 ++ p ++ BitVec.ofBool t ++ off)
  | .j c off => some (c, 0x0D#6 ++ off)
  | .jal c off => some (c, 0x0E#6 ++ off)
  | .jalr c rd rs1 rsvd => some (c, 0x0F#6 ++ rd ++ rs1 ++ rsvd)
  | .dbnz c rd off => some (c, 0x10#6 ++ rd ++ off)
  | .ldB c rd rs1 imm => some (c, 0x11#6 ++ rd ++ rs1 ++ imm)
  | .ldBu c rd rs1 imm => some (c, 0x12#6 ++ rd ++ rs1 ++ imm)
  | .ldH c rd rs1 imm => some (c, 0x13#6 ++ rd ++ rs1 ++ imm)
  | .ldHu c rd rs1 imm => some (c, 0x14#6 ++ rd ++ rs1 ++ imm)
  | .ldW c rd rs1 imm => some (c, 0x15#6 ++ rd ++ rs1 ++ imm)
  | .ldWu c rd rs1 imm => some (c, 0x16#6 ++ rd ++ rs1 ++ imm)
  | .ldD c rd rs1 imm => some (c, 0x17#6 ++ rd ++ rs1 ++ imm)
  | .stB c rd rs1 imm => some (c, 0x18#6 ++ rd ++ rs1 ++ imm)
  | .stH c rd rs1 imm => some (c, 0x19#6 ++ rd ++ rs1 ++ imm)
  | .stW c rd rs1 imm => some (c, 0x1A#6 ++ rd ++ rs1 ++ imm)
  | .stD c rd rs1 imm => some (c, 0x1B#6 ++ rd ++ rs1 ++ imm)
  | .amoAdd c rd rs1 rs2 => some (c, 0x1C#6 ++ rd ++ rs1 ++ rs2 ++ 0#11)
  | .amoMin c rd rs1 rs2 => some (c, 0x1C#6 ++ rd ++ rs1 ++ rs2 ++ 1#11)
  | .amoMax c rd rs1 rs2 => some (c, 0x1C#6 ++ rd ++ rs1 ++ rs2 ++ 2#11)
  | .amoAnd c rd rs1 rs2 => some (c, 0x1C#6 ++ rd ++ rs1 ++ rs2 ++ 3#11)
  | .amoOr c rd rs1 rs2 => some (c, 0x1C#6 ++ rd ++ rs1 ++ rs2 ++ 4#11)
  | .amoXchg c rd rs1 rs2 => some (c, 0x1C#6 ++ rd ++ rs1 ++ rs2 ++ 5#11)
  | .amoCas c rd rs1 rs2 => some (c, 0x1C#6 ++ rd ++ rs1 ++ rs2 ++ 6#11)
  | .waitMx c rsvd n => some (c, 0x1D#6 ++ 0#2 ++ rsvd ++ 0#10 ++ 0#3 ++ n)
  | .waitVx c rsvd n => some (c, 0x1D#6 ++ 0#2 ++ rsvd ++ 0#10 ++ 1#3 ++ n)
  | .waitDma c rsvd n => some (c, 0x1D#6 ++ 0#2 ++ rsvd ++ 0#10 ++ 2#3 ++ n)
  | .fenceL c rsvd => some (c, 0x1D#6 ++ 0#2 ++ rsvd ++ 0#10 ++ 3#3 ++ 0#8)
  | .fenceG c rsvd => some (c, 0x1D#6 ++ 0#2 ++ rsvd ++ 0#10 ++ 4#3 ++ 0#8)
  | .waitw c pd rs1 rs2 rsvd => some (c, 0x1D#6 ++ pd ++ rsvd ++ rs1 ++ rs2 ++ 5#3 ++ 0#8)
  | .issueMxi c rs1 rsvd => some (c, 0x20#6 ++ rsvd.extractLsb' 13 5 ++ rs1 ++ rsvd.extractLsb' 8 5 ++ 0#3 ++ rsvd.extractLsb' 0 8)
  | .issueVxc c rs1 rsvd => some (c, 0x20#6 ++ rsvd.extractLsb' 13 5 ++ rs1 ++ rsvd.extractLsb' 8 5 ++ 1#3 ++ rsvd.extractLsb' 0 8)
  | .issueDmai c rs1 rsvd => some (c, 0x20#6 ++ rsvd.extractLsb' 13 5 ++ rs1 ++ rsvd.extractLsb' 8 5 ++ 2#3 ++ rsvd.extractLsb' 0 8)
  | .sumrPop c rd rsvd => some (c, 0x21#6 ++ rd ++ rsvd.extractLsb' 8 10 ++ 0#3 ++ rsvd.extractLsb' 0 8)
  | .sumrLastMx c rd rsvd => some (c, 0x21#6 ++ rd ++ rsvd.extractLsb' 8 10 ++ 1#3 ++ rsvd.extractLsb' 0 8)
  | .sumrOrMx c rd rsvd => some (c, 0x21#6 ++ rd ++ rsvd.extractLsb' 8 10 ++ 2#3 ++ rsvd.extractLsb' 0 8)
  | .sumrDma c rd rsvd => some (c, 0x21#6 ++ rd ++ rsvd.extractLsb' 8 10 ++ 3#3 ++ rsvd.extractLsb' 0 8)
  | .trap c rsvd code => some (c, 0x22#6 ++ 0#4 ++ 0#5 ++ BitVec.ofBool rsvd ++ code)
  | .yield c rsvd => some (c, 0x22#6 ++ 1#4 ++ 0#5 ++ BitVec.ofBool rsvd ++ 0#16)
  | .rdtb c g rsvd 0 => some (c, 0x22#6 ++ 2#4 ++ g ++ BitVec.ofBool rsvd ++ 0#16)
  | .csrr c g rsvd csr => some (c, 0x22#6 ++ 3#4 ++ g ++ BitVec.ofBool rsvd ++ csr)
  | .csrw c g rsvd csr => some (c, 0x22#6 ++ 4#4 ++ g ++ BitVec.ofBool rsvd ++ csr)
  | .vadd c vd va vb mk ty => some (c, 0x30#6 ++ vd ++ va ++ vb ++ mk ++ ty ++ 0#4)
  | .vsub c vd va vb mk ty => some (c, 0x30#6 ++ vd ++ va ++ vb ++ mk ++ ty ++ 1#4)
  | .vmul c vd va vb mk ty => some (c, 0x30#6 ++ vd ++ va ++ vb ++ mk ++ ty ++ 2#4)
  | .vmac c vd va vb mk ty => some (c, 0x30#6 ++ vd ++ va ++ vb ++ mk ++ ty ++ 3#4)
  | .vmin c vd va vb mk ty => some (c, 0x30#6 ++ vd ++ va ++ vb ++ mk ++ ty ++ 4#4)
  | .vmax c vd va vb mk ty => some (c, 0x30#6 ++ vd ++ va ++ vb ++ mk ++ ty ++ 5#4)
  | .vabs c vd va vb mk ty => some (c, 0x30#6 ++ vd ++ va ++ vb ++ mk ++ ty ++ 6#4)
  | .vneg c vd va vb mk ty => some (c, 0x30#6 ++ vd ++ va ++ vb ++ mk ++ ty ++ 7#4)
  | .vrcp c vd va vb mk ty => some (c, 0x30#6 ++ vd ++ va ++ vb ++ mk ++ ty ++ 8#4)
  | .vsqrt c vd va vb mk ty => some (c, 0x30#6 ++ vd ++ va ++ vb ++ mk ++ ty ++ 9#4)
  | .vrsqrt c vd va vb mk ty => some (c, 0x30#6 ++ vd ++ va ++ vb ++ mk ++ ty ++ 10#4)
  | .vexp c vd va vb mk ty => some (c, 0x30#6 ++ vd ++ va ++ vb ++ mk ++ ty ++ 11#4)
  | .vmov c vd va vb mk ty => some (c, 0x30#6 ++ vd ++ va ++ vb ++ mk ++ ty ++ 12#4)
  | .vmerge c vd va vb mk ty => some (c, 0x30#6 ++ vd ++ va ++ vb ++ mk ++ ty ++ 13#4)
  | .vadds c vd va vb mk ty => some (c, 0x31#6 ++ vd ++ va ++ vb ++ mk ++ ty ++ 0#4)
  | .vsubs c vd va vb mk ty => some (c, 0x31#6 ++ vd ++ va ++ vb ++ mk ++ ty ++ 1#4)
  | .vmuls c vd va vb mk ty => some (c, 0x31#6 ++ vd ++ va ++ vb ++ mk ++ ty ++ 2#4)
  | .vmins c vd va vb mk ty => some (c, 0x31#6 ++ vd ++ va ++ vb ++ mk ++ ty ++ 3#4)
  | .vmaxs c vd va vb mk ty => some (c, 0x31#6 ++ vd ++ va ++ vb ++ mk ++ ty ++ 4#4)
  | .vsplat c vd va vb mk ty => some (c, 0x31#6 ++ vd ++ va ++ vb ++ mk ++ ty ++ 5#4)
  | .vext c vd va vb mk ty => some (c, 0x31#6 ++ vd ++ va ++ vb ++ mk ++ ty ++ 6#4)
  | .vcmp c x m va vb mk ty cc => some (c, 0x32#6 ++ x ++ m ++ va ++ vb ++ mk ++ ty ++ cc)
  | .vredSum c vd va vb mk ty => some (c, 0x33#6 ++ vd ++ va ++ vb ++ mk ++ ty ++ 0#4)
  | .vredMax c vd va vb mk ty => some (c, 0x33#6 ++ vd ++ va ++ vb ++ mk ++ ty ++ 1#4)
  | .vredMin c vd va vb mk ty => some (c, 0x33#6 ++ vd ++ va ++ vb ++ mk ++ ty ++ 2#4)
  | .vredProd c vd va vb mk ty => some (c, 0x33#6 ++ vd ++ va ++ vb ++ mk ++ ty ++ 3#4)
  | .vredMean c vd va vb mk ty => some (c, 0x33#6 ++ vd ++ va ++ vb ++ mk ++ ty ++ 4#4)
  | .vredArgmax c vd va vb mk ty => some (c, 0x33#6 ++ vd ++ va ++ vb ++ mk ++ ty ++ 5#4)
  | .vredArgmin c vd va vb mk ty => some (c, 0x33#6 ++ vd ++ va ++ vb ++ mk ++ ty ++ 6#4)
  | .vredSoftmax c vd va vb mk ty => some (c, 0x33#6 ++ vd ++ va ++ vb ++ mk ++ ty ++ 7#4)
  | .vcvt c vd va dst x ty a b y => some (c, 0x34#6 ++ vd ++ va ++ dst ++ x ++ ty ++ BitVec.ofBool a ++ BitVec.ofBool b ++ y)
  | .mand c d a b rsvd => some (c, 0x35#6 ++ d ++ a ++ b ++ rsvd ++ 0#4)
  | .mor c d a b rsvd => some (c, 0x35#6 ++ d ++ a ++ b ++ rsvd ++ 1#4)
  | .mxor c d a b rsvd => some (c, 0x35#6 ++ d ++ a ++ b ++ rsvd ++ 2#4)
  | .mandn c d a b rsvd => some (c, 0x35#6 ++ d ++ a ++ b ++ rsvd ++ 3#4)
  | .mnot c d a b rsvd => some (c, 0x35#6 ++ d ++ a ++ b ++ rsvd ++ 4#4)
  | .mset c d a b rsvd => some (c, 0x35#6 ++ d ++ a ++ b ++ rsvd ++ 5#4)
  | .mclr c d a b rsvd => some (c, 0x35#6 ++ d ++ a ++ b ++ rsvd ++ 6#4)
  | .mpop c d a b rsvd => some (c, 0x35#6 ++ d ++ a ++ b ++ rsvd ++ 7#4)
  | .mfirst c d a b rsvd => some (c, 0x35#6 ++ d ++ a ++ b ++ rsvd ++ 8#4)
  | .vld c vd va vb mk ty => some (c, 0x36#6 ++ vd ++ va ++ vb ++ mk ++ ty ++ 0#4)
  | .vst c vd va vb mk ty => some (c, 0x36#6 ++ vd ++ va ++ vb ++ mk ++ ty ++ 1#4)
  | .vldm c x m rs1 rs2 mk ty => some (c, 0x36#6 ++ x ++ m ++ rs1 ++ rs2 ++ mk ++ ty ++ 2#4)
  | .vstm c x m rs1 rs2 mk ty => some (c, 0x36#6 ++ x ++ m ++ rs1 ++ rs2 ++ mk ++ ty ++ 3#4)
  | .setvl c rd rs1 rsvd ty => some (c, 0x37#6 ++ rd ++ rs1 ++ rsvd.extractLsb' 4 8 ++ ty ++ rsvd.extractLsb' 0 4)
  | _ => none

end Sys2Proof
end

