-- ==== Sys2Proof/Config.lean ====
section
/-!
DEFINITION. What an implementation fixes and the spec leaves open: the free values. Each is a constant without a body,
so no proof can depend on what it is. `State.freeCtr` supplies a fresh argument for every use (log 1).
-/
namespace Sys2Proof

/-- FREE VALUE (log 1): a byte the spec leaves undefined, the n-th one drawn in a run. -/
opaque Config.freeByte : Nat → Byte
/-- FREE VALUE (log 1): a 64-bit word the spec leaves undefined. -/
opaque Config.freeWord : Nat → W64
/-- FREE VALUE (log 1): a choice the spec leaves undefined. -/
opaque Config.freeBool : Nat → Bool
/-- FREE VALUE (log 1): the bytes of a string the spec leaves undefined, by draw number and position. -/
opaque Config.freeString : Nat → Nat → Byte

/-- FREE VALUE (log 112): the packets of one class that a buffer of the on-package networks holds, less one. -/
opaque Config.netDepth : Nat → Nat

/-- FREE VALUE (log 135): which of the four parts of the retransmit store a copy of a packet lies in, by peer and sequence number. -/
opaque Config.retxPart : Nat → BitVec 32 → BitVec 2

/-- FREE VALUE (log 125): what signing or verifying a message leaves in the Working part of the rind. -/
opaque Config.rindScratch : List Byte → List Byte

/-- FREE VALUE (log 125): the identity private key that the security block unwraps from the bits of ID_WRAP with the die's own key. -/
opaque Config.unwrapIdentity : BitVec 384 → List Byte

end Sys2Proof
end

