-- ==== Sys2Proof/Machine/Arith.lean ====
section
/-!
DEFINITION. The exact arithmetic behind every engine (spec/02_arithmetic.md): numbers held exactly, the element formats of
Table 2.1, rounding to nearest with ties to even (R52, R56), stochastic rounding (R57 to R59) and conversion with saturation
(Table 2.8).
-/
namespace Sys2Proof.Machine

/-- A value held exactly: `fin neg n d e` is plus or minus (n/d) times 2^e, with a sign even when it is zero. -/
inductive FNum where
  | nan
  | inf (neg : Bool)
  | fin (neg : Bool) (n d : Nat) (e : Int)
deriving DecidableEq, Repr

/-- A binary floating-point format: mantissa bits, exponent bias, width, largest finite magnitude code, the code of infinity
and the canonical NaN where the format has them (Table 2.1, R36). -/
structure Fmt where
  mb      : Nat
  bias    : Nat
  width   : Nat
  maxCode : Nat
  infCode : Option Nat
  nanCode : Option Nat
deriving DecidableEq, Repr

def fmtFP32 : Fmt := ⟨23, 127, 32, 0x7F7FFFFF, some 0x7F800000, some 0x7FC00000⟩
def fmtBF16 : Fmt := ⟨7, 127, 16, 0x7F7F, some 0x7F80, some 0x7FC0⟩
def fmtFP16 : Fmt := ⟨10, 15, 16, 0x7BFF, some 0x7C00, some 0x7E00⟩
def fmtE4M3 : Fmt := ⟨3, 7, 8, 0x7E, none, some 0x7F⟩
def fmtE5M2 : Fmt := ⟨2, 15, 8, 0x7B, some 0x7C, some 0x7E⟩
def fmtFP4 : Fmt := ⟨1, 1, 4, 0x7, none, none⟩
/-- UE5M3 (R37): unsigned, so the sign bit of the nine-bit reading is always 0; 0xFF is NaN. -/
def fmtUE5M3 : Fmt := ⟨3, 15, 9, 0xFE, none, some 0xFF⟩

/-- Two to a signed power, as a numerator and a denominator. -/
def pow2Num (s : Int) : Nat := 2 ^ s.toNat
def pow2Den (s : Int) : Nat := 2 ^ (-s).toNat

/-- A code's value in a floating-point format (R33, R34, R37). -/
def decodeFp (f : Fmt) (code : Nat) : FNum :=
  let neg := (code / 2 ^ (f.width - 1)) % 2 == 1
  let mag := code % 2 ^ (f.width - 1)
  if mag > f.maxCode then
    if f.infCode = some mag then .inf neg else .nan
  else
    let e := mag / 2 ^ f.mb
    let m := mag % 2 ^ f.mb
    if e = 0 then .fin neg m 1 (1 - (f.bias : Int) - f.mb)
    else .fin neg (2 ^ f.mb + m) 1 ((e : Int) - f.bias - f.mb)

/-- floor(log2(n/d)) for positive n and d. -/
def ilogRat (n d : Nat) : Int :=
  let k : Int := (Nat.log2 n : Int) - (Nat.log2 d : Int)
  if n * pow2Den k ≥ d * pow2Num k then k else k - 1

/-- How a quotient is rounded to a whole number: to nearest with ties to even, stochastically with 32 random bits (R59), or
upward (R40). -/
inductive Rnd where
  | rne
  | sr (u : Nat)
  | up
deriving DecidableEq, Repr

/-- Round n/d to a whole number. Under `sr` the 32 leading bits of the fraction are added to the random bits (R59). -/
def roundQuot (r : Rnd) (n d : Nat) : Nat :=
  let q := n / d
  let m := n % d
  match r with
  | .rne => if 2 * m > d ∨ (2 * m = d ∧ q % 2 = 1) then q + 1 else q
  | .sr u => if m * 2 ^ 32 / d + u ≥ 2 ^ 32 then q + 1 else q
  | .up => if m = 0 then q else q + 1

/-- The exponent of the unit in the last place at which (n/d)·2^e is rounded in a format. -/
def quantum (f : Fmt) (n d : Nat) (e : Int) : Int :=
  max (ilogRat n d + e - f.mb) (1 - (f.bias : Int) - f.mb)

/-- The magnitude code of (n/d)·2^e rounded into a format, with no upper limit: a code above `maxCode` is out of range. -/
def roundMag (f : Fmt) (r : Rnd) (n d : Nat) (e : Int) : Nat :=
  if n = 0 then 0
  else
    let q := quantum f n d e
    let s := e - q
    let k := roundQuot r (n * pow2Num s) (d * pow2Den s)
    (q - (1 - (f.bias : Int) - f.mb)).toNat * 2 ^ f.mb + k

/-- The sign bit of a format set or clear. -/
def signBit (f : Fmt) (neg : Bool) : Nat := if neg then 2 ^ (f.width - 1) else 0

/-- The code of a number rounded into a format by the rules of IEEE 754 (R113): overflow gives infinity, zeros keep their sign,
every NaN is canonical (R36). -/
def encodeIeee (f : Fmt) (x : FNum) : Nat :=
  match x with
  | .nan => f.nanCode.getD f.maxCode
  | .inf neg => signBit f neg + f.infCode.getD f.maxCode
  | .fin neg n d e =>
    let m := roundMag f .rne n d e
    signBit f neg + (if m > f.maxCode then f.infCode.getD f.maxCode else m)

/-- The element formats by kind. -/
inductive EFmt where
  | fp (f : Fmt)
  | int (w : Nat)
  | ternary
deriving DecidableEq, Repr

/-- The type codes of Table 4.1 (0x1 to 0x8 are also the matrix format codes of Table 3.9). -/
def efmtOf (code : Nat) : Option EFmt :=
  match code with
  | 0x1 => some (.fp fmtE4M3)
  | 0x2 => some (.fp fmtE5M2)
  | 0x3 => some (.int 8)
  | 0x4 => some (.fp fmtFP4)
  | 0x5 => some (.int 4)
  | 0x6 => some (.int 2)
  | 0x7 => some .ternary
  | 0x8 => some (.fp fmtBF16)
  | 0x9 => some (.fp fmtFP32)
  | 0xA => some (.fp fmtFP16)
  | 0xB => some (.int 32)
  | _ => none

/-- The width of an element in bits. -/
def efmtWidth (f : EFmt) : Nat :=
  match f with
  | .fp g => g.width
  | .int w => w
  | .ternary => 2

/-- A two's-complement code's value. -/
def intOf (w code : Nat) : Int :=
  let c := code % 2 ^ w
  if c < 2 ^ (w - 1) then (c : Int) else (c : Int) - 2 ^ w

/-- A value's two's-complement code. -/
def intCode (w : Nat) (v : Int) : Nat := (v % (2 ^ w : Int)).toNat

/-- A whole number held exactly. -/
def fnumOfInt (v : Int) : FNum := .fin (v < 0) v.natAbs 1 0

/-- A code's value in an element format (R33, R34). -/
def decodeElem (f : EFmt) (code : Nat) : FNum :=
  match f with
  | .fp g => decodeFp g code
  | .int w => fnumOfInt (intOf w code)
  | .ternary => fnumOfInt (if code % 4 = 1 then 1 else if code % 4 = 3 then -1 else 0)

/-- The least and the largest whole number of an integer format; ternary holds -1 to 1 (Table 2.8). -/
def intRange (f : EFmt) : Int × Int :=
  match f with
  | .int w => (-(2 ^ (w - 1) : Int), 2 ^ (w - 1) - 1)
  | _ => (-1, 1)

/-- A conversion's result: the code, whether it was a headroom event (R53), and whether it saturated. -/
structure Conv where
  code     : Nat
  headroom : Bool
deriving DecidableEq, Repr

/-- Conversion of a number into an element format (R52, Table 2.8, R36). `ieee` selects IEEE mode, which acts only for E5M2,
BF16, FP16 and FP32; FP4 and E4M3 always saturate. -/
def convert (f : EFmt) (r : Rnd) (ieee : Bool) (x : FNum) : Conv :=
  match f with
  | .fp g =>
    let ie := ieee && g.infCode.isSome
    match x with
    | .nan => match g.nanCode with
      | some c => ⟨c, false⟩
      | none => ⟨g.maxCode, true⟩
    | .inf neg => if ie then ⟨signBit g neg + g.infCode.getD 0, false⟩ else ⟨signBit g neg + g.maxCode, true⟩
    | .fin neg n d e =>
      let m := roundMag g r n d e
      if m > g.maxCode then
        if ie then ⟨signBit g neg + g.infCode.getD 0, false⟩ else ⟨signBit g neg + g.maxCode, true⟩
      else if m = 0 then ⟨0, false⟩
      else ⟨signBit g neg + m, false⟩
  | _ =>
    let lo := (intRange f).1
    let hi := (intRange f).2
    let w := efmtWidth f
    match x with
    | .nan => ⟨intCode w hi, true⟩
    | .inf neg => ⟨intCode w (if neg then lo else hi), true⟩
    | .fin neg n d e =>
      let k := roundQuot r (n * pow2Num e) (d * pow2Den e)
      let v : Int := if neg then -(k : Int) else k
      if v > hi then ⟨intCode w hi, true⟩
      else if v < lo then ⟨intCode w lo, true⟩
      else ⟨intCode w v, false⟩

/-! ### Exact operations -/

def FNum.isNan (x : FNum) : Bool := match x with | .nan => true | _ => false
def FNum.isInf (x : FNum) : Bool := match x with | .inf _ => true | _ => false
def FNum.isFin (x : FNum) : Bool := match x with | .fin .. => true | _ => false
def FNum.isZero (x : FNum) : Bool := match x with | .fin _ n _ _ => n == 0 | _ => false
def FNum.sign (x : FNum) : Bool := match x with | .nan => false | .inf s => s | .fin s _ _ _ => s

def FNum.neg (x : FNum) : FNum :=
  match x with
  | .nan => .nan
  | .inf s => .inf (!s)
  | .fin s n d e => .fin (!s) n d e

def FNum.abs (x : FNum) : FNum :=
  match x with
  | .nan => .nan
  | .inf _ => .inf false
  | .fin _ n d e => .fin false n d e

/-- The positive zero. -/
def fzero : FNum := .fin false 0 1 0

/-- The signed numerator of a finite number over 2^e0 and its own denominator. -/
def scaledNum (neg : Bool) (n : Nat) (e e0 : Int) : Int :=
  let k : Int := (n * 2 ^ (e - e0).toNat : Nat)
  if neg then -k else k

/-- Exact sum; a zero from terms of opposite sign is +0, as rounding to nearest gives. -/
def fadd (x y : FNum) : FNum :=
  match x, y with
  | .nan, _ => .nan
  | _, .nan => .nan
  | .inf a, .inf b => if a = b then .inf a else .nan
  | .inf a, _ => .inf a
  | _, .inf b => .inf b
  | .fin s n d e, .fin t m c g =>
    let e0 := min e g
    let v := scaledNum s n e e0 * c + scaledNum t m g e0 * d
    if v = 0 then .fin (s && t) 0 1 0
    else .fin (v < 0) v.natAbs (d * c) e0

def fsub (x y : FNum) : FNum := fadd x y.neg

/-- Exact product. -/
def fmul (x y : FNum) : FNum :=
  match x, y with
  | .nan, _ => .nan
  | _, .nan => .nan
  | .inf a, .inf b => .inf (a != b)
  | .inf a, .fin t m _ _ => if m = 0 then .nan else .inf (a != t)
  | .fin s n _ _, .inf b => if n = 0 then .nan else .inf (s != b)
  | .fin s n d e, .fin t m c g => .fin (s != t) (n * m) (d * c) (e + g)

/-- Exact quotient. -/
def fdiv (x y : FNum) : FNum :=
  match x, y with
  | .nan, _ => .nan
  | _, .nan => .nan
  | .inf _, .inf _ => .nan
  | .inf a, .fin t _ _ _ => .inf (a != t)
  | .fin s _ _ _, .inf b => .fin (s != b) 0 1 0
  | .fin s n d e, .fin t m c g =>
    if m = 0 then (if n = 0 then .nan else .inf (s != t))
    else .fin (s != t) (n * c) (d * m) (e - g)

/-- Order of two numbers that are not NaN; the two zeros are equal. -/
def fcmp (x y : FNum) : Ordering :=
  match x, y with
  | .inf a, .inf b => if a = b then .eq else if a then .lt else .gt
  | .inf a, _ => if a then .lt else .gt
  | _, .inf b => if b then .gt else .lt
  | .fin s n d e, .fin t m c g =>
    let e0 := min e g
    compare (scaledNum s n e e0 * c) (scaledNum t m g e0 * d)
  | _, _ => .eq

def flt (x y : FNum) : Bool := fcmp x y == .lt
def fle (x y : FNum) : Bool := fcmp x y != .gt

/-- The order of reductions: as `fcmp`, with -0 below +0 (R120). -/
def fltZ (x y : FNum) : Bool :=
  flt x y || (x.isZero && y.isZero && x.sign && !y.sign)

/-- The whole square root of a number below 4^k, bit by bit from the top. -/
def isqrtBits (v : Nat) (k r : Nat) : Nat :=
  match k with
  | 0 => r
  | j + 1 => if (r + 2 ^ j) * (r + 2 ^ j) ≤ v then isqrtBits v j (r + 2 ^ j) else isqrtBits v j r

def isqrt (v : Nat) : Nat := isqrtBits v (Nat.log2 v / 2 + 1) 0

/-- The correctly rounded square root of (n/d)·2^e in a format: a magnitude code (R113). -/
def sqrtMag (f : Fmt) (n d : Nat) (e : Int) : Nat :=
  if n = 0 then 0
  else
    let qmin : Int := 1 - (f.bias : Int) - f.mb
    let q := max ((ilogRat n d + e) / 2 - f.mb) qmin
    let s := e - 2 * q
    let num := n * pow2Num s
    let den := d * pow2Den s
    let k := isqrt (num / den)
    -- compare the root with k + 1/2 by squares: no root of a dyadic number is a tie unless exact
    let c := (2 * k + 1) * (2 * k + 1) * den
    let k' := if 4 * num > c ∨ (4 * num = c ∧ k % 2 = 1) then k + 1 else k
    (q - qmin).toNat * 2 ^ f.mb + k'

/-- Square root in a format: of a negative non-zero value NaN, of a zero that zero (R113). -/
def fsqrtCode (f : Fmt) (x : FNum) : Nat :=
  match x with
  | .nan => encodeIeee f .nan
  | .inf s => if s then encodeIeee f .nan else encodeIeee f (.inf false)
  | .fin s n d e =>
    if n = 0 then signBit f s
    else if s then encodeIeee f .nan
    else sqrtMag f n d e

/-- Reciprocal square root in a format: of +0 infinity, of a negative non-zero value NaN (R113); of -0 minus infinity, as
IEEE 754 gives (log 20). -/
def frsqrtCode (f : Fmt) (x : FNum) : Nat :=
  match x with
  | .nan => encodeIeee f .nan
  | .inf s => if s then encodeIeee f .nan else 0
  | .fin s n d e =>
    if n = 0 then encodeIeee f (.inf s)
    else if s then encodeIeee f .nan
    else sqrtMag f d n (-e)

/-! ### The exponential

exp(x) of a non-zero rational x is irrational and never a tie, so a close enough bracket decides its rounding. The bracket is
computed in fixed point with `expBits` fraction bits: Taylor series of x/2^10, then ten squarings, each rounded down for the
lower bound and up for the upper. -/

def expBits : Nat := 320

/-- One term after another of the Taylor series at y (a fixed-point number): the lower sum. -/
def expTaylorLo (y : Nat) : Nat → Nat → Nat → Nat → Nat
  | 0, _, _, acc => acc
  | k + 1, i, term, acc => 
    let t := term * y / (2 ^ expBits * i)
    expTaylorLo y k (i + 1) t (acc + t)

/-- The upper sum, each term rounded up. -/
def expTaylorHi (y : Nat) : Nat → Nat → Nat → Nat → Nat
  | 0, _, _, acc => acc + 1
  | k + 1, i, term, acc =>
    let t := term * y / (2 ^ expBits * i) + 1
    expTaylorHi y k (i + 1) t (acc + t)

def sqrLo : Nat → Nat → Nat
  | 0, v => v
  | k + 1, v => sqrLo k (v * v / 2 ^ expBits)

def sqrHi : Nat → Nat → Nat
  | 0, v => v
  | k + 1, v => sqrHi k (v * v / 2 ^ expBits + 1)

/-- Bounds of exp(|x|) in fixed point, for |x| = (n/d)·2^e below 2^10. -/
def expBounds (n d : Nat) (e : Int) : Nat × Nat :=
  let s : Int := e - 10 + expBits
  let num := n * pow2Num s
  let den := d * pow2Den s
  let ylo := num / den
  let yhi := num / den + 1
  (sqrLo 10 (expTaylorLo ylo 48 1 (2 ^ expBits) (2 ^ expBits)),
   sqrHi 10 (expTaylorHi yhi 48 1 (2 ^ expBits) (2 ^ expBits)))

/-- The correctly rounded exponential in a format (R113). The lower bound of the bracket is rounded; the upper bound rounds to
the same code wherever the bracket decides, which a width of less than 2^-200 of the value always does in these formats. -/
def fexpCode (f : Fmt) (x : FNum) : Nat :=
  match x with
  | .nan => encodeIeee f .nan
  | .inf s => if s then 0 else encodeIeee f (.inf false)
  | .fin s n d e =>
    if n = 0 then encodeIeee f (.fin false 1 1 0)
    else if ilogRat n d + e ≥ 9 then (if s then 0 else encodeIeee f (.inf false))
    else if s then encodeIeee f (.fin false (2 ^ expBits) (expBounds n d e).2 0)
    else encodeIeee f (.fin false (expBounds n d e).1 1 (-(expBits : Int)))

/-! ### Stochastic rounding -/

/-- `mix` of R58. -/
def srMix (z0 : W64) : W64 :=
  let z1 := (z0 ^^^ (z0 >>> 31)) * 0xE7A136C94F2BD5A3#64
  let z2 := (z1 ^^^ (z1 >>> 29)) * 0x8C5D92F13B7E6A0D#64
  z2 ^^^ (z2 >>> 32)

/-- `sr_bits` of R58: 32 random bits from the key, the tensor id, the 48-bit index and the step number (R57). -/
def srBits (key : W64) (tensor : W32) (index : W64) (step : W32) : Nat :=
  let h := srMix (key ^^^ (tensor.zeroExtend 64 <<< 32) ^^^ step.zeroExtend 64)
  let h2 := srMix (h ^^^ index)
  (h2 >>> 32).toNat

end Sys2Proof.Machine
end

