-- ==== Sys2Proof/Machine/State.lean ====
section
/-!
DEFINITION. The state of the block as plain data, and the state after reset. `State` is a structure of structures, one for
each chapter of the spec; sparse tables (`Tab`) hold what the spec gives many copies of, and an unlisted key reads as the
value the comment at the field names.
-/
namespace Sys2Proof.Machine

/-! ### The core (spec/04_vector_and_control.md, spec/03_matrix_engine.md) -/

/-- What a control core is doing (R139, R217, R420, R423). -/
inductive RunState where
  | idle      -- not in a launch
  | running
  | finished  -- executed TRAP 0
  | trapped   -- stopped on a TRAP with another code
  | stopped   -- stopped by a teardown or a pre-emption
deriving DecidableEq, Repr

/-- A vector instruction forwarded to the vector engine (R131), by operation. -/
inductive VOp where
  | add | sub | mul | mac | min | max | abs | neg | rcp | sqrt | rsqrt | exp | mov | merge
  | adds | subs | muls | mins | maxs | splat | ext
  | cmp (fn : Nat)
  | red (fn : Nat)
  | cvt (part dst : Nat) (sr ieee : Bool)
  | mand | mor | mxor | mandn | mnot | mset | mclr | mpop | mfirst
  | ld | st | ldm | stm
deriving DecidableEq, Repr

/-- A vector instruction in the vector queue, with what the control core read when it forwarded it: the scalar operand or
stride, the base address, VL and the stochastic-rounding CSRs (R115, R131). -/
structure VInstr where
  op       : VOp
  vd       : R5
  vs1      : R5
  vs2      : R5
  mask     : M3
  md       : M3
  ma       : M3
  mb       : M3
  ty       : Ty
  scalar   : W64
  base     : W64
  packed   : Bool
  vl       : Nat
  srTensor : W32
  srIndex  : W64
deriving DecidableEq, Repr

/-- Running totals of the quantisation monitor (Table 2.9). -/
structure QMon where
  amax : FNum
  amin : Option FNum
  (blocks hr nf zero flushed nans : Nat)
  inf : Bool
deriving DecidableEq, Repr

def QMon.start : QMon := ⟨fzero, none, 0, 0, 0, 0, 0, 0, false⟩

/-- Where a block command stands (R423): its next row or head, and what the rows or heads before it gave: the monitor's totals, the heads found empty, whether a NaN or +∞ was met, and the
neurons selected. -/
structure BlockPos where
  next  : Nat
  mon   : QMon
  empty : List Bool
  bad   : Bool
  mask  : Nat
deriving DecidableEq, Repr

def BlockPos.start : BlockPos := ⟨0, .start, [], false, 0⟩

/-- An entry of the vector queue: an instruction, or the 64 bytes of a block command, with its place when a pre-emption has stopped it, and, once the engine has worked it, what
its completion writes (a monitor record) or pushes (a summary word). -/
inductive VItem where
  | instr (v : VInstr)
  | block (bytes : List Byte)
  | part (bytes : List Byte) (pos : BlockPos)
  | worked (bytes : List Byte) (write : Option (Nat × List Byte)) (push : Option W64)
deriving DecidableEq, Repr

/-- An entry of a group table (Tables 3.4, 3.5), g its number. -/
structure GroupEntry where
  g : Nat
  (m n k : Nat)
  (wfmt afmt scheme outfmt : Nat)
  (axis ieee sr up down split select : Bool)
  (a sa wdir c aux seg : Nat)
  (lda ldc : Nat)
  (tsA tsW thresh : W32)
  splitNnz : Nat
  base : Nat
deriving DecidableEq, Repr

/-- A unit: output tile column, tile group, k-steps [ks0, ks1), its count, and its number among the entry's segments of cut strips. -/
structure GroupUnit where
  e     : GroupEntry
  nt    : Nat
  h     : Nat
  ks0   : Nat
  ks1   : Nat
  count : Nat
  seg   : Option Nat
deriving DecidableEq, Repr

/-- A cut strip: its first segment's number and how many it has. -/
structure CutStrip where
  u     : GroupUnit
  first : Nat
  segs  : Nat
deriving DecidableEq, Repr

/-- What a group command that a pre-emption has stopped at a unit boundary has still to run: its units, or its cut strips with MERGE (R423). -/
inductive MxLeft where
  | units (l : List GroupUnit)
  | strips (l : List CutStrip)
deriving DecidableEq, Repr

/-- An entry of the matrix queue: the 64 bytes copied at issue (R131), whether it has run, its status word so far (R106), and for one stopped part-way what is left of it (R423). -/
structure MxEntry where
  block  : List Byte
  run    : Bool
  status : W32
  left   : Option MxLeft
deriving DecidableEq, Repr

/-- A request of a DMA command that has been cut from it (R135, R151): the byte range of the command it moves, whether its
source bytes have been read, and the request-table slots or stream packets it still waits for. -/
inductive ReqState where
  | unsent
  | sent                      -- sent, served at completion
  | fetched (bytes : List Byte)  -- source bytes read, destination not yet written
  | remote                    -- handed to the fabric; ends with its reply or acknowledgement
  | done
deriving DecidableEq, Repr

/-- One request of a DMA command. -/
structure DmaReq where
  id  : Nat
  off : Nat
  len : Nat
  st  : ReqState
  mapped : Bool               -- whether the context's map allowed its local sides when it was sent (R414)
deriving DecidableEq, Repr

/-- A DMA command in its queue: the 64 bytes copied at issue, whether the engine has begun it, the bytes not yet cut into
requests, and its requests that are not finished. -/
structure DmaCmd where
  block   : List Byte
  begun   : Bool
  nextOff : Nat
  reqs    : List DmaReq
deriving DecidableEq, Repr

/-- What a control core waits for. The program counter stays at the waiting instruction. -/
inductive Wait where
  | none
  | mx (n : Nat)
  | vx (n : Nat)
  | dma (n : Nat)
  | fenceL
  | fenceG
  | word (pd : P2) (addr : W64) (val : W64) (start : Nat)
  | issue (kind : Nat) (addr : W64)
  | forward (v : VInstr)
  | summary (rd : R5)
deriving DecidableEq, Repr

/-- A pair of a matrix accumulator: an FP32 sum and its compensation (R44), and whether the pair is pinned (Table 2.6). -/
structure Pair where
  hi     : W32
  lo     : W32
  pinned : Bool
deriving DecidableEq, Repr

def Pair.zero : Pair := ⟨0, 0, false⟩

/-- The active weight set (R69): the formats it records (none until a pass loads a tile), the tile's cells in dense form,
its scales, outlier mask and escape weights. -/
structure WeightSet where
  loaded : Bool
  wfmt   : Nat
  scheme : Nat
  axis   : Bool
  slice  : Nat
  mask   : W16
  wscale : List Byte
  cells  : List Byte
  esc    : List Byte
deriving DecidableEq, Repr

def WeightSet.none : WeightSet := ⟨false, 0, 0, false, 0, 0, [], [], []⟩

/-- One core: control core, vector engine, matrix engine and DMA engine (R11). -/
structure CoreState where
  sregs     : Tab W64            -- s1 to s31; unlisted 0
  preds     : BitVec 4           -- p0 to p3 (R124)
  pc        : W64
  step      : W32                -- CSR STEP
  srTensor  : W64                -- CSR SR_TENSOR
  srIndex   : W64                -- CSR SR_INDEX
  waitLimit : W64                -- CSR WAIT_LIMIT
  vstat     : BitVec 3           -- CSR VSTAT: SAT, NAN, INF
  vl        : Nat                -- CSR VL
  vregs     : Tab (BitVec 2048)  -- v0 to v31; unlisted 0
  masks     : Tab (BitVec 1024)  -- m0 to m7; unlisted 0
  summary   : List W64           -- summary queue, oldest first (R122)
  run       : RunState
  wait      : Wait
  acc       : Tab Pair           -- accumulator a, element (i, c) at 256 a + 16 i + c; unlisted (+0, +0)
  accStatus : Tab W32            -- status word of accumulator a; unlisted 0
  weights   : WeightSet
  drained   : Bool               -- the drained-mode setting in force (R71)
  matQ      : List MxEntry       -- up to 8 (R101)
  mxOut     : List (Nat × Nat × Nat)  -- in drained operation, what the commands in flight wrote: place in matQ, physical address, length (R72)
  lastMx    : W32                -- SUMR fn 1 (R106)
  orMx      : W32                -- SUMR fn 2 (R106)
  vecQ      : List VItem         -- up to 16 (R131)
  dmaQ      : List DmaCmd        -- up to 32 (R131)
  dmaNext   : Nat                -- number of the next DMA request
  dmaStatus : W64                -- SUMR fn 3 (R135)
  part      : Nat                -- part number within the launch (s2)
  lastRdtb  : Nat                -- the last value RDTB returned: reads never decrease (R27)
  mxHalt    : Bool               -- the matrix and the vector engine have stopped for a pre-emption (R423)
  vxHalt    : Bool
deriving DecidableEq, Repr

/-- A core at package reset and whenever it is given to a context (R124, R156, R159; the program counter and STEP before a launch log 3, what no rule resets log 2). -/
def CoreState.reset : CoreState where
  sregs := []
  preds := 0
  pc := 0
  step := 0
  srTensor := 0
  srIndex := 0
  waitLimit := 1000000000
  vstat := 0
  vl := 0
  vregs := []
  masks := []
  summary := []
  run := .idle
  wait := .none
  acc := []
  accStatus := []
  weights := .none
  drained := true
  matQ := []
  mxOut := []
  lastMx := 0
  orMx := 0
  vecQ := []
  dmaQ := []
  dmaNext := 0
  dmaStatus := 0
  part := 0
  lastRdtb := 0
  mxHalt := false
  vxHalt := false

/-! ### Clusters (spec/01_architecture.md, spec/05_core_memory.md) -/

/-- Damage of a memory word that the next read finds (R144, R164): correctable, or not. -/
inductive SramDamage where
  | single
  | wide
deriving DecidableEq, Repr

/-- One cluster: the context that holds it and its logical number there (R31), whether its cores are issued to, whether its port to the
die network is closed (R28, R29), whether it is being wiped (R159), and whether firmware has detected a failed core (R28). -/
structure ClusterState where
  owner      : Option (Nat × Nat)
  portClosed : Bool
  wiping     : Bool
  failed     : Bool
  failCtx    : Option Nat   -- the context that had work on the cluster when the failure was detected (R28)
  meter      : Nat          -- step of the timebase at which the last window of the handshake meter ended (R24)
deriving DecidableEq, Repr

def ClusterState.reset : ClusterState := ⟨none, false, false, false, none, 0⟩

/-! ### Vats (spec/09_vats.md) -/

/-- A vat: its pool, whether it lies in the overflow part, and its index there (R262). -/
structure VatId where
  k   : Nat
  ovf : Bool
  idx : Nat
deriving DecidableEq, Repr

/-- A last-in, first-out list of free vats (R262): those pushed back, then the not yet used range `lo` to `hi - 1` in
ascending order. -/
structure FreeList where
  pushed : List Nat
  lo     : Nat
  hi     : Nat
deriving DecidableEq, Repr

/-- A pool: its two free lists, the vats lost to it (R272) and whether each watermark event is armed (R273). -/
structure VatPool where
  sram     : FreeList
  ovf      : FreeList
  lost     : Nat
  armLow   : Bool
  armCrit  : Bool
  armEmpty : Bool
deriving DecidableEq, Repr

/-- What a vat is wanted for: a kind (0 trick row, 1 ring chunk, 2 wheel piece, 3 host staging) and numbers that name it. -/
structure VatTag where
  kind : Nat
  a    : Nat
  b    : Nat
  c    : Nat
deriving DecidableEq, Repr

/-- An allocated vat and its holder (R270). `fit` is the class that fitted the request. -/
structure VatHold where
  vat : VatId
  ctx : Nat
  eng : Nat
  tag : VatTag
deriving DecidableEq, Repr

/-- A waiting request (R267). -/
structure VatReq where
  ctx : Nat
  eng : Nat
  k   : Nat
  tag : VatTag
deriving DecidableEq, Repr

/-- A damaged 8-byte word of a vat in the Table SRAM (R144), and whether it is beyond correction. -/
structure VatWord where
  k    : Nat
  idx  : Nat
  word : Nat
  wide : Bool
deriving DecidableEq, Repr

structure VatState where
  pools   : List VatPool
  held    : List VatHold
  waiting : List VatReq   -- in the order they began to wait
  hurt    : List VatWord
deriving DecidableEq, Repr

/-- The pool of n vats of SRAM and none of overflow, every watermark armed (Table 9.1). -/
def VatPool.fresh (n m : Nat) : VatPool := ⟨⟨[], 0, n⟩, ⟨[], 0, m⟩, 0, true, true, true⟩

def VatState.reset : VatState where
  pools := [VatPool.fresh 32768 0, VatPool.fresh 16384 0, VatPool.fresh 8192 0, VatPool.fresh 3072 0, VatPool.fresh 768 0,
    VatPool.fresh 160 0]
  held := []
  waiting := []
  hurt := []

/-! ### Host interface (spec/14_host_interface.md) -/

/-- How a configuration request completes (R403): with data, without, or with Request Retry Status. -/
inductive CfgAnswer where
  | data (value : Nat)
  | done
  | retry
deriving DecidableEq, Repr

/-- What the block sends to the host over PCIe, in order: a write, an MSI-X message, a read request with the number of the read it is part of, the data of a read of BAR0, or the completion of
a configuration request. -/
inductive PcieOut where
  | write (fn : Nat) (addr : Nat) (bytes : List Byte)
  | msix (fn : Nat) (vector : Nat)
  | read (fn : Nat) (addr : Nat) (len : Nat) (readId : Nat)
  | answer (fn : Nat) (offset : Nat) (size : Nat) (value : Nat)
  | config (fn : Nat) (a : CfgAnswer)
deriving DecidableEq, Repr

/-- A submission ring and its paired completion ring: the counts of R387, the descriptors read and not yet accepted (by
count), the descriptors accepted and not completed, the moderation of R397, and the EPOCH_SHARE registers as they stood when each descriptor was fetched (R497). -/
structure RingState where
  head     : W32
  tail     : W32
  cqTail   : W32
  cqHead   : W32
  readTo   : W32
  fetched  : List (W32 × List Byte)
  open_    : Nat
  modCount : Nat
  modFirst : Option Nat
  shares   : List (W32 × List Nat)
deriving DecidableEq, Repr

def RingState.reset : RingState := ⟨0, 0, 0, 0, 0, [], 0, 0, none, []⟩

/-- A vector of a function's MSI-X table (Table 14.5). -/
structure MsixEntry where
  addr   : W64
  data   : W32
  masked : Bool
deriving DecidableEq, Repr

def MsixEntry.reset : MsixEntry := ⟨0, 0, true⟩

/-- What an outstanding read of host memory is for. -/
inductive ReadUse where
  | descriptors (ring : Nat) (count : W32) (n : Nat)
  | copy (id : Nat) (off len : Nat)
  | weights (load wheel : Nat) (off len : Nat)
  | image (off len : Nat)   -- part of a pushed image (R407)
deriving DecidableEq, Repr

structure HostRead where
  fn  : Nat
  use : ReadUse
deriving DecidableEq, Repr

/-- A push of a firmware image that is being read (R407): its bytes, the bytes of one part, how many have been asked for, and what has come, by offset. -/
structure ImagePush where
  len     : Nat
  part    : Nat
  nextOff : Nat
  got     : Tab (List Byte)
deriving DecidableEq, Repr

/-- The configuration of the PCIe endpoint that its capabilities hold (R376, R379, R382): Max Payload and Max Read Request Size as Device Control codes, ECRC, the functions in D3hot, the bases of
PF0's and the VFs' BAR0, and the ECRC error that AER has noted. -/
structure LinkCfg where
  payloadCode : Nat
  readCode    : Nat
  ecrc        : Bool
  d3hot       : List Nat
  pfBar       : Nat
  vfBar       : Nat
  ecrcError   : Bool
deriving DecidableEq, Repr

/-- Reset values (log 120). -/
def LinkCfg.reset : LinkCfg := ⟨0, 2, false, [], 0, 0, false⟩

/-- A descriptor whose completion is owed: its function, ring and TAG, and the opcode it had. -/
structure DescRef where
  fn   : Nat
  ring : Nat
  op   : Byte
  tag  : W32
deriving DecidableEq, Repr

/-- A HOST.COPY in progress (R399): the next byte to stage and the bytes done. -/
structure HostCopyState where
  desc    : DescRef
  toHost  : Bool
  length  : Nat
  host    : Nat
  dev     : Nat
  nextOff : Nat
  done    : Nat
deriving DecidableEq, Repr

structure HostState where
  rings     : Tab RingState          -- ring i of function n at 8 n + i; unlisted RingState.reset
  evq       : RingState              -- PF0's event ring (R384)
  backlog   : Tab (List (Nat × List Byte))  -- records waiting, by function: ring and record (R398)
  evBacklog : List (List Byte)
  msix      : Tab MsixEntry          -- vector v of function n at 64 n + v; unlisted masked
  pba       : List Nat               -- pending bits, as 64 n + v
  numVfs    : Nat                    -- SR-IOV NumVFs (R380)
  vfEnable  : Bool
  ari       : Bool                   -- ARI Capable Hierarchy
  resetting : List Nat               -- functions being reset (R403)
  linkReset : Bool                   -- the reset running is a link reset (Table 14.9)
  reads     : Tab HostRead           -- outstanding reads, by number
  nextRead  : Nat
  push      : Option ImagePush       -- a firmware image being read (R407)
  link      : LinkCfg                -- the endpoint's configuration
  fnTurn    : Nat                    -- the function whose rings are looked at first, and in each function the ring (R393)
  ringTurn  : Tab Nat
  copies    : Tab HostCopyState
  nextCopy  : Nat
  noAccept  : Bool                   -- descriptors are not accepted: orderly power-down (R483)
  pcieOut   : List PcieOut           -- what was sent, oldest first
  sealed    : List Bool              -- whether each carried an ECRC (R376)
deriving DecidableEq, Repr

def HostState.reset : HostState where
  rings := []
  evq := .reset
  backlog := []
  evBacklog := []
  msix := []
  pba := []
  numVfs := 0
  vfEnable := false
  ari := false
  resetting := []
  linkReset := false
  reads := []
  nextRead := 0
  push := none
  link := .reset
  fnTurn := 0
  ringTurn := []
  copies := []
  nextCopy := 0
  noAccept := false
  pcieOut := []
  sealed := []

/-! ### Tenancy (spec/15_tenancy.md) -/

/-- The states of Table 15.6. -/
inductive CtxPhase where
  | active | stopping | suspended | resuming | reclaiming | ending
deriving DecidableEq, Repr

/-- The record of a teardown in progress (R420, R421). -/
structure Ending where
  cls       : Nat
  reason    : Nat
  tag       : W32
  detail    : W64
  atomics   : Nat
  writes    : Nat
  drained   : Bool   -- its requests have drained and the other blocks have ended its work (R420 steps 2 and 3)
deriving DecidableEq, Repr

/-- The engine state a pre-emption saved (R424): each core by logical cluster and place, and the bytes of the clusters'
scratchpads and cluster stores by logical address. -/
structure SavedState where
  cores : Tab CoreState
  mem   : Tab Byte
deriving DecidableEq, Repr

/-- An entry of the reply area (R425). -/
structure ReplyEntry where
  slot  : Nat
  core  : Nat
  dest  : Nat
  bytes : List Byte
deriving DecidableEq, Repr

/-- A tenant context that exists (R410). -/
structure CtxState where
  lent      : Bool
  phase     : CtxPhase
  count     : Nat                  -- logical clusters
  clusters  : List Nat             -- package clusters, in logical order
  srKey     : W64
  saveBase  : W64
  replyBase : W64
  map       : Tab (BitVec 128)     -- memory map (Table 15.2); unlisted empty
  preempt   : Option DescRef       -- CTX.PREEMPT to complete
  resume    : Option DescRef       -- CTX.RESUME to complete
  stopped   : Bool                 -- Stopping or Reclaiming: every core has stopped (R424, R430)
  saved     : Option SavedState
  savedRows : Bool                 -- the rows of the clusters have been saved (R425)
  replies   : List ReplyEntry      -- reply area, in slot order
  log       : List (Nat × List Byte)  -- window log: logical window address and data
  heldWrites : List (Nat × List Byte)
  ending    : Option Ending
  owed      : List (DescRef × Nat)  -- descriptors completed after step 5 of R420, with their statuses
  acctFirst : Bool                 -- the window record still to come is the first (R436)
  acctStart : Nat                  -- start of the interval the next record covers
  acctBase  : List Nat             -- the counters at that start
deriving DecidableEq, Repr

/-- One region of a reclaim (R430): the context and map entry, where it goes, and how it stands. -/
structure KeepRegion where
  ctx   : Nat
  entry : Nat
  toHost : Bool
  dest  : Nat
  block : Nat                       -- the next 64 KiB block to read and encrypt
  queue : List (Nat × List Byte)    -- what is prepared and not yet sent: destination address and bytes
  done  : Bool
  partial_ : Bool
deriving DecidableEq, Repr

/-- A reclaim in progress (R430). -/
structure Reclaim where
  id      : Nat
  desc    : DescRef
  ctxs    : List Nat
  regions : List KeepRegion
  start   : Nat
  copied  : Nat
  tearing : Bool                    -- its contexts are being torn down (step 4)
deriving DecidableEq, Repr

structure TenState where
  ctxs    : Tab CtxState     -- contexts that exist, by number
  reclaim : List Reclaim     -- reclaims in progress, oldest first
  nextReclaim : Nat
  window  : Nat              -- start of the accounting window in progress
  windowNo : Nat             -- its index
  windowLen : Nat            -- its length W in force (R497)
  edges   : List (Nat × Nat × Tab (List Nat))  -- windows ended whose records are still to be written: index, end, and the counters of each context then
  engSteps : Tab Nat         -- engine steps by 4 context + die since the last energy interval (R435)
  dramBytes : Tab Nat        -- DRAM bytes by context since then
  tblSteps : Tab Nat         -- Table steps by context since then
  fabBytes : Tab Nat         -- fabric bytes by context since then
deriving DecidableEq, Repr

def TenState.reset : TenState := ⟨[], [], 0, 0, 0, 1000000000, [], [], [], [], []⟩

/-! ### Trust, life cycle, time (spec/16_security_lifecycle_time.md) -/

/-- The fuses of Table 16.1. MIN_SVN is held as its blown count. -/
structure Fuses where
  lcBits     : BitVec 4
  lcDecom    : Bool
  vendorHash : List Byte
  minSvn     : Nat
  idWrap     : Bool             -- whether ID_WRAP is programmed
  idWrapBits : BitVec 384       -- what it holds
  ownerHash  : List Byte
  debugHash  : List Byte
deriving DecidableEq, Repr

/-- A life-cycle transition under way (R445): its target code and, into Deployed, the hash its fuses get. -/
structure WipeMark where
  target    : Nat
  ownerHash : List Byte
deriving DecidableEq, Repr

/-- The lifetime ledger (Table 16.10). -/
structure LifeLedger where
  powerOnS    : Nat
  powerCycles : Nat
  stackBytes  : List Nat
  optTxS      : List Nat
  tempHist    : List Nat
  firstDeploy : Nat
  saveSeq     : Nat
deriving DecidableEq, Repr

def LifeLedger.zero : LifeLedger := ⟨0, 0, List.replicate 12 0, List.replicate 20 0, List.replicate 28 0, 0, 0⟩

/-- A copy of the ledger in flash; a copy whose save was interrupted is not valid (R459, R460). -/
structure LedgerCopy where
  valid : Bool
  data  : LifeLedger
deriving DecidableEq, Repr

/-- Board flash (R438). -/
structure Flash where
  image      : List Byte
  bootCount  : Nat
  mark       : Option WipeMark
  retired    : List Nat            -- retired clusters
  frames     : List (Nat × Nat)    -- retired frames: stack and frame
  remaps     : List (Nat × Nat × Nat)  -- remapped frames: stack, frame, replacement
  keyRecord  : List Byte           -- management key record; empty for none
  cert       : List Byte
  copyA      : LedgerCopy
  copyB      : LedgerCopy
  torn       : Bool                -- the image is one that fails verification: its write was interrupted or did not read back (R408)
deriving DecidableEq, Repr

/-- A write of an image to flash that is under way (R408): its descriptor, the image, and whether it will read back as written. -/
structure FlashWrite where
  desc  : DescRef
  image : List Byte
  good  : Bool
deriving DecidableEq, Repr

/-- The nonce window of a key (R451): the highest accepted, and the accepted ones in the window. -/
structure NonceWindow where
  high : Option Nat
  seen : List Nat
deriving DecidableEq, Repr

/-- The rind (R153). -/
structure Rind where
  identity : Option (List Byte)    -- the identity private key, once it is unwrapped
  cert     : List Byte             -- the device certificate
  attests  : Nat                   -- attestation counter: the reports signed since boot
  romMeas  : List Byte
  fwMeas   : List Byte
  mgmtKeys : Tab (List Byte)       -- slots 0-3, 4 the owner root key
  nonces   : Tab NonceWindow       -- per key slot
  ctxKeys  : Tab (List Byte)       -- slot k of context c at 8 c + k (R417)
  working  : List Byte             -- signing and verification scratch
deriving DecidableEq, Repr

def Rind.empty : Rind := ⟨none, [], 0, [], [], [], [], [], []⟩

/-- An accepted management command waiting to be performed (R449): its sender and payload. -/
structure MgmtCmd where
  src     : Nat
  payload : List Byte
deriving DecidableEq, Repr

/-- Where a boot stands (R441, R474). -/
inductive BootPhase where
  | held       -- a package reset is held
  | wiping     -- the Table SRAM is being wiped
  | markWait   -- the boot ROM waits for the DRAM wipe of a marked transition
  | stopped    -- BOOT_STATUS 0xF
  | recovery   -- waiting for a host image
  | running    -- firmware runs
deriving DecidableEq, Repr

structure SecState where
  fuses     : Fuses
  flash     : Flash
  rind      : Rind
  rindWiped : Bool              -- SEC_STATUS.RIND_WIPED
  rindBusy  : Bool              -- a rind wipe is running
  rindCause : Nat               -- cause of the wipe (Table 14.16)
  keyrecOk  : Bool              -- SEC_STATUS.KEYREC_VALID
  debugOpen : Bool
  unlock    : Option DebugCred  -- an unlock attempt whose wipe is running (R155)
  challenge : List Byte         -- the debug port's challenge, which no attempt has answered yet (R446); empty before boot
  boot      : BootPhase
  bootCode  : Nat               -- BOOT_STATUS
  checking  : Option (List Byte) -- a pushed image that the boot ROM verifies (R407)
  fwVersion : W64
  fwSvn     : Nat
  arithRev  : W16
  home      : Option Nat        -- MGMT.HOME (R450)
  accepted  : List MgmtCmd
  transition : Option WipeMark  -- a life-cycle transition authorised and not yet complete (R445)
  serial    : W64
  dbgOut    : List (List Byte)  -- what the debug port returned, oldest first (R444)
  flashing  : Option FlashWrite -- an image being written to flash (R408)
deriving DecidableEq, Repr

/-- The timebase and its discipline (R452 to R456). `tb` counts 2^-24 ns. -/
structure TimeState where
  tb        : Nat
  inc       : W32
  acquired  : Bool
  locked    : Bool
  holdover  : Bool
  role      : Nat
  master    : Nat
  configured : Bool
  setUsed   : Bool
  exch      : W32
  asked     : Bool              -- the latest TIME_REQ has not been answered
  lastExch  : Option Nat        -- timebase of the latest TIME_REQ
  estimate  : Int               -- frequency estimate, in units of TB_INC
  lockRun   : Nat
  lastCount : Nat               -- timebase of the latest counted exchange, or of the TIME.CONFIG after it
  clockLost : Bool              -- FAB_REFCLK is absent (R475)
  steps     : Nat               -- steps counted since the SRAM wipe ended
deriving DecidableEq, Repr

def TimeState.reset : TimeState :=
  ⟨0, 0x06666666, false, false, false, 0, 0, false, false, 0, false, none, 0, 0, 0, false, 0⟩

/-- The live lifetime ledger and its saves (R457 to R459). -/
structure LifeState where
  live      : LifeLedger
  snapshot  : Option LifeLedger  -- a save in progress
  forDown   : Bool               -- it is the save of an orderly power-down
  lastStart : Nat                -- timebase at which the previous save started
  lastSave  : Nat                -- LIFE_LAST_SAVE
  saved     : Bool
  secTick   : Nat                -- reference steps counted since the last whole second
deriving DecidableEq, Repr

/-- The ledger starts as log 6 says. -/
def LifeState.reset : LifeState := ⟨.zero, none, false, 0, 0, false, 0⟩

/-! ### Package and power (spec/17_package_electrical.md) -/

/-- A voltage command that a regulator has not acknowledged (R472): the target in 2^-12 V units, tries made, time of the last. -/
structure VrPending where
  target : Nat
  tries  : Nat
  last   : Nat
deriving DecidableEq, Repr

structure PowerState where
  pwrGood   : Bool              -- PWR_GOOD_OUT
  alertN    : Bool              -- ALERT_N, true is high
  thermTripN : Bool
  vr        : Tab VrPending     -- by die
  lasersOff : Bool              -- every laser off: trip or power-down
  hotPorts  : List Nat          -- ports whose optics are too hot (Table 17.9)
  tripped   : Bool
  powerDown : Bool              -- an orderly power-down is under way (R483)
  diesHalted : Bool
  hotRefresh : List Nat         -- stacks at 85 degrees or above: refresh doubled
  paced     : List Nat          -- stacks paced to half rate
  railTime  : Nat               -- end of the last energy interval
  thermTime : Nat               -- time of the last thermal loop
  tableHot  : Bool              -- the Table stood at 100 degrees or above at the last reading
  smbOut    : List (List Byte)  -- answers sent on the board-management SMBus, oldest first (R482)
  vrOut     : List (Nat × Nat)  -- VOUT_COMMAND writes sent, oldest first: die and value (R471)
  vcore     : List Nat          -- the last confirmed set point of each die (R471, R472)
  railsOk   : Bool              -- every rail is within its absolute limits (R468)
  railsInBand : Bool            -- every rail is within its steady-state band
  sysRstN   : Bool              -- SYS_RST_N, true is high
  held      : Nat               -- steps of the hold of a package reset (Table 17.5)
  browned   : Bool              -- the hold began with a brown-out
deriving DecidableEq, Repr

/-- Reset values that no rule gives are those of log 2. -/
def PowerState.reset : PowerState where
  pwrGood := false
  alertN := true
  thermTripN := true
  vr := []
  lasersOff := false
  hotPorts := []
  tripped := false
  powerDown := false
  diesHalted := false
  hotRefresh := []
  paced := []
  railTime := 0
  thermTime := 0
  tableHot := false
  smbOut := []
  vrOut := []
  vcore := List.replicate 4 0x0A66
  railsOk := true
  railsInBand := true
  sysRstN := true
  held := 0
  browned := false

/-! ### Dolmel stacks, the Presses and the page ledger (spec/06_dolmel_press.md) -/

/-- An entry of a stack's flat remap table (R168): the failed frame, its replacement once one is taken (none: pending), and
whether the copy to it has ended. -/
structure RemapEntry where
  frame : Nat
  repl  : Option Nat
  ready : Bool
deriving DecidableEq, Repr

/-- A command accepted by a Press (R185, R193): the context it is for, its bytes, the core that sent it, and whether it has run
and only its DONE_PTR update remains. -/
structure PressCmd where
  ctx   : Nat
  bytes : List Byte
  ran   : Bool
deriving DecidableEq, Repr

/-- The Presses and the page ledger. The binding of entries to frames is kept as R177 makes it, and `words` holds the entries
changed since. -/
structure PressState where
  wiping  : List Nat                -- stacks whose DRAM wipe has not been reported complete
  queues  : Tab (List PressCmd)     -- by stack, oldest first, at most 256
  remaps  : Tab (List RemapEntry)   -- by stack, oldest first, at most 256
  degraded : List Nat               -- stacks reported degraded
  ready   : Bool                    -- the ledger has been initialised
  bound   : List Nat                -- entries bound to each stack
  firsts  : List Nat                -- first ledger-managed frame of each stack at the binding
  skipped : List (Nat × Nat)        -- frames left out of the binding, rising in each stack
  words   : Tab W64                 -- entry words changed since the binding
  free    : List FreeList           -- free list of each stack
  marks   : List Nat                -- entries marked for retirement (R167)
  badPrimary : List Nat             -- entries whose word in the primary copy cannot be read (R169)
  badMirror  : List Nat
  failed  : Option Nat              -- the entry whose word is poisoned in both copies: the package has failed (R169)
  reported : Bool                   -- and has been reported so
deriving DecidableEq, Repr

/-- Reset values that no rule gives are those of log 2. -/
def PressState.reset : PressState where
  wiping := List.range 12
  queues := []
  remaps := []
  degraded := []
  ready := false
  bound := List.replicate 12 0
  firsts := List.replicate 12 174763
  skipped := []
  words := []
  free := List.replicate 12 ⟨[], 0, 0⟩
  marks := []
  badPrimary := []
  badMirror := []
  failed := none
  reported := false

/-! ### Sequences (spec/07_sequences.md) -/

/-- A slot record (Table 7.1) with its chain of ledger entries in page order, from which HEAD, TAIL and PAGES follow, the ring that carried
its latest SEQ.ADMIT and the SEQ.RETIRE that set LEAVE. -/
structure Slot where
  st      : Nat     -- 0 Free, 1 Queued, 2 Running, 3 Suspended, 4 Retiring
  leave   : Bool
  keep    : Bool
  inQueue : Bool
  suspReq : Bool
  ctx     : Nat
  epoch   : Nat
  adapterEn : Bool
  adapter : Nat
  length  : Nat
  maxLen  : Nat
  chain   : List Nat
  placeDiv : Nat
  tp      : Nat
  advance : Nat
  group   : Nat
  admitSeq : Nat
  queuedAt : Nat
  tag     : W32
  suspensions : Nat
  ring    : Nat
  retire  : Option DescRef
  epochRef : Bool   -- the slot holds a reference to its epoch (R209)
  adapterRef : Bool
  released : Bool   -- its suspension released its pages (R206, R214)
deriving DecidableEq, Repr

def Slot.free : Slot := ⟨0, false, false, false, false, 0, 0, false, 0, 0, 0, [], 0, 0, 0, 0, 0, 0, 0, 0, 0, none, false, false, false⟩

/-- An entry of a join queue (R214). -/
structure JoinEntry where
  slot    : Nat
  desc    : DescRef
  resume  : Bool
  initLen : Nat
deriving DecidableEq, Repr

/-- A SEQ.STEP accepted, with the order of its acceptance package-wide (R203). -/
structure StepReq where
  desc  : DescRef
  bytes : List Byte
  order : Nat
deriving DecidableEq, Repr

/-- A record of a descriptor that completed when it was accepted, while its context's boundary ran: it is posted when that is over (R210). -/
structure SeqOwed where
  desc   : DescRef
  status : Nat
  slot   : Nat
  length : Nat
  pages  : Nat
deriving DecidableEq, Repr

/-- A context's sequences: its join queue, modifications not yet applied, steps waiting and the step in progress. -/
structure SeqCtx where
  queue    : List JoinEntry
  modifies : List (DescRef × List Byte)
  steps    : List StepReq
  inStep   : Option StepReq   -- its boundary has begun and the step has not completed
  launched : Bool             -- its cores have been launched
  trapped  : Bool             -- a core has stopped on a program trap
  held     : Option Nat       -- its boundary ended while the context was not Active: the launch waits for its resume, with this BATCH_COUNT (R217, R423)
  nextAdmit : Nat
  owed     : List SeqOwed
deriving DecidableEq, Repr

def SeqCtx.reset : SeqCtx := ⟨[], [], [], none, false, false, none, 1, []⟩

/-- The sequence table and the boundary in progress. -/
structure SeqState where
  slots    : Tab Slot          -- unlisted Free
  ctxs     : Tab SeqCtx
  boundary : Option Nat        -- the context whose boundary runs (R182)
  batch    : Nat               -- its number of Running slots
  tornDown : List Nat          -- contexts whose retire-only boundary waits (R211)
  nextOrder : Nat
deriving DecidableEq, Repr

def SeqState.reset : SeqState := ⟨[], [], none, 0, [], 0⟩

/-! ### The fabric (spec/10_zhomus_fabric.md) -/

/-- The states of Table 10.2. -/
inductive PortPhase where
  | disabled | training | up | down | mismatch
deriving DecidableEq, Repr

/-- A packet waiting at an output: whether it is at the first hop of its leg here (R296), and whether this package has counted its detour (Table 10.12). -/
structure Queued where
  pkt   : Packet
  first : Bool
  detour : Bool := false
deriving DecidableEq, Repr

/-- A fabric port: its state, the lanes in use, whether it may come up with 8 lanes (R279), its peer, when it entered the state,
the packets waiting for its output by VC, and the credits of each VC in 64-byte units (an escape VC: free slots by PHASE). -/
structure PortState where
  phase   : PortPhase
  lanes   : Nat
  upper   : Bool          -- four lanes, and they are lanes 4 to 7
  mayFull : Bool
  peer    : Option Nat
  since   : Nat
  queues  : Tab (List Queued)
  credits : List Nat
deriving DecidableEq, Repr

def PortState.reset : PortState := ⟨.disabled, 0, false, true, none, 0, [], [0, 0, 0, 0, 0, 0, 0, 0]⟩

/-- A sequenced packet kept until an ACK retires it (R293): when it was first and last sent, whether it has left its source
(it has had a route), the request slot it belongs to, and whether the copy routed last carried RETX. -/
structure SentPkt where
  pkt   : Packet
  first : Nat
  last  : Nat
  sent  : Bool
  slot  : Option Nat
  again : Bool
deriving DecidableEq, Repr

/-- The sending end of a stream: the next SEQ, the unacknowledged packets in SEQ order, and packets waiting for the window. -/
structure TxStream where
  nextSeq : W32
  unacked : List SentPkt
  waiting : List (Packet × Option Nat)
deriving DecidableEq, Repr

/-- The receiving end: the SEQ expected next, early packets held, packets accepted since the last ACK and when the first was. -/
structure RxStream where
  expected : W32
  early    : List Packet
  unAcked  : Nat
  since    : Option Nat
deriving DecidableEq, Repr

/-- What is known of another package: its boot count, whether it is dead, the eight ends of the streams with it, and a neighbour's
last LINK_STATE. -/
structure PeerState where
  boot    : Option Nat
  dead    : Bool
  tx      : Tab TxStream   -- by class: 0 request, 1 reply, 2 bulk, 3 management
  rx      : Tab RxStream
  linkAt  : Option Nat
  links   : List Byte
  gports  : List Byte      -- the states of its six G-ports, if of this chassis
deriving DecidableEq, Repr

def TxStream.reset : TxStream := ⟨0, [], []⟩
def RxStream.reset : RxStream := ⟨0, [], 0, none⟩
def PeerState.reset : PeerState := ⟨none, false, [], [], none, [], []⟩

/-- A packet on a link: the port it left by, and whether its trailer was stomped (R280). -/
structure Sent where
  port    : Nat
  pkt     : Packet
  stomped : Bool
deriving DecidableEq, Repr

/-- A packet that rests in the input buffer of a port, as it arrived (R286). -/
structure InBuf where
  port : Nat
  pkt  : Packet
deriving DecidableEq, Repr

/-- The fabric ports, streams and tables of the package. -/
structure FabState where
  pos      : Option (Nat × Nat × Nat)   -- chassis, row, column (R281)
  ports    : Tab PortState
  peers    : Tab PeerState
  gw       : Tab W32                     -- gateway table by chassis (R282)
  inbox    : List Packet                 -- delivered to their destination blocks, oldest first
  unrouted : List Packet                 -- unsequenced packets held for want of a route
  gather   : Tab (List Packet)           -- TRICK_ROW pieces held for an outgoing G-link, by far-end package (R300)
  wire     : List Sent                   -- what was transmitted, oldest first
  inBufs   : List InBuf                  -- what rests in the input buffers of the ports, oldest first (R286)
  creditsOut : List (Nat × Nat × Nat)    -- what was returned upstream: port, VC, and 64-byte units or a free PHASE (R287)
  lastLink : Nat                         -- when the last LINK_STATE went to the neighbours
  lastGport : Nat                        -- when the last chassis-wide G-port state went out
  linkDirty : Bool                       -- a port state changed since the last LINK_STATE
  gportDirty : Bool
deriving DecidableEq, Repr

def FabState.reset : FabState := ⟨none, [], [], [], [], [], [], [], [], [], 0, 0, false, false⟩

/-! ### Memory operations across the fabric (spec/11_memory_semantics.md) -/

/-- Whose remote request a slot holds: a core's DMA request, or a piece of a reclaimed region on its way out (R430). -/
inductive ReqOwner where
  | dma (core req : Nat)
  | reclaim (region : Nat)
deriving DecidableEq, Repr

/-- A held request slot (R311). `kind` is the request's packet type. -/
structure ReqSlot where
  gen    : Nat
  ctx    : Nat
  owner  : ReqOwner
  peer   : Nat
  kind   : Nat
  dest   : Nat            -- where a reply's bytes go: an address of the requester
  len    : Nat
  seq    : Option W32     -- once the request has entered the send window
  acked  : Option Nat     -- when it was acknowledged
deriving DecidableEq, Repr

/-- A performed read or atomic whose reply is kept (R319): the requester, the SEQ of its request and the reply's SEQ. -/
structure ReplyRef where
  peer     : Nat
  reqSeq   : W32
  tag      : W32
  bytes    : Nat
deriving DecidableEq, Repr

structure MemState where
  slots   : Tab ReqSlot    -- held request slots
  gens    : Tab Nat        -- generation of each slot that was ever taken
  replies : List ReplyRef  -- the reply caches
  peerTab : Tab (List Byte) -- peer tables as cached when MEM_PEER_PTR was written (R309)
deriving DecidableEq, Repr

def MemState.reset : MemState := ⟨[], [], [], []⟩

/-! ### Wheels, epochs and adapters (spec/13_weights.md) -/

/-- A wheel of a load (Table 13.2): the pieces written, whether it is held, its fetch attempt (R354) and, while it is pulled, the
holders that have refused it in this round and when a round wait began (R358). -/
structure Wheel where
  part    : Nat
  offset  : Nat
  bytes   : Nat
  digest  : List Byte
  got     : List Nat
  held    : Bool
  attempt : Nat
  refused : List Nat
  next    : Nat
  roundAt : Option Nat
  refetch : Bool          -- pulled after a digest mismatch, whatever the rest of its load does
deriving DecidableEq, Repr

/-- A WHL_PULL sent, or waiting for its vats (R358): the holder entry asked, the pieces still to come, and when data last came. -/
structure Pull where
  wheel  : Nat
  holder : Nat
  first  : Nat
  pieces : List Nat
  sent   : Bool
  last   : Nat
deriving DecidableEq, Repr

/-- Where a load stands. -/
inductive LoadPhase where
  | waiting     -- Pending: the old epoch is not yet freed (R366)
  | loading
  | resident    -- complete
  | failed      -- failed or abandoned; its entry waits for its count to reach 0
deriving DecidableEq, Repr

/-- A weight load (Table 13.3) with its manifest. -/
structure Load where
  ctx      : Nat
  desc     : DescRef
  mode     : Nat
  kind     : Nat
  target   : Nat             -- epoch number, or adapter slot
  phase    : LoadPhase
  manId    : Nat
  modelTag : W32
  base     : Nat
  bytes    : Nat
  wheels   : List Wheel
  myPart   : Nat
  holders  : List (Nat × Nat) -- package and context of each holder entry (R233)
  hostAddr : Nat
  donePtr  : Nat
  idleMs   : Nat
  pulling  : Bool
  pulls    : Tab Pull
  nextPull : Nat
  lastMcast : Nat
  lastWrite : Nat
  gotEnd   : Bool
  pulled   : Nat             -- bytes pulled, for the completion
deriving DecidableEq, Repr

/-- An entry of the epoch table (R363): state 0 Free, 1 Pending, 2 Loading, 3 Ready, 4 Retiring. `named` are the contexts whose binding
tables hold its entry. -/
structure EpochEntry where
  epoch   : Nat
  st      : Nat
  owner   : Nat
  loadRef : Bool
  load    : Nat
  draining : Option Nat   -- the new load that waits for this epoch to be freed
  named   : List Nat
deriving DecidableEq, Repr

def EpochEntry.free : EpochEntry := ⟨0, 0, 0, false, 0, none, []⟩

/-- An adapter slot (R369): state 0 Free, 1 Loading, 2 Ready, 3 Unloading. -/
structure AdapterEntry where
  st      : Nat
  owner   : Nat
  loadRef : Bool
  load    : Nat
deriving DecidableEq, Repr

def AdapterEntry.free : AdapterEntry := ⟨0, 0, false, 0⟩

structure WhlState where
  epochs    : List EpochEntry   -- four
  adapters  : Tab AdapterEntry
  loads     : Tab Load
  nextLoad  : Nat
  admission : Tab Nat           -- admission epoch of each context; unlisted 0
deriving DecidableEq, Repr

def WhlState.reset : WhlState := ⟨[.free, .free, .free, .free], [], [], 0, []⟩

/-! ### The Dealer (spec/08_dealer.md) -/

/-- A whole command written to the Dealer command window and not yet accepted (R239, R253): the context, the DMA request that
brought it (core and number), and its bytes. -/
structure WindowCmd where
  ctx   : Nat
  core  : Nat
  req   : Nat
  bytes : List Byte
deriving DecidableEq, Repr

/-- A card of a hand (R228 to R232): its expert and weight, the owner package and expert slot placement chose (none: absent), the sub-trick
it was dispatched in (0: none), why it is whey (false capacity, true absent), and for an alternate the whey card it
replaced. -/
structure Card where
  expert : Nat
  weight : W32
  home   : Option (Nat × Nat)
  sub    : Nat
  whey   : Option Bool
  repl   : Option Nat
deriving DecidableEq, Repr

/-- The hand of a token: a place for each of K + A cards, and NAN. -/
structure Hand where
  cards : List (Option Card)
  nan   : Bool
  zero  : Bool   -- RENORM_ZERO
deriving DecidableEq, Repr

/-- A row staged at its owner (R237) by its tag, and the pieces that have come. -/
structure StagedRow where
  src   : Nat
  sctx  : Nat
  token : Nat
  card  : Nat
  sub   : Nat
  slot  : Nat
  got   : Tab (List Byte)
  vat   : VatHold
deriving DecidableEq, Repr

/-- A notice received (R303): who sent it, and the parts that have come. -/
structure NoticeIn where
  src   : Nat
  sctx  : Nat
  kind  : Nat
  sub   : Nat
  parts : Nat
  got   : Tab (List Byte)
  count : Nat
deriving DecidableEq, Repr

/-- A row returned to the source (R248): token, card and the piece offsets that have come, with their lengths. -/
structure BackRow where
  token : Nat
  card  : Nat
  got   : Tab Nat
deriving DecidableEq, Repr

/-- A trick of a member (R221): its command and layer record once accepted (`live`), the source's hands, what has arrived, the owner's
slot records and admissions in order, and where its phases stand. -/
structure Trick where
  ctx     : Nat
  id      : W32
  live    : Bool
  order   : Nat
  cmd     : List Byte
  layer   : List Byte
  members : List (Nat × Nat)
  hands   : List Hand
  rows    : List StagedRow
  notices : List NoticeIn
  back    : List BackRow
  records : Tab (List Byte)     -- slot records read when phase B began
  table   : List Host.Cell      -- with SPILL, the expert slot table as phase B found it (R241)
  admits  : List StagedRow      -- admitted, in order
  refused : List (StagedRow × Bool)
  arrived : Nat                 -- rows that reached this owner
  sent    : Nat                 -- cards dispatched
  spilled : Nat
  phaseC  : Bool
  cap1    : Bool
  cap2    : Bool
  phaseE  : Bool
  returned : Bool
  waitFrom : Option Nat         -- the last own notice whose barrier is not complete (timebase steps)
  stallFrom : Option Nat        -- when the barrier in progress began to wait
  waited  : Nat                 -- BARRIER_WAIT
deriving DecidableEq, Repr

structure DealState where
  dir       : Tab (BitVec 128)  -- expert directory (Table 8.4); unlisted 0
  window    : List WindowCmd
  tricks    : List Trick        -- live, and those whose rows or notices came before their DEAL.TRICK
  dirsets   : List (DescRef × List Byte)  -- DEAL.DIRSET accepted and waiting (R255)
  nextOrder : Nat
deriving DecidableEq, Repr

def DealState.reset : DealState := ⟨[], [], [], [], 0⟩

/-! ### Collectives (spec/12_collectives.md) -/

/-- A chunk arriving at a member (R342): its kind (0 contribution, 1 result, 2 copy), chunk and sender's rank, the attempt held, the pieces
held, the number of the LAST piece once it has come, the chunk CRC, whether it is a COLL_ZERO marker, and whether it is checked. -/
structure InChunk where
  kind    : Nat
  chunk   : Nat
  rank    : Nat
  attempt : Nat
  got     : Tab (List Byte)
  last    : Option Nat
  crc     : W32
  zero    : Bool
  checked : Bool
deriving DecidableEq, Repr

/-- A chunk sent to a rank and the attempt sent last. -/
structure SentChunk where
  kind    : Nat
  chunk   : Nat
  toWhom      : Nat
  attempt : Nat
deriving DecidableEq, Repr

/-- A collective in flight at this member (R330 to R348). As an owner it works its owned chunks in order: chunk number `pos` of them, rank
`turn` next, with the accumulator so far; `granted` counts turns whose credit has been asked for, `used` remote turns used. -/
structure Coll where
  ctx      : Nat
  id       : W32
  desc     : DescRef
  bytes    : List Byte
  aux      : List Byte
  members  : List (Nat × Nat)
  rank     : Nat
  order    : Nat
  started  : Bool
  paused   : Bool
  pausedAt : Nat              -- when the context's pre-emption paused it
  haltAt   : Option Nat       -- since when some member's PAUSE is in force: the watchdog stands
  pausedBy : List Nat
  lastStep : Nat
  granted  : Nat
  used     : Nat
  pos      : Nat
  turn     : Nat
  acc      : Option (List Byte)
  accZero  : Bool             -- no contribution to the chunk so far was other than zero
  ins      : List InChunk
  credits  : List Nat         -- chunks whose credit this member holds and has not used
  sent     : List SentChunk
  redo     : List SentChunk   -- sends to make, held by a pause or abandoned by one
  heldOut  : List Packet      -- markers, credits, NACKs and RELEASEs that a pause has kept from leaving, oldest first
  released : List Nat         -- ranks this member has sent a RELEASE
  releases : List Nat         -- ranks whose RELEASE has come
  written  : List Nat         -- chunks this member has to write that are written and checked
  headroom : Nat
  zeroChunks : Nat
  retries  : Nat
deriving DecidableEq, Repr

structure CollState where
  colls     : List Coll
  ended     : List (Nat × W32)  -- collectives that have ended here, by context and id: a COLL_CTRL that still comes for one is discarded
  failed    : List (Nat × W32)  -- those of them that failed: whatever still comes for one is discarded
  nextOrder : Nat
deriving DecidableEq, Repr

def CollState.reset : CollState := ⟨[], [], [], 0⟩

/-! ### Networks and banks inside the package (spec/01_architecture.md, R13 to R21; spec/05_core_memory.md, R142, R145 to R147) -/

/-- A bank of a scratchpad, of a cluster store or of the Table SRAM: the round-robin pointers of its read and write port, the row that an atomic holds until its write and the master it is of
(R147), the accesses presented and not yet looked at, oldest first, and those that wait after a lost arbitration. -/
structure BankState where
  rdPtr   : Nat
  wrPtr   : Nat
  hold    : Option (Nat × Nat)
  asked   : List BankAcc
  waiting : List BankAcc
deriving DecidableEq, Repr

/-- Both pointers start at master 0 (log 124). -/
def BankState.reset : BankState := ⟨0, 0, none, [], []⟩

/-- The networks: the packets that senders hold, the buffers of every level in each class, the turns of the routers' arbitration, the banks, the requests each cluster DMA has
outstanding (R151), and the dies with a failed router (R29). -/
structure NetState where
  senders  : List NetPkt        -- sent and not yet in a buffer of the first level, oldest first
  queues   : Tab (List NetPkt)  -- class q of buffer b at 4 b + q (netKey), oldest first
  turns    : Tab Nat            -- the input that class q of output o of router n looks at first, at 24 n + 4 o + q
  classes  : Tab Nat            -- the class, below management, that output o of router n looks at first, at 6 n + o
  banks    : Tab BankState      -- bank b of unit u of cluster n at 16 (160 n + u) + b, of the Table SRAM from 16 · 160 · 200 on
  cdma     : Tab Nat            -- by cluster
  badDies  : List Nat
  reported : Bool               -- the package has been reported failed for a router (R29)
deriving DecidableEq, Repr

def NetState.reset : NetState := ⟨[], [], [], [], [], [], [], false⟩

/-! ### The whole state -/

structure State where
  pending   : List Instr            -- commands waiting, first in first out
  freeCtr   : Nat                   -- the model's own: free values drawn so far (log 1)
  regs      : Tab W64               -- setup registers, function n at n·2^25 + offset; unlisted: its reset value
  mem       : Tab Byte              -- every byte of DRAM, cluster stores and scratchpads (Ops.lean); unlisted 0
  damage    : Tab SramDamage        -- damaged words, by the physical address of the 8-byte SRAM or 32-byte DRAM word
  dramPoison : List Nat             -- poisoned 32-byte DRAM words, by physical address / 32 (R164)
  rowPoison : List Nat              -- poisoned cluster-store rows, by physical address / 64 (R144)
  rowUe     : Tab Nat               -- when a row that had an uncorrectable error was rewritten, by physical address / 64 (R144)
  cores     : Tab CoreState         -- by core number; unlisted CoreState.reset
  clusters  : Tab ClusterState      -- by package cluster; unlisted ClusterState.reset
  vats      : VatState
  host      : HostState
  ten       : TenState
  sec       : SecState
  time      : TimeState
  life      : LifeState
  power     : PowerState
  press     : PressState  -- spec/06
  seq       : SeqState  -- spec/07
  fab       : FabState  -- spec/10
  memop     : MemState  -- spec/11
  whl       : WhlState  -- spec/13
  deal      : DealState  -- spec/08
  coll      : CollState  -- spec/12
  net       : NetState  -- spec/01, spec/05
deriving DecidableEq, Repr

/-- The fuses the model starts with (log 6): a Deployed part; every hash 0, no SVN bit blown. -/
def Fuses.reset : Fuses := ⟨0x7, false, List.replicate 32 0, 0, true, 0, List.replicate 32 0, List.replicate 32 0⟩

/-- The flash the model starts with (log 6): no image, no record. -/
def Flash.reset : Flash := ⟨[], 0, none, [], [], [], [], [], ⟨false, .zero⟩, ⟨false, .zero⟩, false⟩

/-- Reset values that no rule gives are those of log 2, and of log 6 for fuses and flash. -/
def SecState.reset : SecState where
  fuses := .reset
  flash := .reset
  rind := .empty
  rindWiped := false
  rindBusy := false
  rindCause := 0
  keyrecOk := false
  debugOpen := false
  unlock := none
  challenge := []
  boot := .wiping
  bootCode := 1
  checking := none
  fwVersion := 0
  fwSvn := 0
  arithRev := 1
  home := none
  accepted := []
  transition := none
  serial := 0
  dbgOut := []
  flashing := none

/-- The state right after package reset (R156, R474, R490): the wipes run, nothing is retired, no context exists, no
command waits. Values the spec does not give are those of log 1 to log 13. -/
def State.reset : State where
  pending := []
  freeCtr := 0
  regs := []
  mem := []
  damage := []
  dramPoison := []
  rowPoison := []
  rowUe := []
  cores := []
  clusters := []
  vats := .reset
  host := .reset
  ten := .reset
  sec := .reset
  time := .reset
  life := .reset
  power := .reset
  press := .reset
  seq := .reset
  fab := .reset
  memop := .reset
  whl := .reset
  deal := .reset
  coll := .reset
  net := .reset

/-- How a step of the model can stop. No rule of the spec stops the block: a hardware fault ends one tenant context and the block goes on
(R418), which is a next state. So there is no constructor. -/
inductive Fault where
deriving DecidableEq, Repr

/-- Why the model has no answer to a command. -/
inductive Refusal where
  /-- Raised by `exec` alone, for a command whose meaning is not written yet; safe, because nothing is claimed of it. -/
  | notModelled (mnemonic : String)
deriving DecidableEq, Repr

end Sys2Proof.Machine
end

