-- ==== Sys2Proof/Machine/Tab.lean ====
section
/-!
DEFINITION. Operations over sparse tables (`Tab`), shared by memory, the register files and every table of the block.
Keys are strictly rising; `tabSet` never leaves an entry equal to the default, so equal contents are equal lists.
-/
namespace Sys2Proof.Machine

/-- The entry at a key, if one is listed. -/
def tabFind {α : Type} (t : Tab α) (k : Nat) : Option α :=
  match t with
  | [] => none
  | (a, v) :: r => if a = k then some v else tabFind r k

/-- What a key reads as: its entry, or the default `d` when unlisted. -/
def tabGet {α : Type} (d : α) (t : Tab α) (k : Nat) : α := (tabFind t k).getD d

/-- The table without the key. -/
def tabErase {α : Type} (t : Tab α) (k : Nat) : Tab α := t.filter (fun e => e.1 != k)

/-- The table with an entry put in its place in key order. -/
def tabInsert {α : Type} (t : Tab α) (k : Nat) (v : α) : Tab α :=
  match t with
  | [] => [(k, v)]
  | (a, w) :: r =>
    if k < a then (k, v) :: (a, w) :: r
    else if k = a then (k, v) :: r
    else (a, w) :: tabInsert r k v

/-- Write a key: an entry equal to the default is removed, any other is put in its place. -/
def tabSet {α : Type} [DecidableEq α] (d : α) (t : Tab α) (k : Nat) (v : α) : Tab α :=
  if v = d then tabErase t k else tabInsert t k v

/-- Whether a key is listed. -/
def tabHas {α : Type} (t : Tab α) (k : Nat) : Bool := (tabFind t k).isSome

/-- The canonical form: keys strictly rising and no entry equal to the default. -/
def tabWf {α : Type} [DecidableEq α] (d : α) (t : Tab α) : Bool :=
  decide (t.Pairwise (fun a b => a.1 < b.1)) && t.all (fun e => decide (e.2 ≠ d))


/-- Membership in a rising list of numbers. -/
def setHas (s : List Nat) (k : Nat) : Bool := s.contains k

/-- Put a number into a rising list. -/
def setAdd (s : List Nat) (k : Nat) : List Nat :=
  match s with
  | [] => [k]
  | a :: r => if k < a then k :: a :: r else if k = a then a :: r else a :: setAdd r k

/-- Take a number out of a list. -/
def setDel (s : List Nat) (k : Nat) : List Nat := s.filter (fun a => a != k)

/-- Replace the element at a place of a list; the list is unchanged when the place is past its end. -/
def listSet {α : Type} (l : List α) (i : Nat) (v : α) : List α := l.set i v

end Sys2Proof.Machine
end

