-- ==== Sys2Proof/Machine/Regs.lean ====
section
/-!
DEFINITION. The setup registers by name (spec/18_register_map.md): their addresses in the model's register file, their reset
values, and the operations that read, write and count in them. A register of function n at BAR0 offset o has the address
n·2^25 + o; the management window is PF0's.
-/
namespace Sys2Proof.Machine

/-- The address of a register of a function. -/
def fnReg (fn off : Nat) : Nat := fn * 2 ^ 25 + off

/-! Function block (Table 18.1) -/
def offFnId : Nat := 0x0000
def offArithRev : Nat := 0x0008
def offFnStatus : Nat := 0x0010
def offFnEventVector : Nat := 0x0018
def offSetupErr : Nat := 0x0020
def offBadAccess : Nat := 0x0028
def offDbIgnored : Nat := 0x0030
def offRingEn : Nat := 0x0100
def offWbBase : Nat := 0x0108
def offSqBase (i : Nat) : Nat := 0x0200 + 0x40 * i
def offSqSize (i : Nat) : Nat := 0x0208 + 0x40 * i
def offCqBase (i : Nat) : Nat := 0x0210 + 0x40 * i
def offCqSize (i : Nat) : Nat := 0x0218 + 0x40 * i
def offCqVector (i : Nat) : Nat := 0x0220 + 0x40 * i
def offCqMod (i : Nat) : Nat := 0x0228 + 0x40 * i
def offEvqBase : Nat := 0x0400
def offEvqSize : Nat := 0x0408
def offEvqVector : Nat := 0x0410
def offEvqDropped : Nat := 0x0418
def offHeadroomFn : Nat := 0x0500
def offNonfiniteFn : Nat := 0x0508
def offVfReset : Nat := 0x0600
def offBootStatus : Nat := 0x0700
def offRcvAddr : Nat := 0x0708
def offRcvLen : Nat := 0x0710
def offRcvGo : Nat := 0x0718
def offRcvResult : Nat := 0x0720
def offSlotSel : Nat := 0x0800
def offSlotData (w : Nat) : Nat := 0x0840 + 8 * w

/-! Package identification and control (Table 18.5) -/
def offFwVersion : Nat := 0x10010
def offFwSvn : Nat := 0x10018
def offClusterRetired (j : Nat) : Nat := 0x10080 + 8 * j
def offMxDrained (j : Nat) : Nat := 0x100A0 + 8 * j
def offPkgReset : Nat := 0x100C0
def offTableSramCe : Nat := 0x100C8

/-! Security, timebase, ledger (Table 18.6) -/
def offTbSet : Nat := 0x20120

/-! Power and thermal (Table 18.7) -/
def offThermStatus : Nat := 0x30000
def offThrottleT : Nat := 0x30008
def offPwrCapW : Nat := 0x30010
def offPkgPowerW : Nat := 0x30018
def offVcoreSet (d : Nat) : Nat := 0x30040 + 8 * d
def offTempDie (d : Nat) : Nat := 0x30080 + 8 * d
def offTempTable : Nat := 0x300A0
def offTempStack (i : Nat) : Nat := 0x30100 + 8 * i
def offTempOpt (p : Nat) : Nat := 0x30200 + 8 * p
def offRailEnergy (j : Nat) : Nat := 0x30300 + 8 * j

/-! Context blocks (Table 18.8) -/
def ctxReg (c off : Nat) : Nat := 0x40000 + 0x1000 * c + off
def offSlotBase (c : Nat) : Nat := ctxReg c 0x008
def offSlotCount (c : Nat) : Nat := ctxReg c 0x010
def offPageQuota (c : Nat) : Nat := ctxReg c 0x018
def offDirFirst (c : Nat) : Nat := ctxReg c 0x020
def offDirCount (c : Nat) : Nat := ctxReg c 0x028
def offDealSlotBase (c : Nat) : Nat := ctxReg c 0x030
def offMemPeerPtr (c : Nat) : Nat := ctxReg c 0x038
def offMemReqLimit (c : Nat) : Nat := ctxReg c 0x040
def offWeightBindPtr (c : Nat) : Nat := ctxReg c 0x048
def offAdpBase (c : Nat) : Nat := ctxReg c 0x050
def offAdpCount (c : Nat) : Nat := ctxReg c 0x058
def offReclaimSeq (c : Nat) : Nat := ctxReg c 0x060
def offPreemptSeq (c : Nat) : Nat := ctxReg c 0x068
def offVatQuota (c e k : Nat) : Nat := ctxReg c (0x080 + 8 * (6 * e + k))
def offVatPromote (c : Nat) : Nat := ctxReg c 0x140
def offVatHeld (c e k : Nat) : Nat := ctxReg c (0x180 + 8 * (6 * e + k))
def offVatHeldMax (c e k : Nat) : Nat := ctxReg c (0x240 + 8 * (6 * e + k))
def offHeadroom (c : Nat) : Nat := ctxReg c 0x400
def offNonfinite (c : Nat) : Nat := ctxReg c 0x408
def offDealCtr (c i : Nat) : Nat := ctxReg c (0x410 + 8 * i)
def offMemSlotWait (c : Nat) : Nat := ctxReg c 0x440
def offMemReplyTimeout (c : Nat) : Nat := ctxReg c 0x448
def offCollCtr (c i : Nat) : Nat := ctxReg c (0x450 + 8 * i)
def offWhlCtr (c i : Nat) : Nat := ctxReg c (0x490 + 8 * i)
def offAcctCtr (c i : Nat) : Nat := ctxReg c (0x500 + 8 * i)
def offVatWaits (c e : Nat) : Nat := ctxReg c (0x580 + 8 * e)
def offVatWaitTime (c e : Nat) : Nat := ctxReg c (0x5A0 + 8 * e)

/-! Vat pools (Table 18.9) -/
def vatReg (k off : Nat) : Nat := 0x80000 + 0x100 * k + off
def offPoolBytes (k : Nat) : Nat := vatReg k 0x00
def offOvfBase (k : Nat) : Nat := vatReg k 0x08
def offOvfCount (k : Nat) : Nat := vatReg k 0x10
def offVatLow (k : Nat) : Nat := vatReg k 0x18
def offVatCrit (k : Nat) : Nat := vatReg k 0x20
def offVatStatus (k : Nat) : Nat := vatReg k 0x28
def offVatFree (k : Nat) : Nat := vatReg k 0x30
def offVatFreeMin (k : Nat) : Nat := vatReg k 0x38
def offVatAllocs (k : Nat) : Nat := vatReg k 0x40
def offVatFrees (k : Nat) : Nat := vatReg k 0x48
def offVatOvfAllocs (k : Nat) : Nat := vatReg k 0x50
def offVatPromoted (k : Nat) : Nat := vatReg k 0x58
def offVatRetired (k : Nat) : Nat := vatReg k 0x60

/-! Presses and ledger (Table 18.10) -/
def offLegacyFrames : Nat := 0x90000
def offLedgerFirst (i : Nat) : Nat := 0x90100 + 8 * i
def offDramCe (i : Nat) : Nat := 0x90200 + 8 * i
def offDramUe (i : Nat) : Nat := 0x90280 + 8 * i
def offRetiredPages (i : Nat) : Nat := 0x90300 + 8 * i
def offFreePages (i : Nat) : Nat := 0x90380 + 8 * i
def offFlatRemap (i : Nat) : Nat := 0x90400 + 8 * i
def offPressUeLog (i : Nat) : Nat := 0x90480 + 8 * i

/-! Fabric (Table 18.11) -/
def offFabPosition : Nat := 0xA0000
def offFabCntClr : Nat := 0xA0008
/-- Package counters: 0 RETX, 1 DUP, 2 REORDER_FULL, 3 DROP_LINK, 4 PHASE_DROP, 5 DEAD_DROP, 6 DISCARD_RX, 7 GW_MISMATCH,
8 DETOURS, 9 NOROUTE_DROP. -/
def offFabPkg (i : Nat) : Nat := 0xA0010 + 8 * i
def offPortCtl (p : Nat) : Nat := 0xA0100 + 8 * p
def offPortStatus (p : Nat) : Nat := 0xA0200 + 8 * p
/-- Per-port counters: 0 CRC_ERR, 1 STOMPED, 2 FEC_CORR, 3 FEC_UNCORR, 4 DOWN, 5 LANES. -/
def offFabPort (p i : Nat) : Nat := 0xA0400 + 0x40 * p + 8 * i
/-- Per-VC counters: 0 PKTS_TX, 1 PKTS_RX, 2 BYTES_TX, 3 BYTES_RX, 4 QDEPTH, 5 QHWM, 6 STALL. -/
def offFabVc (p v i : Nat) : Nat := 0xA1000 + 0x40 * (8 * p + v) + 8 * i
def offFabGw (n : Nat) : Nat := 0xA4000 + 8 * n

/-! Dealer, collectives, weights, memory operations, accounting (Table 18.12) -/
def offDealWatchdog : Nat := 0xB0000
def offCollWatchdog : Nat := 0xB0008
def offWhlWatchdog : Nat := 0xB0010
def offAcctWindowNs : Nat := 0xB0020
def offAcctCtl : Nat := 0xB0028
def offAcctBase : Nat := 0xB0030
def offAcctSize : Nat := 0xB0038
def offAcctCount : Nat := 0xB0040
def offEpochState (i : Nat) : Nat := 0xB0100 + 8 * i
def offEpochShare (i : Nat) : Nat := 0xB0140 + 8 * i
/-- Memory counters: 0 REQ_INUSE, 1 REQ_HWM, 2 COMBINED_RD, 3 COMBINED_AT, 4 REPLY_RESENT, 5 REPLY_STORE_FULL, 6 STALE_REPLY. -/
def offMemCtr (i : Nat) : Nat := 0xB0200 + 8 * i
def offMcastDrop : Nat := 0xB0240

/-! Cluster telemetry (Table 18.13) -/
def telReg (n off : Nat) : Nat := 0x400000 + 0x4000 * n + off
def offHskRate (n : Nat) : Nat := telReg n 0
def offSramCe (n : Nat) : Nat := telReg n 8
def offConflictClr (n : Nat) : Nat := telReg n 0x10
def offRtrStall (n q o : Nat) : Nat := telReg n (0x100 + 8 * (6 * q + o))
def offCsEvt (n b m : Nat) : Nat := telReg n (0x400 + 8 * (10 * b + m))
def offCsWait (n b m : Nat) : Nat := telReg n (0xE00 + 8 * (10 * b + m))
def offSpEvt (n i m : Nat) : Nat := telReg n (0x1800 + 8 * (5 * i + m))
def offSpWait (n i m : Nat) : Nat := telReg n (0x2C00 + 8 * (5 * i + m))

/-- SRAM buffers of the default pools (Table 9.1). -/
def defaultBuffers (k : Nat) : Nat :=
  match k with
  | 0 => 32768 | 1 => 16384 | 2 => 8192 | 3 => 3072 | 4 => 768 | _ => 160

/-- The vat size of a class, in bytes (Table 9.1). -/
def vatSize (k : Nat) : Nat := 256 * 4 ^ k

/-- Reset values of PF0's management window that are not 0 (Tables 18.5 to 18.13). -/
def mgmtReset (off : Nat) : Nat :=
  if 0x100A0 ≤ off ∧ off < 0x100C0 then 0xFFFFFFFFFFFFFFFF
  else if off = offThrottleT then 95
  else if off = offPwrCapW then 1800
  else if 0x30040 ≤ off ∧ off < 0x30060 then 0x0A66
  else if 0x40000 ≤ off ∧ off < 0x80000 then
    (if off % 0x1000 = 0x040 then 65536 else 0)
  else if 0x80000 ≤ off ∧ off < 0x80600 then
    let k := (off - 0x80000) / 0x100
    match off % 0x100 with
    | 0x00 => defaultBuffers k * vatSize k
    | 0x18 => defaultBuffers k / 8
    | 0x20 => defaultBuffers k / 32
    | 0x38 => defaultBuffers k
    | _ => 0
  else if 0x90100 ≤ off ∧ off < 0x90160 then 174763
  else if off = offDealWatchdog ∨ off = offCollWatchdog then 2000
  else if off = offWhlWatchdog then 10000
  else if off = offAcctWindowNs then 1000000000
  else if off = offAcctSize then 64
  else 0

/-- Reset values of a function block that are not 0 (Table 18.1). -/
def fnReset (off : Nat) : Nat :=
  if 0x200 ≤ off ∧ off < 0x400 then
    (match off % 0x40 with
     | 0x08 => 64 | 0x18 => 64 | 0x28 => 1 | _ => 0)
  else if off = offEvqSize then 64
  else 0

/-- What an unlisted register reads as: its reset value (R490). -/
def regReset (a : Nat) : W64 :=
  let off := a % 2 ^ 25
  BitVec.ofNat 64 (if off < 0x8000 then fnReset off else mgmtReset off)

/-- The stored value of a register. -/
def State.reg (s : State) (a : Nat) : W64 := tabGet (regReset a) s.regs a

/-- The stored value as a number. -/
def State.regN (s : State) (a : Nat) : Nat := (s.reg a).toNat

/-- Store a register. -/
def State.setReg (s : State) (a : Nat) (v : W64) : State := { s with regs := tabSet (regReset a) s.regs a v }

def State.setRegN (s : State) (a v : Nat) : State := s.setReg a (BitVec.ofNat 64 v)

/-- The largest value of a 48-bit counter. -/
def ctrMax : Nat := 2 ^ 48 - 1

/-- Add to a 48-bit saturating counter (R149, R274, R305, R434). -/
def State.count (s : State) (a n : Nat) : State := s.setRegN a (min (s.regN a + n) ctrMax)

/-- Set bits of a register. -/
def State.orReg (s : State) (a : Nat) (bits : W64) : State := s.setReg a (s.reg a ||| bits)

/-- Return to their reset values the registers an address test picks. -/
def State.resetRegs (s : State) (p : Nat → Bool) : State := { s with regs := s.regs.filter (fun e => !p e.1) }

/-- Record a refused write (R488): the offset and a count saturating at 0xFFFF, and VALID. -/
def State.refuse (s : State) (fn off : Nat) : State :=
  let a := fnReg fn offSetupErr
  let n := min ((s.regN a / 2 ^ 32) % 2 ^ 16 + 1) 0xFFFF
  s.setRegN a (off % 2 ^ 25 + n * 2 ^ 32 + 2 ^ 63)

/-- Count a BAR access of a wrong shape or to a reserved offset (R383). -/
def State.badAccess (s : State) (fn : Nat) : State := s.count (fnReg fn offBadAccess) 1

end Sys2Proof.Machine
end

