-- ==== Sys2Proof/Machine/Ops.lean ====
section
/-!
DEFINITION. The named operations over memory, cores, clusters and contexts that every meaning is built from.

One canonical list of (physical address, byte) holds every byte a program can reach: DRAM byte o of stack s at s·2^37 + o, byte o of the
cluster store of package cluster n at 2^42 + n·2^22 + o, byte o of the scratchpad of core i at 2^43 + i·2^16 + o. An unlisted
byte reads 0: every store is wiped to zero at package reset (R156). One command acts at a time, so every access is whole (R143) and sees
all that went before it (R146); banks, ports and their arbitration (R142, R145, R148) decide no result.
-/
namespace Sys2Proof.Machine

/-! ### Bytes and numbers -/

/-- The little-endian number of a byte string. -/
def leNat (bs : List Byte) : Nat :=
  match bs with
  | [] => 0
  | b :: r => b.toNat + 256 * leNat r

/-- The n little-endian bytes of a number. -/
def leBytes (n v : Nat) : List Byte := (List.range n).map (fun i => BitVec.ofNat 8 (v / 256 ^ i))

/-- The big-endian number of a byte string. -/
def beNat (bs : List Byte) : Nat := bs.foldl (fun acc b => acc * 256 + b.toNat) 0

/-- The n big-endian bytes of a number. -/
def beBytes (n v : Nat) : List Byte := (leBytes n v).reverse

/-- Field of `len` bytes at `off` of a byte string, as a number; bytes past the end read 0. -/
def fieldN (bs : List Byte) (off len : Nat) : Nat := leNat ((bs.drop off).take len)

/-- Whether every byte of a field is 0. -/
def fieldZero (bs : List Byte) (off len : Nat) : Bool := fieldN bs off len == 0

/-- The bits [hi:lo] of a number. -/
def bitsN (v hi lo : Nat) : Nat := v / 2 ^ lo % 2 ^ (hi + 1 - lo)

/-- Bit i of a number. -/
def bitN (v i : Nat) : Bool := v / 2 ^ i % 2 == 1

/-- Put `len` bytes of a number into a byte string at `off`. -/
def putField (bs : List Byte) (off len v : Nat) : List Byte :=
  bs.take off ++ leBytes len v ++ bs.drop (off + len)

/-- A string of n zero bytes. -/
def zeroBytes (n : Nat) : List Byte := List.replicate n 0

/-- Round up a quotient. -/
def ceilDiv (a b : Nat) : Nat := (a + b - 1) / b

/-! ### Free values (log 1) -/

/-- Draw a byte the spec leaves undefined. -/
def State.freeByte (s : State) : Byte × State := (Config.freeByte s.freeCtr, { s with freeCtr := s.freeCtr + 1 })

/-- Draw a 64-bit word the spec leaves undefined. -/
def State.freeWord (s : State) : W64 × State := (Config.freeWord s.freeCtr, { s with freeCtr := s.freeCtr + 1 })

/-- Draw a choice the spec leaves undefined. -/
def State.freeBool (s : State) : Bool × State := (Config.freeBool s.freeCtr, { s with freeCtr := s.freeCtr + 1 })

/-- Draw n bytes the spec leaves undefined. -/
def State.freeBytes (s : State) (n : Nat) : List Byte × State :=
  ((List.range n).map (Config.freeString s.freeCtr), { s with freeCtr := s.freeCtr + 1 })

/-- Timebase, integer nanoseconds (R452). -/
def State.now (s : State) : Nat := s.time.tb / 2 ^ 24

/-! ### Memory -/

/-- What an unlisted byte of memory reads as (R156) (log 102). -/
def memDefault : Byte := 0

/-- The canonical form of memory. -/
def memWf (m : Tab Byte) : Bool := tabWf memDefault m

/-- The byte at a physical address. -/
def memRead (m : Tab Byte) (a : Nat) : Byte := tabGet memDefault m a

/-- Memory with one byte written. -/
def memWrite (m : Tab Byte) (a : Nat) (b : Byte) : Tab Byte := tabSet memDefault m a b

/-- Memory with a string of bytes written at rising addresses. -/
def memWriteAll (m : Tab Byte) (a : Nat) (bs : List Byte) : Tab Byte :=
  match bs with
  | [] => m
  | b :: r => memWriteAll (memWrite m a b) (a + 1) r

/-- n bytes from a physical address on. -/
def memReadAll (m : Tab Byte) (a n : Nat) : List Byte := (List.range n).map (fun i => memRead m (a + i))

/-- Memory with the bytes of a range wiped to zero. -/
def memWipe (m : Tab Byte) (a n : Nat) : Tab Byte := m.filter (fun e => !(a ≤ e.1 && e.1 < a + n))

def stackBytes : Nat := 96 * 2 ^ 30
def dramPhys (stack o : Nat) : Nat := stack * 2 ^ 37 + o
def storePhys (cluster o : Nat) : Nat := 2 ^ 42 + cluster * 2 ^ 22 + o
def spadPhys (core o : Nat) : Nat := 2 ^ 43 + core * 2 ^ 16 + o

/-- Whether a physical address lies in DRAM. -/
def isDram (a : Nat) : Bool := a < 2 ^ 42
/-- Whether a physical address lies in a cluster store. -/
def isStore (a : Nat) : Bool := 2 ^ 42 ≤ a && a < 2 ^ 43
/-- The package cluster of a cluster-store or scratchpad address. -/
def clusterOfPhys (a : Nat) : Nat := if isStore a then (a - 2 ^ 42) / 2 ^ 22 else (a - 2 ^ 43) / 2 ^ 23

/-- Whether the byte range [b, b + m) lies inside [a, a + n). -/
def rangeIn (b m a n : Nat) : Bool := a ≤ b && b + m ≤ a + n

/-- Whether two byte ranges meet. -/
def rangesMeet (b m a n : Nat) : Bool := b < a + n && a < b + m && 0 < m && 0 < n

/-- n bytes read from a physical address, with no error check. -/
def State.readPhys (s : State) (a n : Nat) : List Byte := memReadAll s.mem a n

/-- A little-endian number read from a physical address. -/
def State.readNat (s : State) (a n : Nat) : Nat := leNat (s.readPhys a n)

/-- Count n more bytes written to a stack (Table 16.10). -/
def State.countStack (s : State) (k n : Nat) : State :=
  { s with life := { s.life with live := { s.life.live with stackBytes := s.life.live.stackBytes.set k (s.life.live.stackBytes.getD k 0 + n) } } }

/-- Bytes written into DRAM count in the lifetime ledger (Table 16.10). -/
def State.countStackWrite (s : State) (a n : Nat) : State :=
  if isDram a then s.countStack (a / 2 ^ 37) n else s

/-- Write bytes at a physical address. A 32-byte DRAM word or a cluster-store row written whole loses its poison and its damage; one written
in part keeps them (R144, R165). -/
def State.writePhys (s : State) (a : Nat) (bs : List Byte) : State :=
  let n := bs.length
  let s := s.countStackWrite a n
  { s with
    mem := memWriteAll s.mem a bs
    dramPoison := s.dramPoison.filter (fun w => !rangeIn (32 * w) 32 a n)
    rowPoison := s.rowPoison.filter (fun w => !rangeIn (64 * w) 64 a n)
    rowUe := (s.rowPoison.filter (fun w => rangeIn (64 * w) 64 a n)).foldl (fun t w => tabInsert t w s.now) s.rowUe
    damage := s.damage.filter (fun e => !rangeIn e.1 (if isDram e.1 then 32 else 8) a n) }

/-- A named field of State for the memory alone, used by frame lemmas. -/
def State.byteAt (s : State) (a : Nat) : Byte := memRead s.mem a

/-! ### Cores, clusters, contexts -/

def State.core (s : State) (n : Nat) : CoreState := tabGet CoreState.reset s.cores n
def State.setCore (s : State) (n : Nat) (c : CoreState) : State := { s with cores := tabSet CoreState.reset s.cores n c }
def State.modCore (s : State) (n : Nat) (f : CoreState → CoreState) : State := s.setCore n (f (s.core n))

def State.cluster (s : State) (n : Nat) : ClusterState := tabGet ClusterState.reset s.clusters n
def State.setCluster (s : State) (n : Nat) (c : ClusterState) : State :=
  { s with clusters := tabSet ClusterState.reset s.clusters n c }

/-- The package cluster of a core. -/
def coreCluster (n : Nat) : Nat := n / 128
/-- The die of a package cluster (R12). -/
def clusterDie (n : Nat) : Nat := n / 50

/-- A context that exists. -/
def State.ctx? (s : State) (c : Nat) : Option CtxState := tabFind s.ten.ctxs c
def State.setCtx (s : State) (c : Nat) (x : CtxState) : State :=
  { s with ten := { s.ten with ctxs := tabInsert s.ten.ctxs c x } }
def State.modCtx (s : State) (c : Nat) (f : CtxState → CtxState) : State :=
  match s.ctx? c with
  | none => s
  | some x => s.setCtx c (f x)
def State.ctxPhase? (s : State) (c : Nat) : Option CtxPhase := (s.ctx? c).map (·.phase)
/-- Whether a context exists and no teardown of it has begun. -/
def State.ctxLive (s : State) (c : Nat) : Bool :=
  match s.ctx? c with
  | none => false
  | some x => x.phase != .ending

/-- Whether incoming packets of a context are taken: it exists, and its teardown has not got past its drain (R420 step 3). -/
def State.ctxTakes (s : State) (c : Nat) : Bool :=
  match s.ctx? c with
  | none => false
  | some x => !x.ending.any (·.drained)

/-- The context that holds a cluster. -/
def State.ownerOf (s : State) (cluster : Nat) : Option Nat := (s.cluster cluster).owner.map (·.1)

/-- The context a core works for. -/
def State.coreCtx (s : State) (core : Nat) : Option Nat := s.ownerOf (coreCluster core)

/-- The logical cluster number of a core's cluster (R31). -/
def State.logicalOf (s : State) (cluster : Nat) : Nat := ((s.cluster cluster).owner.map (·.2)).getD 0

/-- CSR CORE_ID of a core: [6:0] core, [15:8] package cluster, [23:16] logical cluster (Table 4.10). -/
def State.coreId (s : State) (core : Nat) : Nat :=
  core % 128 + coreCluster core * 2 ^ 8 + s.logicalOf (coreCluster core) * 2 ^ 16

/-- Whether a cluster is retired (R28). -/
def State.retired (s : State) (cluster : Nat) : Bool :=
  bitN (s.regN (offClusterRetired (cluster / 64))) (cluster % 64)

/-- Whether firmware runs: it has been started, and no thermal trip has halted the dies (R441, R480). -/
def State.firmware (s : State) : Bool := s.sec.boot == .running && !s.power.tripped

/-- Do something only while the dies run: a thermal trip halts every handshake of every die, the Table's too (R480). -/
def State.unlessTripped (s : State) (f : State → State) : State := if s.power.tripped then s else f s

/-! ### What of the host's side answers -/

/-- Whether a function responds (R380, R406): PF0 always does; VF n while VF Enable covers it and firmware runs. -/
def State.fnExists (s : State) (fn : Nat) : Bool :=
  fn == 0 || (s.host.vfEnable && fn ≤ s.host.numVfs && (s.host.ari || fn ≤ 7) && s.sec.boot == .running)

/-- Whether a function's doorbells are heard: it responds, is not being reset, and firmware runs (R403, R406). -/
def State.hears (s : State) (fn : Nat) : Bool := s.fnExists fn && s.firmware && !s.host.resetting.contains fn

/-- Whether a function's BAR0 answers: it responds, is in D0 and is not being reset. -/
def State.barOpen (s : State) (fn : Nat) : Bool :=
  s.fnExists fn && !s.host.link.d3hot.contains fn && !s.host.resetting.contains fn && !s.power.tripped && s.sec.boot != .held && s.sec.boot != .wiping

/-- Whether only the recovery registers act: before firmware runs (R406, R490) (log 86). -/
def State.recoveryOnly (s : State) : Bool := s.sec.boot != .running

/-- Whether PF0's management window takes a write. -/
def State.pf0Open (s : State) : Bool := s.barOpen 0 && !s.recoveryOnly

/-! ### Scalar registers (R124) -/

/-- A scalar register; s0 reads 0. -/
def CoreState.sreg (c : CoreState) (r : R5) : W64 := if r = 0 then 0 else tabGet 0 c.sregs r.toNat
/-- Write a scalar register; a write to s0 is discarded. -/
def CoreState.setSreg (c : CoreState) (r : R5) (v : W64) : CoreState :=
  if r = 0 then c else { c with sregs := tabSet 0 c.sregs r.toNat v }
def CoreState.pred (c : CoreState) (p : P2) : Bool := c.preds.getLsbD p.toNat
def CoreState.setPred (c : CoreState) (p : P2) (b : Bool) : CoreState :=
  { c with preds := (c.preds &&& ~~~(1#4 <<< p.toNat)) ||| ((if b then 1#4 else 0#4) <<< p.toNat) }
/-- Step past the current instruction. -/
def CoreState.advance (c : CoreState) : CoreState := { c with pc := c.pc + 4 }
def CoreState.vreg (c : CoreState) (r : R5) : BitVec 2048 := tabGet 0 c.vregs r.toNat
def CoreState.setVreg (c : CoreState) (r : R5) (v : BitVec 2048) : CoreState := { c with vregs := tabSet 0 c.vregs r.toNat v }
def CoreState.mreg (c : CoreState) (m : M3) : BitVec 1024 := tabGet 0 c.masks m.toNat
def CoreState.setMreg (c : CoreState) (m : M3) (v : BitVec 1024) : CoreState := { c with masks := tabSet 0 c.masks m.toNat v }

/-! ### Local windows (R125) -/

def spadBase : Nat := 0x8000000000000000
def storeBase : Nat := 0x8000000001000000

/-- The physical address of n bytes at a local address of a core, when they lie wholly in one local window. -/
def localPhys (core a n : Nat) : Option Nat :=
  if spadBase ≤ a ∧ a + n ≤ spadBase + 2 ^ 16 then some (spadPhys core (a - spadBase))
  else if storeBase ≤ a ∧ a + n ≤ storeBase + 2 ^ 22 then some (storePhys (coreCluster core) (a - storeBase))
  else none

/-- Whether a local address lies in the scratchpad window. -/
def inSpad (a : Nat) : Bool := spadBase ≤ a && a < spadBase + 2 ^ 16

/-! ### Errors of SRAM words (R144) -/

/-- What a checked read found. -/
inductive ReadCheck where
  | ok
  | poisoned (a : Nat)
  | coreFailed
deriving DecidableEq, Repr

/-- A day of timebase, in nanoseconds. -/
def dayNs : Nat := 86400 * 10 ^ 9

/-- A core of the cluster has failed: firmware is to retire the cluster, and the context that has work on it now is the one it tears down (R28). -/
def State.markFailed (s : State) (cluster : Nat) : State :=
  let x := s.cluster cluster
  if x.failed then s else s.setCluster cluster { x with failed := true, failCtx := x.owner.map (·.1) }

/-- Meet one damaged SRAM word on a read: a single-bit error is corrected, written back and counted; a wider one fails the core
(scratchpad) or poisons its row (cluster store), and one of a row that was rewritten less than 24 hours of timebase ago, after an earlier one, is treated as a core
failure (R144). `rowUe` holds when such a row was rewritten. -/
def State.meetDamage (s : State) (w : Nat) (d : SramDamage) : State :=
  let s := { s with damage := tabErase s.damage w }
  match d with
  | .single => s.count (offSramCe (clusterOfPhys w)) 1
  | .wide =>
    if isStore w then
      let row := w / 64
      let s1 := { s with rowPoison := setAdd s.rowPoison row, rowUe := tabErase s.rowUe row }
      match tabFind s.rowUe row with
      | some t => if !s.rowPoison.contains row && s.now - t < dayNs then s1.markFailed (clusterOfPhys w) else s1
      | none => s1
    else s.markFailed (clusterOfPhys w)

/-- Check the words of a local (SRAM) range that is about to be read. -/
def State.checkSram (s : State) (a n : Nat) : State × ReadCheck :=
  let hit := s.damage.filter (fun e => !isDram e.1 && rangesMeet e.1 8 a n)
  let s' := hit.foldl (fun t e => t.meetDamage e.1 e.2) s
  if hit.any (fun e => e.2 == .wide && !isStore e.1) then (s', .coreFailed)
  else match s'.rowPoison.find? (fun w => rangesMeet (64 * w) 64 a n) with
    | some w => (s', .poisoned (64 * w))
    | none => (s', .ok)

/-! ### The map of a context (R412, R413) -/

def mapBase (e : BitVec 128) : Nat := e.toNat % 2 ^ 64
def mapFrames (e : BitVec 128) : Nat := bitsN e.toNat 87 64
def mapRd (e : BitVec 128) : Bool := bitN e.toNat 88
def mapWr (e : BitVec 128) : Bool := bitN e.toNat 89
def mapRemRd (e : BitVec 128) : Bool := bitN e.toNat 90
def mapRemWr (e : BitVec 128) : Bool := bitN e.toNat 91
def mapHost (e : BitVec 128) : Bool := bitN e.toNat 92
def mapDispose (e : BitVec 128) : Nat := bitsN e.toNat 94 93

/-- Whether one non-empty entry with the permission holds every byte of a range. -/
def mapAllowsOne (m : Tab (BitVec 128)) (perm : BitVec 128 → Bool) (a n : Nat) : Bool :=
  m.any (fun e => mapFrames e.2 != 0 && perm e.2 && rangeIn a n (mapBase e.2) (mapFrames e.2 * 65536))

/-- Whether every byte of a range lies in a non-empty entry whose permissions allow the access (R413): each 64 KiB frame that
the range meets is looked up, since entries are whole frames. -/
def mapAllows (m : Tab (BitVec 128)) (perm : BitVec 128 → Bool) (a n : Nat) : Bool :=
  if n = 0 then true
  else
    let f0 := a / 65536
    let f1 := (a + n - 1) / 65536
    (List.range (f1 + 1 - f0)).all (fun i => mapAllowsOne m perm ((f0 + i) * 65536) 65536)

end Sys2Proof.Machine
end

