-- ==== Sys2Proof/Machine/Crypto.lean ====
section
/-!
DEFINITION. The published algorithms that the spec names and does not restate: SHA-256 (FIPS 180-4), ECDSA over P-256 (FIPS 186-5; stored as R352 says),
CRC-32C (R342) and AES-256-GCM (FIPS 197, SP 800-38D; R424, R430). They are PRESUMED (log 27): their definitions stand in those publications, not in the spec.
-/
namespace Sys2Proof.Machine

/-! ### SHA-256 -/

def shaK0 : List Nat := [0x428A2F98, 0x71374491, 0xB5C0FBCF, 0xE9B5DBA5, 0x3956C25B, 0x59F111F1, 0x923F82A4, 0xAB1C5ED5, 0xD807AA98, 0x12835B01, 0x243185BE, 0x550C7DC3, 0x72BE5D74, 0x80DEB1FE, 0x9BDC06A7, 0xC19BF174]
def shaK1 : List Nat := [0xE49B69C1, 0xEFBE4786, 0x0FC19DC6, 0x240CA1CC, 0x2DE92C6F, 0x4A7484AA, 0x5CB0A9DC, 0x76F988DA, 0x983E5152, 0xA831C66D, 0xB00327C8, 0xBF597FC7, 0xC6E00BF3, 0xD5A79147, 0x06CA6351, 0x14292967]
def shaK2 : List Nat := [0x27B70A85, 0x2E1B2138, 0x4D2C6DFC, 0x53380D13, 0x650A7354, 0x766A0ABB, 0x81C2C92E, 0x92722C85, 0xA2BFE8A1, 0xA81A664B, 0xC24B8B70, 0xC76C51A3, 0xD192E819, 0xD6990624, 0xF40E3585, 0x106AA070]
def shaK3 : List Nat := [0x19A4C116, 0x1E376C08, 0x2748774C, 0x34B0BCB5, 0x391C0CB3, 0x4ED8AA4A, 0x5B9CCA4F, 0x682E6FF3, 0x748F82EE, 0x78A5636F, 0x84C87814, 0x8CC70208, 0x90BEFFFA, 0xA4506CEB, 0xBEF9A3F7, 0xC67178F2]
def shaK : List Nat := shaK0 ++ shaK1 ++ shaK2 ++ shaK3

/-- The eight words of a hash state. -/
structure Sha where
  a : Nat
  b : Nat
  c : Nat
  d : Nat
  e : Nat
  f : Nat
  g : Nat
  h : Nat
deriving DecidableEq, Repr

def Sha.init : Sha := ⟨0x6A09E667, 0xBB67AE85, 0x3C6EF372, 0xA54FF53A, 0x510E527F, 0x9B05688C, 0x1F83D9AB, 0x5BE0CD19⟩

/-- Addition, rotation and complement of 32-bit words, here numbers below 2^32. -/
def add32 (x y : Nat) : Nat := (x + y) % 0x100000000
def rotr (x n : Nat) : Nat := x >>> n ||| (x <<< (32 - n)) % 0x100000000
def not32 (x : Nat) : Nat := 0xFFFFFFFF - x

/-- One round. -/
def Sha.round (s : Sha) (k w : Nat) : Sha :=
  let t1 := s.h + (rotr s.e 6 ^^^ rotr s.e 11 ^^^ rotr s.e 25) + ((s.e &&& s.f) ^^^ (not32 s.e &&& s.g)) + k + w
  let t2 := (rotr s.a 2 ^^^ rotr s.a 13 ^^^ rotr s.a 22) + ((s.a &&& s.b) ^^^ (s.a &&& s.c) ^^^ (s.b &&& s.c))
  ⟨add32 t1 t2, s.a, s.b, s.c, add32 s.d t1, s.e, s.f, s.g⟩

/-- The rounds of a block; of the schedule words, newest first, the sixteenth is the one this round takes. -/
def Sha.rounds (s : Sha) (ws ks : List Nat) : Sha :=
  match ks with
  | [] => s
  | k :: r =>
    let w0 := ws.getD 15 0
    let w1 := ws.getD 14 0
    let w14 := ws.getD 1 0
    let next := (w0 + (rotr w1 7 ^^^ rotr w1 18 ^^^ w1 >>> 3) + ws.getD 6 0 + (rotr w14 17 ^^^ rotr w14 19 ^^^ w14 >>> 10)) % 0x100000000
    (s.round k w0).rounds (next :: ws) r

/-- Take in one block of 64 bytes. -/
def Sha.block (s : Sha) (bs : List Byte) : Sha :=
  let t := s.rounds ((List.range 16).map (fun i => beNat ((bs.drop (60 - 4 * i)).take 4))) shaK
  ⟨add32 s.a t.a, add32 s.b t.b, add32 s.c t.c, add32 s.d t.d, add32 s.e t.e, add32 s.f t.f, add32 s.g t.g, add32 s.h t.h⟩

/-- Take in n blocks. -/
def Sha.blocks (s : Sha) (bs : List Byte) (n : Nat) : Sha :=
  match n with
  | 0 => s
  | m + 1 => (s.block (bs.take 64)).blocks (bs.drop 64) m

/-- A message padded to whole blocks. -/
def shaPad (bs : List Byte) : List Byte :=
  bs ++ [0x80#8] ++ zeroBytes ((119 - bs.length % 64) % 64) ++ beBytes 8 (8 * bs.length)

/-- SHA-256 of a byte string, as 32 bytes. -/
def sha256 (bs : List Byte) : List Byte :=
  let m := shaPad bs
  let t := Sha.init.blocks m (m.length / 64)
  [t.a, t.b, t.c, t.d, t.e, t.f, t.g, t.h].flatMap (beBytes 4)

/-! ### ECDSA over P-256 -/

def p256 : Nat := 0xFFFFFFFF00000001000000000000000000000000FFFFFFFFFFFFFFFFFFFFFFFF
def n256 : Nat := 0xFFFFFFFF00000000FFFFFFFFFFFFFFFFBCE6FAADA7179E84F3B9CAC2FC632551
def b256 : Nat := 0x5AC635D8AA3A93E7B3EBBD55769886BC651D06B0CC53B0F63BCE3C3E27D2604B
def gx256 : Nat := 0x6B17D1F2E12C4247F8BCE6E563A440F277037D812DEB33A0F4A13945D898C296
def gy256 : Nat := 0x4FE342E2FE1A7F9B8EE7EB4A7C0F9E162BCE33576B315ECECBB6406837BF51F5

/-- x^e modulo m, over the low `bits` bits of e. -/
def powMod (m x e bits : Nat) : Nat :=
  match bits with
  | 0 => 1 % m
  | k + 1 =>
    let h := powMod m (x * x % m) (e / 2) k
    if e % 2 = 1 then h * x % m else h

/-- The inverse modulo a 256-bit prime. -/
def invMod (m x : Nat) : Nat := powMod m (x % m) (m - 2) 256

/-- A point in Jacobian coordinates; z = 0 is the point at infinity. -/
structure EcPoint where
  x : Nat
  y : Nat
  z : Nat
deriving DecidableEq, Repr

def EcPoint.inf : EcPoint := ⟨1, 1, 0⟩

def subP (a b : Nat) : Nat := (a + p256 - b % p256) % p256
def mulP (a b : Nat) : Nat := a * b % p256

def EcPoint.double (p : EcPoint) : EcPoint :=
  if p.z = 0 ∨ p.y = 0 then .inf
  else
    let y2 := mulP p.y p.y
    let s := mulP 4 (mulP p.x y2)
    let z2 := mulP p.z p.z
    let m := mulP 3 (mulP (subP p.x z2) (p.x + z2))
    let x := subP (mulP m m) (2 * s)
    ⟨x, subP (mulP m (subP s x)) (mulP 8 (mulP y2 y2)), mulP 2 (mulP p.y p.z)⟩

def EcPoint.add (p q : EcPoint) : EcPoint :=
  if p.z = 0 then q
  else if q.z = 0 then p
  else
    let pz := mulP p.z p.z
    let qz := mulP q.z q.z
    let u1 := mulP p.x qz
    let u2 := mulP q.x pz
    let s1 := mulP p.y (mulP qz q.z)
    let s2 := mulP q.y (mulP pz p.z)
    if u1 = u2 then (if s1 = s2 then p.double else .inf)
    else
      let h := subP u2 u1
      let r := subP s2 s1
      let h2 := mulP h h
      let h3 := mulP h2 h
      let v := mulP u1 h2
      let x := subP (subP (mulP r r) h3) (2 * v)
      ⟨x, subP (mulP r (subP v x)) (mulP s1 h3), mulP h (mulP p.z q.z)⟩

/-- k · p over the low `bits` bits of k. -/
def EcPoint.mul (p : EcPoint) (k bits : Nat) : EcPoint :=
  match bits with
  | 0 => .inf
  | b + 1 =>
    let h := p.double.mul (k / 2) b
    if k % 2 = 1 then h.add p else h

/-- A public key of 64 bytes, x then y, each big-endian: a point of the curve, or none. -/
def ecKey (key : List Byte) : Option EcPoint :=
  let x := beNat (key.take 32)
  let y := beNat ((key.drop 32).take 32)
  if key.length = 64 ∧ x < p256 ∧ y < p256 ∧ mulP y y = (mulP (mulP x x) x + mulP (p256 - 3) x + b256) % p256 then some ⟨x, y, 1⟩ else none

/-- Whether a 64-byte signature, r then s, verifies over a message with a public key. -/
def ecdsaVerify (key msg sig : List Byte) : Bool :=
  let r := beNat (sig.take 32)
  let s := beNat ((sig.drop 32).take 32)
  match ecKey key with
  | none => false
  | some q =>
    if sig.length ≠ 64 ∨ r = 0 ∨ n256 ≤ r ∨ s = 0 ∨ n256 ≤ s then false
    else
      let w := invMod n256 s
      let e := beNat (sha256 msg)
      let t := ((⟨gx256, gy256, 1⟩ : EcPoint).mul (e * w % n256) 256).add (q.mul (r * w % n256) 256)
      if t.z = 0 then false
      else
        let zi := invMod p256 t.z
        mulP t.x (mulP zi zi) % n256 == r

/-! ### CRC-32C -/

/-- One byte of a reflected CRC with polynomial 0x82F63B78. -/
def crcByte (c : W32) (b : Byte) : W32 :=
  (List.range 8).foldl (fun c _ => (c >>> 1) ^^^ (if c.getLsbD 0 then 0x82F63B78#32 else 0)) (c ^^^ b.zeroExtend 32)

/-- CRC-32C of a byte string. -/
def crc32c (bs : List Byte) : W32 := ~~~(bs.foldl crcByte 0xFFFFFFFF#32)

/-! ### AES-256-GCM -/

/-- Multiplication by x in the field of AES. -/
def xtime (a : Byte) : Byte := (a <<< 1) ^^^ (if a.getLsbD 7 then 0x1B#8 else 0)

/-- Multiplication in the field of AES, over the low `n` bits of the second factor. -/
def gf8 (a b : Byte) (n : Nat) : Byte :=
  match n with
  | 0 => 0
  | k + 1 => (if b.getLsbD 0 then a else 0) ^^^ gf8 (xtime a) (b >>> 1) k

def gf8sq (a : Byte) : Byte := gf8 a a 8

/-- The inverse in the field, a^254; 0 for 0. -/
def gf8inv (a : Byte) : Byte :=
  let a2 := gf8sq a
  let a3 := gf8 a2 a 8
  let a6 := gf8sq a3
  let a12 := gf8sq a6
  let a15 := gf8 a12 a3 8
  let a240 := gf8sq (gf8sq (gf8sq (gf8sq a15)))
  gf8 (gf8 a240 a12 8) a2 8

/-- SubBytes of one byte. -/
def aesSub (a : Byte) : Byte :=
  let b := gf8inv a
  b ^^^ b.rotateLeft 1 ^^^ b.rotateLeft 2 ^^^ b.rotateLeft 3 ^^^ b.rotateLeft 4 ^^^ 0x63#8

def xorBytes (a b : List Byte) : List Byte := (a.zip b).map (fun x => x.1 ^^^ x.2)

/-- The key schedule: words of four bytes, sixty in all for a key of 32 bytes. -/
def aesExpand (ws : List (List Byte)) (i n : Nat) (rcon : Byte) : List (List Byte) :=
  match n with
  | 0 => ws
  | k + 1 =>
    let last := ws.getD (i - 1) []
    let t := if i % 8 = 0 then xorBytes (((last.drop 1) ++ last.take 1).map aesSub) [rcon, 0, 0, 0]
      else if i % 8 = 4 then last.map aesSub else last
    aesExpand (ws ++ [xorBytes (ws.getD (i - 8) []) t]) (i + 1) k (if i % 8 = 0 then xtime rcon else rcon)

def aesKeys (key : List Byte) : List (List Byte) :=
  let ws := aesExpand ((List.range 8).map (fun i => (key.drop (4 * i)).take 4)) 8 52 1
  (List.range 15).map (fun r => ((ws.drop (4 * r)).take 4).flatten)

def shiftRows (s : List Byte) : List Byte := (List.range 16).map (fun i => s.getD ((i + 4 * (i % 4)) % 16) 0)

def mixColumn (c : List Byte) : List Byte :=
  (List.range 4).map (fun i =>
    let g (j : Nat) := c.getD ((i + j) % 4) 0
    xtime (g 0) ^^^ (xtime (g 1) ^^^ g 1) ^^^ g 2 ^^^ g 3)

/-- Encrypt one block of 16 bytes. -/
def aesBlock (keys : List (List Byte)) (b : List Byte) : List Byte :=
  let s := xorBytes b (keys.getD 0 [])
  let s := (List.range 13).foldl (fun s r =>
    let t := shiftRows (s.map aesSub)
    xorBytes ((List.range 4).flatMap (fun c => mixColumn ((t.drop (4 * c)).take 4))) (keys.getD (r + 1) [])) s
  xorBytes (shiftRows (s.map aesSub)) (keys.getD 14 [])

/-- Multiplication of GHASH, over the top `n` bits of x. -/
def ghashMul (x v z : BitVec 128) (n : Nat) : BitVec 128 :=
  match n with
  | 0 => z
  | k + 1 =>
    ghashMul (x <<< 1) ((v >>> 1) ^^^ (if v.getLsbD 0 then 0xE1#128 <<< 120 else 0)) (if x.getLsbD 127 then z ^^^ v else z) k

/-- The blocks of 16 bytes of a string, the last padded with zeros. -/
def blocks16 (bs : List Byte) : List (List Byte) :=
  (List.range (ceilDiv bs.length 16)).map (fun i =>
    let b := (bs.drop (16 * i)).take 16
    b ++ zeroBytes (16 - b.length))

/-- The 16-byte AES-256-GCM tag of a ciphertext, with a 12-byte nonce and no additional authenticated data. -/
def gcmTag (key nonce cipher : List Byte) : List Byte :=
  let ks := aesKeys key
  let h := BitVec.ofNat 128 (beNat (aesBlock ks (zeroBytes 16)))
  let mix (y : BitVec 128) (b : List Byte) : BitVec 128 := ghashMul (y ^^^ BitVec.ofNat 128 (beNat b)) h 0 128
  let y := (blocks16 cipher).foldl mix 0
  let y := mix y (beBytes 8 0 ++ beBytes 8 (8 * cipher.length))
  xorBytes (beBytes 16 y.toNat) (aesBlock ks (nonce ++ beBytes 4 1))

/-- AES-256-GCM encryption with a 12-byte nonce and no additional authenticated data: the ciphertext and the 16-byte tag. -/
def gcmEncrypt (key nonce plain : List Byte) : List Byte × List Byte :=
  let ks := aesKeys key
  let cipher := ((blocks16 plain).zipIdx.flatMap (fun x => xorBytes x.1 (aesBlock ks (nonce ++ beBytes 4 (x.2 + 2))))).take plain.length
  (cipher, gcmTag key nonce cipher)

end Sys2Proof.Machine
end

