-- ==== Sys2Proof/Machine/Flags.lean ====
section
/-!
DEFINITION. Every flag the core reports: VSTAT (R114, Table 4.10), the summary word (Table 4.3) and the accumulator status word
(Table 3.12).
-/
namespace Sys2Proof.Machine

/-- Events of vector arithmetic, as VSTAT bits: 1 SAT, 2 NAN, 4 INF. -/
def vstatSat : Nat := 1
def vstatNan : Nat := 2
def vstatInf : Nat := 4

/-- VSTAT is sticky: events are ORed in (R114). -/
def CoreState.addVstat (c : CoreState) (ev : Nat) : CoreState := { c with vstat := c.vstat ||| BitVec.ofNat 3 ev }

/-- The NAN and INF events of a floating-point result: a NaN from operands none of which is NaN, an infinity from finite
operands (R114). -/
def fpEvents (ops : List FNum) (res : FNum) : Nat :=
  (if res.isNan && !ops.any FNum.isNan then vstatNan else 0) ||| (if res.isInf && ops.all FNum.isFin then vstatInf else 0)

/-- Flags of a reduction or another summary producer (Table 4.3). -/
structure SumFlags where
  empty : Bool
  nan   : Bool
  sat   : Bool
  inf   : Bool
deriving DecidableEq, Repr

/-- A summary word (Table 4.3); COUNT saturates at 0xFFFF. -/
def summaryWord (value : Nat) (f : SumFlags) (ty op count : Nat) : W64 :=
  BitVec.ofNat 64 (value % 2 ^ 32 + f.empty.toNat * 2 ^ 32 + f.nan.toNat * 2 ^ 33 + f.sat.toNat * 2 ^ 34 + f.inf.toNat * 2 ^ 35
    + ty % 16 * 2 ^ 40 + op % 16 * 2 ^ 44 + min count 0xFFFF * 2 ^ 48)

/-- Accumulator status bits (Table 3.12). -/
def accOvf : Nat := 1
def accInf : Nat := 2
def accNan : Nat := 4
def accHdr : Nat := 8

/-- The sticky status word of an accumulator with flags ORed in (R48). -/
def CoreState.addAcc (c : CoreState) (a flags : Nat) : CoreState :=
  { c with accStatus := tabSet 0 c.accStatus a (tabGet 0 c.accStatus a ||| BitVec.ofNat 32 flags) }

end Sys2Proof.Machine
end

