-- ==== Sys2Proof/Machine/Net.lean ====
section
/-!
DEFINITION. The networks inside the package (spec/01_architecture.md, R12 to R21) and the banks of scratchpads and cluster stores (spec/05_core_memory.md, R142, R145 to R149, R151): where a
router stands and what its edges attach to, the fixed path of a packet, the buffers of each class and their arbitration, and the arbitration of bank ports with its counters.

The environment says when a handshake falls; who is served, which buffer is full, who waits and what is counted is worked out here. No result depends on it (R22) (log 112).
-/
namespace Sys2Proof.Machine

/-! ### The mesh (R12, R13) -/

/-- Mesh row and column of a package cluster in its die. -/
def meshRow (n : Nat) : Nat := n % 50 / 10
def meshCol (n : Nat) : Nat := n % 10
/-- The package cluster at a place of a die. -/
def clusterAt (die row col : Nat) : Nat := 50 * die + 10 * row + col

/-- What an edge of the mesh attaches to (Table 1.2). -/
inductive Edge where
  | tableBridge
  | ringBridge (die : Nat)
  | stack (k : Nat)
deriving DecidableEq, Repr

/-- The columns of a stack's group on the south edge: the lowest, and how many. -/
def stackCols (i : Nat) : Nat × Nat := match i with | 0 => (0, 3) | 1 => (3, 4) | _ => (7, 3)

/-- The attachments of a router; a corner router has two. -/
def edgesOf (n : Nat) : List Edge :=
  let d := clusterDie n
  let c := meshCol n
  (if meshRow n = 0 then [.tableBridge] else []) ++ (if c = 0 then [.ringBridge ((d + 3) % 4)] else []) ++ (if c = 9 then [.ringBridge ((d + 1) % 4)] else []) ++
  (if meshRow n = 4 then [.stack (3 * d + (if c < 3 then 0 else if c < 7 then 1 else 2))] else [])

/-- The south-edge router that carries a channel of a stack (R14). -/
def stackRouter (k channel : Nat) : Nat :=
  let g := stackCols (k % 3)
  clusterAt (k / 3) 4 (g.1 + channel % g.2)

/-- The channel of a byte of a stack (R162): each 2 KiB stripe of a frame is one channel's, in the legacy frames too (log 8). -/
def stackChannel (o : Nat) : Nat := (o % 65536 / 2048 + o / 65536) % 32

/-! ### Paths (R17) -/

/-- The outputs and inputs of a router as Table 18.13 numbers them. -/
def outNorth : Nat := 0
def outEast : Nat := 1
def outSouth : Nat := 2
def outWest : Nat := 3
def outCluster : Nat := 4
def outEdge : Nat := 5

/-- Die and router at which a packet's path ends within the dies; none for the Table. -/
def endRouter : NetEnd → Option Nat
  | .cluster n => some n
  | .stack k ch => some (stackRouter k ch)
  | .table => none

/-- The output a packet takes at a router: along the row to the destination's column, then along the column. Another die is reached through the ring bridge of a neighbour and through the Table
otherwise, and the Table through the north router of the packet's column. -/
def netOut (n : Nat) (dst : NetEnd) : Nat :=
  let north := if meshRow n = 0 then outEdge else outNorth
  match endRouter dst with
  | none => north
  | some m =>
    if clusterDie m = clusterDie n then
      if meshCol n < meshCol m then outEast
      else if meshCol m < meshCol n then outWest
      else if meshRow n < meshRow m then outSouth
      else if meshRow m < meshRow n then outNorth
      else match dst with | .cluster _ => outCluster | _ => outEdge
    else if clusterDie m = (clusterDie n + 1) % 4 then (if meshCol n = 9 then outEdge else outEast)
    else if clusterDie m = (clusterDie n + 3) % 4 then (if meshCol n = 0 then outEdge else outWest)
    else north

/-! ### Buffers of the levels (R16) -/

def netKey (b : NetBuf) : Nat :=
  match b with
  | .input n i => 6 * n + i
  | .port n g => 1200 + 9 * n + g
  | .inward n => 3000 + n
  | .stack n => 3200 + n
  | .ring n => 3400 + n
  | .up n => 3600 + n
  | .down n => 3800 + n

/-- The buffer behind the edge of a router that a packet leaves its die by: its stack, a neighbour's ring bridge, or the Table bridge. -/
def edgeBuf (n : Nat) (dst : NetEnd) : NetBuf :=
  match endRouter dst with
  | none => .up n
  | some m =>
    if clusterDie m = clusterDie n then .stack n
    else if clusterDie m = (clusterDie n + 1) % 4 ∨ clusterDie m = (clusterDie n + 3) % 4 then .ring n
    else .up n

/-- The north router of the column of a packet's destination, by which it leaves the Table (R17). -/
def northOf (m : Nat) : Nat := clusterAt (clusterDie m) 0 (meshCol m)

/-- The buffer after one on a packet's path, or none where the path ends: in the cluster's own network, in the stack, or in the Table. A ring bridge enters at the row it left (log 112). -/
def netHop (b : NetBuf) (dst : NetEnd) : Option NetBuf :=
  match b with
  | .port n _ => if dst = .cluster n then none else some (.input n outCluster)
  | .input n _ =>
    let o := netOut n dst
    if o = outNorth then some (.input (n - 10) outSouth)
    else if o = outSouth then some (.input (n + 10) outNorth)
    else if o = outEast then some (.input (n + 1) outWest)
    else if o = outWest then some (.input (n - 1) outEast)
    else if o = outCluster then some (.inward n)
    else some (edgeBuf n dst)
  | .ring n =>
    let d := clusterDie n
    some (.input (if meshCol n = 9 then clusterAt ((d + 1) % 4) (meshRow n) 0 else clusterAt ((d + 3) % 4) (meshRow n) 9) outEdge)
  | .up _ => (endRouter dst).map (fun m => .down (northOf m))
  | .down n => some (.input n outEdge)
  | .inward _ | .stack _ => none

/-- The first buffer of a packet: its port in its cluster's network, its stack's south-edge router, or the Table bridge. One from the Table to the Table takes no network. -/
def netEntry (p : NetPkt) : Option NetBuf :=
  match p.src with
  | .cluster n => some (.port n p.port)
  | .stack k ch => some (.input (stackRouter k ch) outEdge)
  | .table => (endRouter p.dst).map (fun m => .down (northOf m))

/-- The buffers of a packet's path; `fuel` bounds its length. -/
def netPath (fuel : Nat) (b : NetBuf) (dst : NetEnd) : List NetBuf :=
  match fuel with
  | 0 => []
  | k + 1 =>
    b :: (match netHop b dst with
      | some b' => netPath k b' dst
      | none => [])

/-! ### Moving packets (R16 to R20) -/

def NetState.queue (x : NetState) (b : NetBuf) (q : Nat) : List NetPkt := tabGet [] x.queues (4 * netKey b + q)
def NetState.setQueue (x : NetState) (b : NetBuf) (q : Nat) (l : List NetPkt) : NetState := { x with queues := tabSet [] x.queues (4 * netKey b + q) l }

/-- Whether a buffer of a class is full; how many packets it holds is free (log 112). -/
def NetState.full (x : NetState) (b : NetBuf) (q : Nat) : Bool :=
  match x.queue b q with
  | [] => false
  | l => decide (Config.netDepth (4 * netKey b + q) < l.length)

/-- A sender has a packet for the networks, and holds it until its first buffer has room (R19). -/
def State.netEnter (s : State) (p : NetPkt) : State :=
  if (netEntry p).isSome && decide (p.cls < 4) then { s with net := { s.net with senders := s.net.senders ++ [p] } } else s

/-- Whether the link between a cluster's network and its router is closed to a class (R28, R29). -/
def State.linkShut (s : State) (n q : Nat) : Bool := s.retired n || ((s.cluster n).portClosed && q != 3)

/-- Whether the way from one buffer to the next is such a closed link. -/
def State.shutBetween (s : State) (b b' : NetBuf) (q : Nat) : Bool :=
  match b, b' with
  | .port n _, .input .. => s.linkShut n q
  | .input .., .inward n => s.linkShut n q && !s.retired n
  | _, _ => false

/-- Whether a packet at the head of a buffer may move on: the next buffer has room, and no closed cluster port lies between. Nothing moves in the network of a retired cluster. -/
def State.netGoes (s : State) (b : NetBuf) (q : Nat) (p : NetPkt) : Bool :=
  (match b with | .port n _ | .inward n => !s.retired n | _ => true) &&
  match netHop b p.dst with
  | none => true
  | some b' => !s.net.full b' q && !s.shutBetween b b' q

/-- A packet has come to its end: the next passage of its request begins there. -/
def State.netLeave (s : State) (p : NetPkt) : State :=
  match p.legs with
  | [] => s
  | l :: r => s.netEnter { p with cls := l.cls, src := l.src, dst := l.dst, legs := r }

/-- The head of a buffer moves on, or leaves the networks. What is bound for a retired cluster is discarded at its router, since nothing behind its port takes it (R29, log 112). -/
def State.netPass (s : State) (b : NetBuf) (q : Nat) (p : NetPkt) : State :=
  let s := { s with net := s.net.setQueue b q ((s.net.queue b q).drop 1) }
  match netHop b p.dst with
  | none => s.netLeave p
  | some (.inward n) => if s.retired n then s else { s with net := s.net.setQueue (.inward n) q (s.net.queue (.inward n) q ++ [p]) }
  | some b' => { s with net := s.net.setQueue b' q (s.net.queue b' q ++ [p]) }

def queueKey (n i q : Nat) : Nat := 24 * n + 4 * i + q

/-- The input, first at or after `start` in ascending order with wrap, whose head of a class wants an output and may go. -/
def State.netPick (s : State) (n out q start : Nat) : Option (Nat × NetPkt) :=
  ((List.range 6).map (fun i => (start + i) % 6)).findSome? (fun i =>
    match s.net.queue (.input n i) q with
    | p :: _ => if netOut n p.dst = out ∧ s.netGoes (.input n i) q p then some (i, p) else none
    | [] => none)

/-- One arbitration of an output: management first, the other classes in equal turns, each class's inputs round-robin (R18). A head whose next buffer is full is held and holds no other class
(R20). -/
def State.arbitrate (s : State) (n out : Nat) : State :=
  let head (q : Nat) : Option (Nat × NetPkt) := s.netPick n out q (tabGet 0 s.net.turns (queueKey n out q))
  let first := tabGet 0 s.net.classes (6 * n + out)
  let order := if (head 3).isSome then [3] else (List.range 3).map (fun i => (first + i) % 3)
  match order.findSome? (fun q => (head q).map (fun h => (q, h))) with
  | none => s
  | some (q, i, p) =>
    let s := s.netPass (.input n i) q p
    { s with net := { s.net with
      turns := tabSet 0 s.net.turns (queueKey n out q) ((i + 1) % 6)
      classes := if q = 3 then s.net.classes else tabSet 0 s.net.classes (6 * n + out) ((q + 1) % 3) } }

/-- A handshake of the networks. -/
def State.netTurn (s : State) (t : NetTurn) : State :=
  match t with
  | .router n out => s.arbitrate n out
  | .hop b q =>
    match s.net.queue b q with
    | p :: _ => if s.netGoes b q p then s.netPass b q p else s
    | [] => s
  | .enter b q =>
    match s.net.senders.find? (fun p => netEntry p == some b && p.cls == q) with
    | some p =>
      if s.net.full b q then s
      else { s with net := { s.net.setQueue b q (s.net.queue b q ++ [p]) with senders := s.net.senders.erase p } }
    | none => s

/-- Whether the networks still carry a packet of request i of a core. -/
def NetState.carries (x : NetState) (core i : Nat) : Bool :=
  x.senders.any (fun p => p.job == some (core, i)) || x.queues.any (fun e => e.2.any (fun p => p.job == some (core, i)))

/-- The packets of a context leave every buffer with it (R16). -/
def NetState.dropCtx (x : NetState) (c : Nat) : NetState :=
  { x with senders := x.senders.filter (fun p => p.ctx != some c)
           queues := (x.queues.map (fun e => (e.1, e.2.filter (fun p => p.ctx != some c)))).filter (fun e => !e.2.isEmpty) }

/-- The heads that wait for a full buffer: router, class and output, each once (R21). -/
def NetState.blocked (x : NetState) : List (Nat × Nat × Nat) :=
  (x.queues.filterMap (fun e =>
    if e.1 < 4800 then
      let n := e.1 / 24
      let i := e.1 % 24 / 4
      let q := e.1 % 4
      match e.2 with
      | p :: _ => (match netHop (.input n i) p.dst with | some b => if x.full b q then some (n, q, netOut n p.dst) else none | none => none)
      | [] => none
    else none)).eraseDups

/-- The routers' part of a timebase step: RTR_STALL of every class and output with a head that waits for a full buffer (R21). -/
def State.countRouters (s : State) : State := s.net.blocked.foldl (fun s e => s.count (offRtrStall e.1 e.2.1 e.2.2) 1) s

/-! ### Banks (R142) -/

/-- Bank and row of an offset into a scratchpad, a cluster store or the Table SRAM (Table 5.1). -/
def spadBank (o : Nat) : Nat × Nat := (bitsN o 9 6, bitsN o 15 10)
def storeBank (o : Nat) : Nat × Nat := (bitsN o 10 6, bitsN o 21 11)
def tableBank (o : Nat) : Nat × Nat := (bitsN o 13 6, bitsN o 27 14)

/-- Where the Table SRAM's bytes stand among physical addresses; the rind is its last four banks (R153, log 125). -/
def tablePhys (o : Nat) : Nat := 2 ^ 44 + o

/-- Masters of a unit (Table 5.2); the Table's blocks at a bank of the Table SRAM, which no table of the spec numbers (log 125). -/
def mastersOf (unit : Nat) : Nat := if unit < 32 then 10 else if unit < 160 then 5 else 16

def bankKeyOf (cluster unit bank : Nat) : Nat := if cluster = 200 then 16 * 160 * 200 + bank else 16 * (160 * cluster + unit) + bank
def bankKey (t : BankTurn) : Nat := bankKeyOf t.cluster t.unit t.bank

/-- The cluster, unit, bank and row of a physical address of SRAM. -/
def sramBank (a : Nat) : Nat × Nat × Nat × Nat :=
  if a < 2 ^ 43 then
    let b := storeBank ((a - 2 ^ 42) % 2 ^ 22)
    ((a - 2 ^ 42) / 2 ^ 22, b.1, 0, b.2)
  else if a < 2 ^ 44 then
    let b := spadBank ((a - 2 ^ 43) % 2 ^ 16)
    ((a - 2 ^ 43) / 2 ^ 23, 32 + (a - 2 ^ 43) / 2 ^ 16 % 128, b.1, b.2)
  else
    let b := tableBank (a - 2 ^ 44)
    (200, 0, b.1, b.2)

/-- The master that a user is at a unit of a cluster (Table 5.2). -/
def masterOf (u : SramUser) (cluster unit : Nat) : Nat :=
  match u with
  | .engine core e =>
    if unit < 32 then (if core / 128 = cluster then core % 128 / 16 else 9)
    else if core = 128 * cluster + (unit - 32) then e else 4
  | .clusterDma n => if unit < 32 then (if n = cluster then 8 else 9) else 4
  | .dieNet => if unit < 32 then 9 else 4
  | .block b => b

/-- The 64-byte rows that a range meets, by their first address. -/
def rowsOf (a n : Nat) : List Nat := if n = 0 then [] else (List.range ((a + n - 1) / 64 + 1 - a / 64)).map (fun i => (a / 64 + i) * 64)

/-- An access to one row is presented at the port of its bank (R142, R145). What it gives is the command's own (R148). -/
def NetState.presentRow (x : NetState) (u : SramUser) (write atomic : Bool) (r : Nat) : NetState :=
  let (cl, unit, bank, row) := sramBank r
  let k := bankKeyOf cl unit bank
  let b := tabGet BankState.reset x.banks k
  { x with banks := tabSet .reset x.banks k { b with asked := b.asked ++ [⟨masterOf u cl unit, row, write, atomic⟩] } }

/-- An access to ranges (physical address, length) is presented a row at a time (R143), at those that lie in SRAM. -/
def State.present (s : State) (u : SramUser) (l : List (Nat × Nat)) (write atomic : Bool) : State :=
  { s with net := ((l.filter (fun p => !isDram p.1)).flatMap (fun p => rowsOf p.1 p.2)).eraseDups.foldl (fun x r => x.presentRow u write atomic r) s.net }

/-- A block reads or writes a range of the Table SRAM: the words it reads are checked, one bit wrong is corrected and counted, and a word written is sound again (R144). A word beyond correction
stays so, and no rule says what its reader gets (log 125). -/
def State.tableAccess (s : State) (b o n : Nat) (write : Bool) : State :=
  let s := s.present (.block b) [(tablePhys o, n)] write false
  if write then { s with damage := s.damage.filter (fun e => !(2 ^ 44 ≤ e.1 && rangeIn e.1 8 (tablePhys o) n)) }
  else
    let soft := s.damage.filter (fun e => 2 ^ 44 ≤ e.1 && e.2 == .single && rangesMeet e.1 8 (tablePhys o) n)
    ({ s with damage := s.damage.filter (fun e => !soft.contains e) }).count offTableSramCe soft.length

/-! ### The rind's place in the Table SRAM (R153) -/

/-- The parts of the rind on the A1 stepping and their sizes (Table 5.3): identity, measurements, management, tenant keys, working. -/
def rindParts : List Nat := [64 * 2 ^ 10, 64 * 2 ^ 10, 2 ^ 20, 2 * 2 ^ 20, 896 * 2 ^ 10]

/-- The block that the security block is among those of the Table SRAM (log 125). -/
def securityBlock : Nat := 15

/-- Where a byte of the rind stands in the Table SRAM: rows in turn in its four banks, banks 252 to 255 (log 125). -/
def rindOffset (r : Nat) : Nat := r / 256 * 2 ^ 14 + (252 + r / 64 % 4) * 64 + r % 64

/-- Whether a range of the Table SRAM meets the rind's banks. -/
def meetsRind (o n : Nat) : Bool := (rowsOf o n).any (fun r => decide (252 ≤ (tableBank r).1))

/-- The security block reads or writes n bytes of a part of the rind. -/
def State.rindAccess (s : State) (part off n : Nat) (write : Bool) : State :=
  let a := (rindParts.take part).sum + off
  (rowsOf a n).foldl (fun s r =>
    let lo := max r a
    s.tableAccess securityBlock (rindOffset lo) (min (r + 64) (a + n) - lo) write) s

/-- Signing or verifying a message works in the rind's last part (Table 5.3), unless the rind is wiped or being wiped. -/
def State.rindScratch (s : State) (msg : List Byte) : State :=
  if s.sec.rindWiped || s.sec.rindBusy then s
  else
    let s := s.rindAccess 4 0 64 true
    { s with sec := { s.sec with rind := { s.sec.rind with working := Config.rindScratch msg } } }

/-- Within the parts (log 125): a management key, the nonce window of its slot, and a tenant key k of context c. -/
def rindMgmtKey (slot : Nat) : Nat := 64 * slot
def rindNonces (slot : Nat) : Nat := 4096 + 256 * slot
def rindCtxKey (c k : Nat) : Nat := 64 * (8 * c + k)

/-- The security block reads key k of a context. -/
def State.readCtxKey (s : State) (c k : Nat) : State := s.rindAccess 3 (rindCtxKey c k) 64 false

/-- An access that the environment presents. No block but the security block, whose accesses are its operations', reaches the rind (R153). -/
def State.envAccess (s : State) (x : SramAcc) : State :=
  match x.user with
  | .block b => if b = securityBlock ∨ meetsRind (x.addr - 2 ^ 44) x.len then s else s.tableAccess b (x.addr - 2 ^ 44) x.len x.write
  | u => if s.retired (sramBank x.addr).1 then s else s.present u [(x.addr, x.len)] x.write x.atomic

/-! ### Arbitration of bank ports (R145, R147) -/

/-- The winner at a port: the first requesting master at or after the pointer, in ascending order with wrap. -/
def portWinner (l : List BankAcc) (ptr n : Nat) : Option BankAcc :=
  ((List.range n).map (fun i => (ptr + i) % n)).findSome? (fun m => l.find? (fun a => a.master == m))

/-- Whether an access is one of the list's, by its master and port: a master has at most one access at a port. -/
def accAmong (a : BankAcc) (l : List BankAcc) : Bool := l.any (fun b => b.master == a.master && b.write == a.write)

/-- Counter of a master at a bank or scratchpad of a cluster: EVT, or WAIT (Tables 5.2, 18.13). -/
def conflictReg (n unit m : Nat) (wait : Bool) : Option Nat :=
  if unit < 32 ∧ m < 10 then some (if wait then offCsWait n unit m else offCsEvt n unit m)
  else if 32 ≤ unit ∧ unit < 160 ∧ m < 5 then some (if wait then offSpWait n (unit - 32) m else offSpEvt n (unit - 32) m)
  else none

/-- Count a conflict. Nothing of a retired cluster counts (Table 18.13). -/
def State.countConflict (s : State) (n unit m : Nat) (wait : Bool) : State :=
  if 200 ≤ n || s.retired n then s
  else match conflictReg n unit m wait with
    | some a => s.count a 1
    | none => s

/-- The first access of each master at each port, but for those that have one among `busy`, and the accesses behind them. -/
def firstAsked (busy : List BankAcc) (l : List BankAcc) : List BankAcc × List BankAcc :=
  match l with
  | [] => ([], [])
  | a :: r =>
    if accAmong a busy then let t := firstAsked busy r; (t.1, a :: t.2)
    else let t := firstAsked (a :: busy) r; (a :: t.1, t.2)

/-- One handshake of a bank. What waits presents again, and with it the first access that every other master has asked for; a port serves one access and its pointer moves to the master after
the winner. An atomic served by the read port takes the write port of the next handshake, and in between its row is held from every other access. The losers wait, and each counts once when it
first loses. A retired cluster's banks are halted (R29). -/
def State.bankTurn (s : State) (t : BankTurn) : State :=
  if 200 < t.cluster || s.retired t.cluster then s
  else
    let n := if t.cluster = 200 then 16 else mastersOf t.unit
    let b := tabGet BankState.reset s.net.banks (bankKey t)
    let fresh := firstAsked b.waiting b.asked
    let all := b.waiting ++ fresh.1
    let openTo := all.filter (fun a => match b.hold with | some (_, row) => a.row != row | none => true)
    let rd := portWinner (openTo.filter (fun a => !a.write)) b.rdPtr n
    let wr := if b.hold.isSome then none else portWinner (openTo.filter (·.write)) b.wrPtr n
    let served := rd.toList ++ wr.toList
    let lost := all.filter (fun a => !accAmong a served)
    let b' : BankState :=
      { rdPtr := match rd with | some a => (a.master + 1) % n | none => b.rdPtr
        wrPtr := match b.hold, wr with | some (m, _), _ => (m + 1) % n | none, some a => (a.master + 1) % n | none, none => b.wrPtr
        hold := match rd with | some a => if a.atomic then some (a.master, a.row) else none | none => none
        asked := fresh.2
        waiting := lost }
    let s := { s with net := { s.net with banks := tabSet .reset s.net.banks (bankKey t) b' } }
    (lost.filter (fun a => !accAmong a b.waiting)).foldl (fun s a => s.countConflict t.cluster t.unit a.master false) s

/-- The accesses presented at the banks of a cluster end with the work that presented them, when it is wiped (R159). -/
def NetState.quietBanks (x : NetState) (n : Nat) : NetState :=
  { x with banks := (x.banks.map (fun e => if e.1 / 2560 = n then (e.1, { e.2 with hold := none, asked := [], waiting := [] }) else e)).filter (fun e => e.2 != .reset) }

/-- Numbers without repeats, rising. -/
def distinct (l : List Nat) : List Nat := l.foldl (fun a k => setAdd a k) []

/-- The banks' part of a timebase step: WAIT of every master of a store bank or scratchpad with an access that waits after a loss (R149). -/
def State.countBankWaits (s : State) : State :=
  let l := s.net.banks.flatMap (fun e => e.2.waiting.map (fun a => 16 * (e.1 / 16) + a.master))
  (distinct l).foldl (fun s k => s.countConflict (k / 16 / 160) (k / 16 % 160) (k % 16) true) s

/-! ### The cluster DMA (R151, R152) -/

def cdmaMax : Nat := 1024

/-- A cluster DMA sends a request, which waits at its limit, or one of its requests ends. That of a retired cluster is halted (R29). -/
def State.cdmaStep (s : State) (n : Nat) (sends : Bool) : State :=
  let k := tabGet 0 s.net.cdma n
  let k := if sends then (if k < cdmaMax then k + 1 else k) else k - 1
  if n < 200 ∧ !s.retired n then { s with net := { s.net with cdma := tabSet 0 s.net.cdma n k } } else s

end Sys2Proof.Machine
end

