-- ==== Sys2Proof/Machine/Send.lean ====
section
/-!
DEFINITION. The sending side of the fabric (spec/10_zhomus_fabric.md): how a packet is built, routed (R291), queued at a port under credits
(R287) and kept on its stream until it is acknowledged (R293); and the device events of the management channel (R450).
-/
namespace Sys2Proof.Machine

/-! ### Packets (R284 to R286) -/

def pktRequest : Nat := 0
def pktReply : Nat := 1
def pktBulk : Nat := 2
def pktMgmt : Nat := 3

def pktClassNum (c : PktClass) : Nat :=
  match c with
  | .request => 0 | .reply => 1 | .bulk => 2 | .management => 3

/-- The class of a sequenced packet type, if the type is one (Tables 10.5, 11.3). -/
def seqClass (typ : Nat) : Option Nat :=
  if 0x10 ≤ typ ∧ typ ≤ 0x13 then some 0
  else if 0x20 ≤ typ ∧ typ ≤ 0x22 then some 1
  else if 0x30 ≤ typ ∧ typ ≤ 0x32 then some 2
  else if 0x40 ≤ typ ∧ typ ≤ 0x5F then some 2
  else if 0x60 ≤ typ ∧ typ ≤ 0x62 then some 3
  else none

/-- Bytes of a packet on a link: header, payload and trailer. -/
def pktBytes (p : Packet) : Nat := 36 + p.payload.length

/-- The header of a packet as Table 10.4 lays it out. -/
def pktHeader (p : Packet) : List Byte :=
  [p.typ, BitVec.ofNat 8 (p.vc.toNat + 8 * p.phase.toNat + 32 * p.mcast.toNat + 64 * p.retx.toNat)] ++ leBytes 2 p.payload.length ++ leBytes 2 p.src.toNat ++
    leBytes 2 p.dst.toNat ++ leBytes 4 p.seq.toNat ++ leBytes 2 p.srcBoot.toNat ++ leBytes 1 p.sctx.toNat ++ leBytes 1 p.dctx.toNat ++ leBytes 16 p.opfield.toNat

/-- The trailer: the CRC-32C of header and payload (R284). -/
def pktCrc (p : Packet) : W32 := crc32c (pktHeader p ++ p.payload)

/-- How the trailer of an arriving packet checks: a stomped one is the correct CRC with every bit turned (R280). -/
def checkTrailer (p : Packet) (trailer : W32) : CrcResult :=
  if trailer = pktCrc p then .good else if trailer = pktCrc p ^^^ 0xFFFFFFFF#32 then .stomped else .bad

/-- A packet on a link byte by byte: header, payload, trailer. -/
def Sent.bytes (x : Sent) : List Byte :=
  pktHeader x.pkt ++ x.pkt.payload ++ leBytes 4 (if x.stomped then pktCrc x.pkt ^^^ 0xFFFFFFFF#32 else pktCrc x.pkt).toNat

/-- A field of `len` bytes of the OPFIELD, by header offset from 0x10. -/
def pktOp (p : Packet) (off len : Nat) : Nat := bitsN p.opfield.toNat (8 * (off - 0x10) + 8 * len - 1) (8 * (off - 0x10))

/-- An OPFIELD from (header offset, bytes, value) triples. -/
def opField (l : List (Nat × Nat × Nat)) : BitVec 128 :=
  BitVec.ofNat 128 (l.foldl (fun a f => a + (f.2.2 % 2 ^ (8 * f.2.1)) * 2 ^ (8 * (f.1 - 0x10))) 0)

/-- The package's own global number; 0 while it has no position, when every port is Disabled (R281). -/
def State.self (s : State) : Nat :=
  match s.fab.pos with
  | some (ch, r, c) => 64 * ch + 8 * r + c
  | none => 0

/-- Whether a global package number names this package; while it has no position none does. -/
def State.isSelf (s : State) (g : Nat) : Bool := s.fab.pos.isSome && g == s.self

/-- The low 16 bits of the boot count (R295). -/
def State.boot16 (s : State) : W16 := BitVec.ofNat 16 s.sec.flash.bootCount

/-- A packet from this package, on the adaptive VC of its class, PHASE 0, SEQ 0 until it enters its stream. -/
def State.mkPacket (s : State) (typ cls dst sctx dctx : Nat) (op : List (Nat × Nat × Nat)) (payload : List Byte) : Packet where
  typ := BitVec.ofNat 8 typ
  vc := BitVec.ofNat 3 (2 * cls)
  phase := 0
  mcast := false
  retx := false
  src := BitVec.ofNat 15 s.self
  dst := BitVec.ofNat 15 dst
  seq := 0
  srcBoot := s.boot16
  sctx := BitVec.ofNat 6 sctx
  dctx := BitVec.ofNat 6 dctx
  opfield := opField op
  payload := payload
  final := BitVec.ofNat 15 dst

/-! ### Ports and peers -/

def State.port (s : State) (p : Nat) : PortState := tabGet PortState.reset s.fab.ports p
def State.setPort (s : State) (p : Nat) (x : PortState) : State :=
  { s with fab := { s.fab with ports := tabSet PortState.reset s.fab.ports p x } }
def State.peer (s : State) (g : Nat) : PeerState := tabGet PeerState.reset s.fab.peers g
def State.setPeer (s : State) (g : Nat) (x : PeerState) : State :=
  { s with fab := { s.fab with peers := tabSet PeerState.reset s.fab.peers g x } }
def PeerState.txOf (p : PeerState) (cls : Nat) : TxStream := tabGet TxStream.reset p.tx cls
def PeerState.setTx (p : PeerState) (cls : Nat) (t : TxStream) : PeerState := { p with tx := tabSet TxStream.reset p.tx cls t }
def PeerState.rxOf (p : PeerState) (cls : Nat) : RxStream := tabGet RxStream.reset p.rx cls
def PeerState.setRx (p : PeerState) (cls : Nat) (r : RxStream) : PeerState := { p with rx := tabSet RxStream.reset p.rx cls r }

/-- Table 10.2 states as FAB_PORT_STATUS and LINK_STATE give them. -/
def PortPhase.code (p : PortPhase) : Nat :=
  match p with
  | .disabled => 0 | .training => 1 | .up => 2 | .down => 3 | .mismatch => 4

def State.portUp (s : State) (p : Nat) : Bool := (s.port p).phase == .up

/-- The L-port that joins two packages of one row or column (Table 10.1), by row and column. -/
def linePort (r c r' c' : Nat) : Option Nat :=
  if r = r' ∧ c = c' then none
  else if r = r' then some (if c' < c then c' else c' - 1)
  else if c = c' then some (7 + (if r' < r then r' else r' - 1))
  else none

/-- The peer of L-port p at row r, column c, as a package of the chassis (Table 10.1). -/
def linePeer (r c p : Nat) : Nat :=
  if p < 7 then 8 * r + (if p < c then p else p + 1)
  else 8 * (if p - 7 < r then p - 7 else p - 7 + 1) + c

/-- Whether a neighbour's port is Up as its last LINK_STATE gave it (R290). -/
def State.neighbourUp (s : State) (g p : Nat) : Bool := bitsN (((s.peer g).links.getD p 0).toNat) 2 0 == 2

/-- Whether a package of the chassis shares a row or column with another, and is not that package. -/
def inLine (a b : Nat) : Bool := a != b && (a / 8 == b / 8 || a % 8 == b % 8)

/-- Whether the end at package a of the link from a to b is Up as a's last LINK_STATE gave it; none where a is not a neighbour of this package, which hears none (R290). -/
def State.endUp (s : State) (ch me a b : Nat) : Option Bool :=
  if inLine a me then (linePort (a / 8) (a % 8) (b / 8) (b % 8)).map (fun p => s.neighbourUp (64 * ch + a) p) else none

/-- Whether the link between packages a and b of this chassis is Up, as this package knows it: its own port, or what the neighbours among the two ends last said, each of which has to say
so (log 103). -/
def State.linkUp (s : State) (a b : Nat) : Bool :=
  match s.fab.pos with
  | none => false
  | some (ch, r, c) =>
    let me := 8 * r + c
    if !inLine a b then false
    else if a = me then (linePort r c (b / 8) (b % 8)).any s.portUp
    else if b = me then (linePort r c (a / 8) (a % 8)).any s.portUp
    else
      match s.endUp ch me a b, s.endUp ch me b a with
      | some x, some y => x && y
      | some x, none => x
      | none, some y => y
      | none, none => false

/-- The state of G-port j of package q of this chassis, as this package knows it. -/
def State.gportUp (s : State) (q j : Nat) : Bool :=
  match s.fab.pos with
  | none => false
  | some (ch, r, c) => if q = 8 * r + c then s.portUp (14 + j) else bitsN (((s.peer (64 * ch + q)).gports.getD j 0).toNat) 2 0 == 2

def gwPkg (w : W32) : Nat := bitsN w.toNat 5 0
def gwPort (w : W32) : Nat := bitsN w.toNat 8 6
def gwValid (w : W32) : Bool := bitN w.toNat 9
def gwDetour (w : W32) : Nat := bitsN w.toNat 18 10
def gwDetourValid (w : W32) : Bool := bitN w.toNat 19

def State.gwEntry (s : State) (chassis : Nat) : W32 := tabGet 0 s.fab.gw chassis
/-- Whether the primary link toward a chassis is Up. -/
def State.primaryUp (s : State) (chassis : Nat) : Bool :=
  let w := s.gwEntry chassis
  gwValid w && gwPort w ≤ 5 && s.gportUp (gwPkg w) (gwPort w)

/-! ### Routing (R291) -/

/-- What step 1 gives: a package of this chassis and, at a gateway, the G-port to leave by and the chassis it must lead to. -/
structure Target where
  pkg    : Nat
  gport  : Option (Nat × Nat)
  detour : Bool
deriving DecidableEq, Repr

/-- Step 1: the target of a packet for global package q that started in chassis `from_`. The entry of the package's own chassis is ignored, also as a DETOUR (R282). -/
def State.target (s : State) (q from_ : Nat) : Option Target :=
  match s.fab.pos with
  | none => none
  | some (ch, _, _) =>
    let qc := q / 64
    if qc = ch then some ⟨q % 64, none, false⟩
    else
      let w := s.gwEntry qc
      if s.primaryUp qc then some ⟨gwPkg w, some (gwPort w, qc), false⟩
      else if from_ = ch && gwDetourValid w && gwDetour w != ch && s.primaryUp (gwDetour w) then
        let d := s.gwEntry (gwDetour w)
        some ⟨gwPkg d, some (gwPort d, gwDetour w), true⟩
      else none

/-- The bytes waiting at the adaptive VC of a class at a port. -/
def State.waitBytes (s : State) (p vc : Nat) : Nat := ((tabGet [] (s.port p).queues vc).map (fun q => pktBytes q.pkt)).foldl (· + ·) 0

/-- The metric of step 3. -/
def State.metric (s : State) (p cls : Nat) : Nat := s.waitBytes p (2 * cls) * 8 / max 1 (s.port p).lanes

/-- The packages through which the two minimal routes from a to t pass, row-first then column-first; t itself in a line. -/
def minimalVia (a t : Nat) : List Nat :=
  if a / 8 = t / 8 ∨ a % 8 = t % 8 then [t] else [8 * (a / 8) + t % 8, 8 * (t / 8) + a % 8]

/-- The first hops of steps 2 and 4 as packages of this chassis in order of preference under equal metrics, and whether they are detours. -/
def State.hops (s : State) (me t : Nat) : List Nat × Bool :=
  let direct := (minimalVia me t).filter (fun v => s.linkUp me v && (v == t || s.linkUp v t))
  if !direct.isEmpty then (direct, false)
  else
    let inter := (List.range 64).filter (fun i =>
      i != t && inLine i me && s.linkUp me i && (minimalVia i t).any (fun v => s.linkUp i v && (v == t || s.linkUp v t)))
    (inter, true)

/-- The port to a package of this chassis. -/
def State.portTo (s : State) (t : Nat) : Nat :=
  match s.fab.pos with
  | none => 0
  | some (_, r, c) => (linePort r c (t / 8) (t % 8)).getD 0

/-- The first of a list of ports with the smallest metric. -/
def State.leastPort (s : State) (cls : Nat) (ports : List Nat) : Option Nat :=
  match ports with
  | [] => none
  | p :: r =>
    match s.leastPort cls r with
    | none => some p
    | some q => if s.metric p cls ≤ s.metric q cls then some p else some q

/-- The port of the row-first route toward t among the first hops that `hops` gave: the direct link in a line, else the link along the row; none where that is not Up. -/
def State.rowFirstPort (s : State) (me t : Nat) (hs : List Nat) : Option Nat :=
  match (minimalVia me t).head? with
  | some v => if hs.contains v then some (s.portTo v) else none
  | none => none

/-- What routing a packet gives. -/
inductive RouteRes where
  | port (p : Nat) (pkt : Packet) (detour : Bool)
  | here                       -- the packet is for this package
  | noRoute
  | phaseDrop
  | mismatch                   -- a G-port whose peer lies in another chassis (R283)
deriving DecidableEq, Repr

/-- Whether a packet that came from neighbour `prev` was sent here as the intermediate package of a detour (step 4). -/
def State.isIntermediate (s : State) (prev : Option Nat) (me t : Nat) : Bool :=
  match s.fab.pos, prev with
  | some (ch, _, _), some g => g / 64 == ch && me != t && !(minimalVia (g % 64) t).contains me
  | _, _ => false

/-- Route a packet at this package (R291). `prev` is the neighbour it came from, none at its source. -/
def State.route (s : State) (pkt : Packet) (prev : Option Nat) : RouteRes :=
  match s.fab.pos with
  | none => .noRoute
  | some (ch, r, c) =>
    let me := 8 * r + c
    let q := pkt.dst.toNat
    if q = s.self then .here
    else
      match s.target q (pkt.src.toNat / 64) with
      | none => .noRoute
      | some tg =>
        let cls := pkt.vc.toNat / 2
        if tg.pkg = me then
          match tg.gport with
          | none => .here
          | some (j, chassis) =>
            if (s.port (14 + j)).peer.any (fun g => g / 64 == chassis) then
              if pkt.phase = 3 then .phaseDrop
              else .port (14 + j) { pkt with phase := pkt.phase + 1, vc := BitVec.ofNat 3 (2 * cls) } tg.detour
            else .mismatch
        else
          let bump := s.isIntermediate prev me tg.pkg
          if bump && pkt.phase == 3 then .phaseDrop
          else
            let pkt := if bump then { pkt with phase := pkt.phase + 1, vc := BitVec.ofNat 3 (2 * cls) } else pkt
            let (hs, det) := s.hops me tg.pkg
            let ports := hs.map s.portTo
            let least := s.leastPort cls ports
            match (if pkt.vc.toNat % 2 = 1 && !det then s.rowFirstPort me tg.pkg hs else least) with
            | none => .noRoute
            | some p => .port p pkt (det || (tg.detour && prev.isNone && ch == pkt.src.toNat / 64))

/-! ### Output queues, credits and transmission (R287, R288) -/

/-- Whether the downstream buffer has room for a packet: credits for the whole packet, or the free slot of its PHASE. -/
def PortState.hasRoom (x : PortState) (pkt : Packet) : Bool :=
  let c := x.credits.getD pkt.vc.toNat 0
  if pkt.vc.toNat % 2 = 0 then ceilDiv (pktBytes pkt) 64 ≤ c else bitN c pkt.phase.toNat

def PortState.takeRoom (x : PortState) (pkt : Packet) : PortState :=
  let v := pkt.vc.toNat
  let c := x.credits.getD v 0
  { x with credits := x.credits.set v (if v % 2 = 0 then c - ceilDiv (pktBytes pkt) 64 else c - 2 ^ pkt.phase.toNat) }

def PortState.queue (x : PortState) (vc : Nat) : List Queued := tabGet [] x.queues vc
def PortState.setQueue (x : PortState) (vc : Nat) (l : List Queued) : PortState := { x with queues := tabSet [] x.queues vc l }

/-- Count a context's packet bytes: in its account if it is lent (Table 15.10), and for the split of energy (R435). -/
def State.acctFabric (s : State) (c n : Nat) : State :=
  match s.ctx? c with
  | some x =>
    let s := if x.lent then s.count (offAcctCtr c 2) n else s
    { s with ten := { s.ten with fabBytes := tabSet 0 s.ten.fabBytes c (tabGet 0 s.ten.fabBytes c + n) } }
  | none => s

/-- Whether a packet is a context's traffic: the sequenced types of the request, reply and bulk classes. -/
def pktTraffic (p : Packet) : Bool :=
  match seqClass p.typ.toNat with
  | some c => c != 3
  | none => false

/-- Whether a packet this package sends is traffic of its SCTX: a bundle, or a row forwarded for another sender, charges no context (R304). -/
def State.ownTraffic (s : State) (p : Packet) : Bool :=
  pktTraffic p && p.src.toNat == s.self && p.typ != 0x31 && !(p.typ == 0x30 && pktOp p 0x18 2 % 2 ^ 15 != s.self)

/-- The port stamps a time packet of this package as its first symbol leaves (R453): t1 of a TIME_REQ, t3 of a TIME_RESP. -/
def State.stampLeaving (s : State) (pkt : Packet) : Packet :=
  if pkt.src.toNat != s.self then pkt
  else if pkt.typ = 0x63 then { pkt with opfield := opField [(0x10, 8, s.now), (0x18, 4, pktOp pkt 0x18 4)] }
  else if pkt.typ = 0x64 then { pkt with payload := pkt.payload.take 8 ++ leBytes 8 s.now }
  else pkt

/-- Transmit a packet on a port, with its correct trailer or a stomped one: it is on the wire, and counted (Table 10.12). -/
def State.transmit (s : State) (p : Nat) (pkt : Packet) (stomped : Bool) : State :=
  let pkt := s.stampLeaving pkt
  let v := pkt.vc.toNat
  let s := { s with fab := { s.fab with wire := s.fab.wire ++ [Sent.mk p pkt stomped] } }
  let s := (s.count (offFabVc p v 0) 1).count (offFabVc p v 2) (pktBytes pkt)
  if s.ownTraffic pkt then s.acctFabric pkt.sctx.toNat (pktBytes pkt) else s

/-- Transmit from the head of a port's queue as long as there is room downstream. -/
def State.drainPort (s : State) (p vc : Nat) (fuel : List Queued) : State :=
  match fuel with
  | [] => s
  | q :: rest =>
    let x := s.port p
    if x.phase = .up ∧ x.hasRoom q.pkt then
      ((s.setPort p ((x.takeRoom q.pkt).setQueue vc rest)).transmit p q.pkt false).drainPort p vc rest
    else s

/-- FAB_QHWM holds the highest FAB_QDEPTH. -/
def State.noteDepth (s : State) (p vc : Nat) : State :=
  let d := s.waitBytes p vc
  let a := offFabVc p vc 5
  if s.regN a < d then s.setRegN a (min d ctrMax) else s

/-- A packet moved to the escape VC of its class. -/
def toEscape (pkt : Packet) : Packet := { pkt with vc := BitVec.ofNat 3 (pkt.vc.toNat / 2 * 2 + 1) }

/-- Whether a packet may use an escape VC: time packets travel on VC6 alone (Table 10.5). -/
def mayEscape (pkt : Packet) : Bool := pkt.typ != 0x63 && pkt.typ != 0x64

/-- The ports of a packet's first-hop candidates (steps 1, 2, 4 and 5). -/
def State.candidatePorts (s : State) (p : Nat) (pkt : Packet) : List Nat :=
  match pkt.mcast, s.fab.pos, s.target pkt.dst.toNat (pkt.src.toNat / 64) with
  | false, some (_, r, c), some tg => if tg.pkg = 8 * r + c then [p] else (s.hops (8 * r + c) tg.pkg).1.map s.portTo
  | _, _, _ => [p]

/-- The port by which a packet bound for port p leaves in the escape VC: that of the row-first route of its leg, if it is usable. A leg toward an intermediate of step 4 is the one link to it, the
route that step 4 chose (log 14). -/
def State.rowFirst (s : State) (p : Nat) (pkt : Packet) : Option Nat :=
  match pkt.mcast, s.fab.pos, s.target pkt.dst.toNat (pkt.src.toNat / 64) with
  | false, some (_, r, c), some tg =>
    if tg.pkg = 8 * r + c then some p
    else
      let hs := s.hops (8 * r + c) tg.pkg
      if hs.2 then some p else s.rowFirstPort (8 * r + c) tg.pkg hs.1
  | _, _, _ => some p

/-- The port by whose escape VC a packet bound for port p may leave: that of the row-first route, when every candidate lacks credits in the adaptive VC and the
escape slot is free (step 6; log 14). -/
def State.escapePort (s : State) (p : Nat) (pkt : Packet) : Option Nat :=
  let v := pkt.vc.toNat
  match s.rowFirst p pkt with
  | none => none
  | some e =>
    if v % 2 = 0 ∧ mayEscape pkt ∧ (s.candidatePorts p pkt).all (fun k => !((s.port k).queue v).isEmpty || !(s.port k).hasRoom pkt) ∧ ((s.port e).queue (v + 1)).isEmpty ∧
        (s.port e).hasRoom (toEscape pkt) then some e
    else none

/-- Put a packet at a port's output: on its VC, or on the escape VC of the row-first route when it may use that. -/
def State.enqueue (s : State) (p : Nat) (pkt : Packet) (first : Bool) (detour : Bool := false) : State :=
  let (p, pkt) := match s.escapePort p pkt with
    | some e => (e, toEscape pkt)
    | none => (p, pkt)
  let x := s.port p
  let v := pkt.vc.toNat
  let q := x.queue v ++ [⟨pkt, first, detour⟩]
  let s := s.setPort p (x.setQueue v q)
  (s.noteDepth p v).drainPort p v q

/-- A packet that has come, with the stamp of its arrival if it is a time packet (R453). -/
def State.stampArrival (s : State) (pkt : Packet) : Packet := if pkt.typ = 0x63 ∨ pkt.typ = 0x64 then { pkt with arrived := s.now } else pkt

/-- Put a delivered packet before its destination block. -/
def State.deliver (s : State) (pkt : Packet) : State := { s with fab := { s.fab with inbox := s.fab.inbox ++ [s.stampArrival pkt] } }

/-! ### Streams (R293) -/

/-- The bytes of copies in the retransmit store. -/
def State.storeUsed (s : State) : Nat :=
  (s.fab.peers.map (fun e => (e.2.tx.map (fun t => (t.2.unacked.map (fun u => pktBytes u.pkt)).foldl (· + ·) 0)).foldl (· + ·) 0)).foldl
    (· + ·) 0

/-- The size of the retransmit store. -/
def retxStore : Nat := 512 * 2 ^ 20

/-- Note of an unacknowledged packet of a stream whether the copy routed last left or is held, and whether that copy carries RETX. -/
def State.markSent (s : State) (g cls : Nat) (pkt : Packet) (sent : Bool) : State :=
  let seq := pkt.seq
  let p := s.peer g
  let t := p.txOf cls
  s.setPeer g (p.setTx cls { t with unacked := t.unacked.map (fun u => if u.pkt.seq = seq then { u with sent := sent, last := s.now, again := pkt.retx } else u) })

/-- What to do when a packet is discarded for a mismatched gateway: the port and its peer are given (R283). -/
abbrev OnMismatch := State → Nat → Nat → State

/-- The G-port by which a packet would leave this package as a gateway, and its trained peer. -/
def State.gatewayPort (s : State) (pkt : Packet) : Nat × Nat :=
  match s.target pkt.dst.toNat (pkt.src.toNat / 64) with
  | some ⟨_, some (j, _), _⟩ => (14 + j, (s.port (14 + j)).peer.getD 0)
  | _ => (0, 0)

/-- Discard a packet at a mismatched gateway: counted, and an event posted (R283). -/
def State.mismatchDrop (s : State) (ev : OnMismatch) (pkt : Packet) : State :=
  let g := s.gatewayPort pkt
  ev (s.count (offFabPkg 7) 1) g.1 g.2

/-- A copy of a multicast packet that is routed to receiver g as unicast (R292). `final` keeps the DST of the multicast, by which the receiver knows what the copy is (log 24). -/
def asUnicast (g : Nat) (pkt : Packet) : Packet := { pkt with mcast := false, wasMcast := true, dst := BitVec.ofNat 15 g }

/-- The copy of a multicast packet for receiver g: it goes by the direct link as it is, or, when that is not Up, to the receiver as unicast
(R292). -/
def State.mcastCopy (s : State) (g : Nat) (pkt : Packet) : Packet :=
  if pkt.mcast && !s.portUp (s.portTo (g % 64)) then asUnicast g pkt else pkt

/-- The route of a stream's packet to peer g at its source. -/
def State.routeTo (s : State) (g : Nat) (pkt : Packet) : RouteRes :=
  if pkt.mcast then .port (s.portTo (g % 64)) pkt false else s.route pkt none

/-- Route one copy of a stream's packet from this package, its source: it leaves, or is held there while it has no route. -/
def State.launchEv (s : State) (ev : OnMismatch) (g cls : Nat) (pkt : Packet) : State :=
  let pkt := s.mcastCopy g pkt
  match s.routeTo g pkt with
  | .port p pkt' det =>
    let s := s.markSent g cls pkt true
    let s := if det then s.count (offFabPkg 8) 1 else s
    s.enqueue p pkt' true det
  | .phaseDrop => (s.markSent g cls pkt true).count (offFabPkg 4) 1
  | .mismatch => (s.markSent g cls pkt true).mismatchDrop ev pkt
  | .noRoute => s.markSent g cls pkt false
  | .here => s

/-- A ring step of a collective has been made (R348). -/
def State.ringStep (s : State) (c : Nat) (id : W32) : State :=
  { s with coll := { s.coll with colls := s.coll.colls.map (fun x => if x.ctx == c && x.id == id then { x with lastStep := s.now } else x) } }

/-- A packet of a chunk is sent: COLL_BYTES_TX counts a piece's bytes (R350), and with the last piece, or the marker, the send of the chunk is complete, which is a ring step (R348). -/
def State.noteColl (s : State) (pkt : Packet) : State :=
  let s := if pkt.typ = 0x40 then s.count (offCollCtr pkt.sctx.toNat 2) pkt.payload.length else s
  if pkt.typ = 0x41 ∨ (pkt.typ = 0x40 ∧ bitN (pktOp pkt 0x1A 1) 2) then s.ringStep pkt.sctx.toNat (BitVec.ofNat 32 (pktOp pkt 0x10 4)) else s

/-- Note that a request has entered its stream's send window. -/
def State.noteEntered (s : State) (slot : Option Nat) (seq : W32) : State :=
  match slot with
  | none => s
  | some n =>
    match tabFind s.memop.slots n with
    | none => s
    | some r => { s with memop := { s.memop with slots := tabInsert s.memop.slots n { r with seq := some seq } } }

/-- The copy of a packet is written to the retransmit store (R293), in the Press area of S2, S5, S8 or S11 (R170); which of them the spec does not state (log 135). -/
def State.storeCopy (s : State) (g : Nat) (pkt : Packet) : State := s.countStack (2 + 3 * (Config.retxPart g pkt.seq).toNat) (pktBytes pkt)

/-- Move waiting packets of a stream into its window of 256 as room allows. -/
def State.pumpTxEv (s : State) (ev : OnMismatch) (g cls : Nat) (fuel : List (Packet × Option Nat)) : State :=
  match fuel with
  | [] => s
  | (pkt, slot) :: rest =>
    let p := s.peer g
    let t := p.txOf cls
    if t.unacked.length < 256 ∧ s.storeUsed + pktBytes pkt ≤ retxStore then
      let pkt := { pkt with seq := t.nextSeq, srcBoot := s.boot16 }
      let t' : TxStream := ⟨t.nextSeq + 1, t.unacked ++ [⟨pkt, s.now, s.now, false, slot, false⟩], rest⟩
      (((((s.setPeer g (p.setTx cls t')).storeCopy g pkt).noteEntered slot pkt.seq).noteColl pkt).launchEv ev g cls pkt).pumpTxEv ev g cls rest
    else s

/-- Send a sequenced packet on its stream. One for this package itself is delivered at once; one for a dead peer is discarded and
counted (R297). -/
def State.sendSeqEv (s : State) (ev : OnMismatch) (g : Nat) (pkt : Packet) (slot : Option Nat) : State :=
  let cls := pkt.vc.toNat / 2
  if s.isSelf g then (s.noteColl pkt).deliver pkt
  else
    let p := s.peer g
    if p.dead then s.count (offFabPkg 5) 1
    else
      let t := p.txOf cls
      let w := t.waiting ++ [(pkt, slot)]
      (s.setPeer g (p.setTx cls { t with waiting := w })).pumpTxEv ev g cls w

/-! ### Device events on the management channel (R450) -/

/-- A management response or event payload (Table 16.7). The identity key's signature is a free value (log 17). -/
def State.mgmtPayload (s : State) (cmd status event nonce : Nat) (body : List Byte) : List Byte × State :=
  let r := s.freeBytes 64
  (leBytes 2 cmd ++ leBytes 1 status ++ leBytes 1 event ++ leBytes 4 s.sec.flash.bootCount ++ leBytes 8 nonce ++ leBytes 2 body.length ++
    zeroBytes 6 ++ leBytes 8 s.now ++ body ++ r.1, r.2)

/-- Send an event to the package MGMT.HOME named last; it is dropped while none has been named. -/
def State.mgmtEvent (s : State) (code : Nat) (ctx : Option Nat) (arg0 arg1 : Nat) : State :=
  match s.sec.home with
  | none => s
  | some g =>
    let b := match ctx with | some n => n % 64 + 128 | none => 0
    let r := s.mgmtPayload 0xFFFF 0 code 0 (leBytes 1 b ++ zeroBytes 7 ++ leBytes 8 arg0 ++ leBytes 8 arg1)
    r.2.sendSeqEv (fun s _ _ => s) g (r.2.mkPacket 0x62 3 g 0 0 [] r.1) none

/-! ### Sending, with the event of a mismatched gateway -/

/-- Post a GW_MISMATCH event (R283). One met by that event's own packet posts no further one (log 15). -/
def gwEvent : OnMismatch := fun s p g => s.mgmtEvent 0x24 none p g

def State.launch (s : State) (g cls : Nat) (pkt : Packet) : State := s.launchEv gwEvent g cls pkt
def State.pumpTx (s : State) (g cls : Nat) : State := s.pumpTxEv gwEvent g cls ((s.peer g).txOf cls).waiting
/-- Send a sequenced packet; see `sendSeqEv`. -/
def State.sendSeq (s : State) (pkt : Packet) (slot : Option Nat) : State := s.sendSeqEv gwEvent pkt.dst.toNat pkt slot
/-- Send the copies of a multicast packet to its receivers, each on its own stream (R292). -/
def State.sendCopies (s : State) (pkt : Packet) (toWhom : List Nat) : State := toWhom.foldl (fun s g => s.sendSeqEv gwEvent g pkt none) s

/-- Move waiting packets of every stream: room has come free in the retransmit store. -/
def State.pumpAll (s : State) : State :=
  s.fab.peers.foldl (fun s e => e.2.tx.foldl (fun s t => s.pumpTx e.1 t.1) s) s

/-- Send an unsequenced packet (ACK, TIME, a LINK_STATE copy routed as unicast); it is held while it has no route, and one for a dead peer is discarded and counted (R297). -/
def State.sendPlain (s : State) (pkt : Packet) : State :=
  if !s.isSelf pkt.dst.toNat && (s.peer pkt.dst.toNat).dead then s.count (offFabPkg 5) 1
  else match s.route pkt none with
  | .port p pkt' det => (if det then s.count (offFabPkg 8) 1 else s).enqueue p pkt' true det
  | .noRoute => { s with fab := { s.fab with unrouted := s.fab.unrouted ++ [pkt] } }
  | .phaseDrop => s.count (offFabPkg 4) 1
  | .mismatch => s.mismatchDrop gwEvent pkt
  | .here => s.deliver pkt

/-- A route may have appeared: try every held packet again (R291). A held retransmission keeps its RETX (R293). -/
def State.retryHeld (s : State) : State :=
  let u := s.fab.unrouted
  let s := u.foldl State.sendPlain { s with fab := { s.fab with unrouted := [] } }
  s.fab.peers.foldl (fun s e => e.2.tx.foldl (fun s t =>
    (t.2.unacked.filter (fun x => !x.sent)).foldl (fun s x => s.launch e.1 t.1 { x.pkt with retx := x.again }) s) s) s

end Sys2Proof.Machine
end

