-- ==== Sys2Proof/Machine/Records.lean ====
section
/-!
DEFINITION. Faults, completion records and device events: how a context's teardown begins (R418 to R420), how a record reaches a
completion ring, its backlog and its interrupt (R395 to R398), and where a device event goes (R385).
-/
namespace Sys2Proof.Machine

/-! ### A fault ends a context (R418, R420) -/

/-- Fault classes of Table 15.4. -/
def clsIllegal : Nat := 1
def clsBadDesc : Nat := 2
def clsUncorr : Nat := 3
def clsDead : Nat := 4
def clsHwLost : Nat := 5

/-- Teardown reasons of R419. -/
def reasonFault : Nat := 0
def reasonOverflow : Nat := 1
def reasonDestroyed : Nat := 2
def reasonReclaimed : Nat := 3
def reasonReset : Nat := 4
def reasonJob : Nat := 5

/-- A core stopped at once: it runs no further, waits for nothing, and its queued engine commands are discarded (R420). -/
def CoreState.halt (c : CoreState) : CoreState :=
  { c with
    run := if c.run = .running then .stopped else c.run
    wait := .none
    matQ := []
    mxOut := []
    vecQ := []
    dmaQ := [] }

/-- Stop the cores of some clusters. A core in its reset state has nothing to stop. -/
def State.haltClusters (s : State) (cl : List Nat) : State :=
  let cs := s.cores.map (fun e => if cl.contains (coreCluster e.1) then (e.1, e.2.halt) else e)
  { s with cores := cs.filter (fun e => decide (e.2 ≠ CoreState.reset)) }

/-- The context's commands in the Presses and at the Dealer window are abandoned (R183). -/
def State.dropCommands (s : State) (c : Nat) : State :=
  { s with
    press := { s.press with queues := (s.press.queues.map (fun e => (e.1, e.2.filter (fun q => q.ctx != c)))).filter (fun e => !e.2.isEmpty) }
    deal := { s.deal with window := s.deal.window.filter (fun w => w.ctx != c) } }

/-- Begin the teardown of a context: step 1 of R420. The class, reason, tag and detail recorded are those detected first
(Table 15.8); a pre-emption or resume in progress will complete with TORN_DOWN (0x88). A context that is ending already, or does
not exist, is left as it is. -/
def State.beginTeardown (s : State) (c cls reason : Nat) (tag : W32) (detail : Nat) : State :=
  match s.ctx? c with
  | none => s
  | some x =>
    if x.phase = .ending then s
    else
      let owed := (x.preempt.toList ++ x.resume.toList).map (fun d => (d, 0x88))
      ((s.haltClusters x.clusters).dropCommands c).setCtx c { x with
        phase := .ending
        preempt := none
        resume := none
        stopped := false
        ending := some ⟨cls, reason, tag, BitVec.ofNat 64 detail, 0, 0, false⟩
        owed := x.owed ++ owed }

/-- A context faults (R418). -/
def State.fault (s : State) (c cls detail : Nat) : State := s.beginTeardown c cls reasonFault 0 detail

/-- The context a core works for faults with "illegal instruction" (R126, R141). -/
def State.faultIllegal (s : State) (core : Nat) : State :=
  match s.coreCtx core with
  | none => s
  | some c => s.fault c clsIllegal (s.coreId core)

/-- The context a core works for faults with "bad descriptor", naming the opcode of the command. -/
def State.faultBad (s : State) (core op : Nat) : State :=
  match s.coreCtx core with
  | none => s
  | some c => s.fault c clsBadDesc op

/-- The context a core works for faults with "uncorrectable error in data". DETAIL names a flat address, 0 for SRAM. -/
def State.faultData (s : State) (core addr : Nat) : State :=
  match s.coreCtx core with
  | none => s
  | some c => s.fault c clsUncorr addr

/-! ### Rings -/

def State.ring (s : State) (fn i : Nat) : RingState := tabGet RingState.reset s.host.rings (8 * fn + i)
def State.setRing (s : State) (fn i : Nat) (r : RingState) : State :=
  { s with host := { s.host with rings := tabSet RingState.reset s.host.rings (8 * fn + i) r } }

/-- Whether submission ring i of a function is enabled (R386). -/
def State.sqEnabled (s : State) (fn i : Nat) : Bool := bitN (s.regN (fnReg fn offRingEn)) i
/-- Whether completion ring i of a function is enabled. -/
def State.cqEnabled (s : State) (fn i : Nat) : Bool := bitN (s.regN (fnReg fn offRingEn)) (8 + i)
def State.evqEnabled (s : State) : Bool := bitN (s.regN (fnReg 0 offRingEn)) 16
def State.sqSize (s : State) (fn i : Nat) : Nat := s.regN (fnReg fn (offSqSize i))
def State.cqSize (s : State) (fn i : Nat) : Nat := s.regN (fnReg fn (offCqSize i))

/-- Whether a function's rings have stopped: it is being reset (R403), or its context was torn down by a fault (R404). -/
def State.fnStopped (s : State) (fn : Nat) : Bool :=
  s.host.resetting.contains fn || bitN (s.regN (fnReg fn offFnStatus)) 0 ||
  match s.ctx? fn with
  | some x => (match x.ending with | some e => e.reason == reasonFault || e.reason == reasonOverflow | none => false)
  | none => false

/-- Put a TLP on the link, with an ECRC when that is enabled (R376) (log 134). -/
def State.sendTlp (s : State) (o : PcieOut) : State :=
  { s with host := { s.host with pcieOut := s.host.pcieOut ++ [o], sealed := s.host.sealed ++ [s.host.link.ecrc] } }

/-- Send something over PCIe; a function being reset issues no new TLP (R403). -/
def State.emit (s : State) (fn : Nat) (o : PcieOut) : State := if s.host.resetting.contains fn then s else s.sendTlp o

/-- Max Payload Size and Max Read Request Size in bytes (Table 14.1) (log 120). -/
def LinkCfg.maxPayload (x : LinkCfg) : Nat := 128 * 2 ^ min x.payloadCode 2
def LinkCfg.maxRead (x : LinkCfg) : Nat := 128 * 2 ^ min x.readCode 5

/-- Write host memory with a function's Requester ID, in requests of at most Max Payload Size. -/
def State.hostWrite (s : State) (fn addr : Nat) (bytes : List Byte) : State :=
  let m := s.host.link.maxPayload
  if bytes.length ≤ m then s.emit fn (.write fn addr bytes)
  else (List.range (ceilDiv bytes.length m)).foldl (fun (s : State) i => s.emit fn (.write fn (addr + m * i) ((bytes.drop (m * i)).take m))) s

/-- Send an MSI-X message; a masked vector sets its pending bit instead (R397) (log 5). -/
def State.sendMsix (s : State) (fn v : Nat) : State :=
  if (tabGet MsixEntry.reset s.host.msix (64 * fn + v)).masked then
    { s with host := { s.host with pba := setAdd s.host.pba (64 * fn + v) } }
  else s.emit fn (.msix fn v)

/-- Send a ring's interrupt when COUNT records have been posted since its last message (R397); else note the first record's time. -/
def State.moderate (s : State) (fn i : Nat) : State :=
  let r := s.ring fn i
  let vec := s.regN (fnReg fn (offCqVector i))
  let n := r.modCount + 1
  if bitN vec 8 && s.regN (fnReg fn (offCqMod i)) % 2 ^ 16 ≤ n then
    (s.setRing fn i { r with modCount := 0, modFirst := none }).sendMsix fn (vec % 64)
  else s.setRing fn i { r with modCount := n, modFirst := some (r.modFirst.getD s.now) }

/-- Write one record at slot C mod SIZE, advance C, write CQ_TAIL, then interrupt (R396). -/
def State.writeRecord (s : State) (fn i : Nat) (rec_ : List Byte) : State :=
  let r := s.ring fn i
  let slot := r.cqTail.toNat % s.cqSize fn i
  let s := s.hostWrite fn (s.regN (fnReg fn (offCqBase i)) + 32 * slot) rec_
  let s := s.setRing fn i { r with cqTail := r.cqTail + 1 }
  let s := s.hostWrite fn (s.regN (fnReg fn offWbBase) + 0x40 + 8 * i) (leBytes 8 (r.cqTail + 1).toNat)
  s.moderate fn i

/-- Whether a completion ring has room: C - Hc below SIZE (R398). -/
def State.cqRoom (s : State) (fn i : Nat) : Bool :=
  let r := s.ring fn i
  (r.cqTail - r.cqHead).toNat < s.cqSize fn i

def State.backlogOf (s : State) (fn : Nat) : List (Nat × List Byte) := tabGet [] s.host.backlog fn
def State.setBacklog (s : State) (fn : Nat) (l : List (Nat × List Byte)) : State :=
  { s with host := { s.host with backlog := tabSet [] s.host.backlog fn l } }

/-- Post a record on a completion ring: at once when the function has no backlog and the ring has room, else on the backlog; a record that would
overflow the backlog tears down the context (R398). Nothing is posted on a stopped function (R404) or a disabled ring
(log 21). -/
def State.postRecord (s : State) (fn i : Nat) (rec_ : List Byte) : State :=
  if s.fnStopped fn || !s.cqEnabled fn i then s
  else
    let bl := s.backlogOf fn
    if bl.isEmpty && s.cqRoom fn i then s.writeRecord fn i rec_
    else if bl.length < 65536 then s.setBacklog fn (bl ++ [(i, rec_)])
    else s.beginTeardown fn clsBadDesc reasonOverflow 0 0

/-- Move records from a function's backlog to its rings, in order, as far as there is room; a stopped function's stay (R398, R404). -/
def State.drainBacklog (s : State) (fn : Nat) (fuel : List (Nat × List Byte)) : State :=
  match fuel with
  | [] => s
  | (i, rec_) :: rest =>
    if s.cqRoom fn i && !s.fnStopped fn then ((s.setBacklog fn rest).writeRecord fn i rec_).drainBacklog fn rest
    else s

/-- A completion record (R395): opcode, status, TAG, the sixteen bytes its chapter defines, and the timebase. -/
def State.recordBytes (s : State) (op : Byte) (status : Nat) (tag : W32) (body : List Byte) : List Byte :=
  [op, BitVec.ofNat 8 status, 0, 0] ++ leBytes 4 tag.toNat ++ (body ++ zeroBytes (16 - body.length)) ++ leBytes 8 s.now

/-- Complete a descriptor: it is no longer open on its ring, and its record is posted on the paired completion ring. -/
def State.complete (s : State) (d : DescRef) (status : Nat) (body : List Byte) : State :=
  let r := s.ring d.fn d.ring
  let s := s.setRing d.fn d.ring { r with open_ := r.open_ - 1 }
  s.postRecord d.fn d.ring (s.recordBytes d.op status d.tag body)

/-! ### PF0's event ring (R384) -/

/-- Write one record on the event ring, advance its tail and interrupt, with COUNT 1 (R397). -/
def State.writeEvent (s : State) (rec_ : List Byte) : State :=
  let q := s.host.evq
  let slot := q.cqTail.toNat % s.regN (fnReg 0 offEvqSize)
  let s := s.hostWrite 0 (s.regN (fnReg 0 offEvqBase) + 32 * slot) rec_
  let s := { s with host := { s.host with evq := { q with cqTail := q.cqTail + 1 } } }
  let s := s.hostWrite 0 (s.regN (fnReg 0 offWbBase) + 0x80) (leBytes 8 (q.cqTail + 1).toNat)
  let vec := s.regN (fnReg 0 offEvqVector)
  if bitN vec 8 then s.sendMsix 0 (vec % 64) else s

def State.evqRoom (s : State) : Bool :=
  (s.host.evq.cqTail - s.host.evq.cqHead).toNat < s.regN (fnReg 0 offEvqSize)

/-- Post a record on the event ring, or its backlog; with the backlog full it is dropped and counted (R398). -/
def State.postEventRecord (s : State) (rec_ : List Byte) : State :=
  if s.host.resetting.contains 0 || !s.evqEnabled then s
  else if s.host.evBacklog.isEmpty && s.evqRoom then s.writeEvent rec_
  else if s.host.evBacklog.length < 65536 then
    { s with host := { s.host with evBacklog := s.host.evBacklog ++ [rec_] } }
  else s.count (fnReg 0 offEvqDropped) 1

/-- Move records from the event backlog to the event ring as far as there is room. -/
def State.drainEvents (s : State) (fuel : List (List Byte)) : State :=
  match fuel with
  | [] => s
  | rec_ :: rest =>
    if s.evqRoom then (({ s with host := { s.host with evBacklog := rest } }).writeEvent rec_).drainEvents rest
    else s

/-- The CTX byte of a device event: the context and CTX_VALID (Table 14.15). -/
def ctxByte (c : Option Nat) : Nat := match c with | some n => n % 64 + 128 | none => 0

/-- A device event record (Table 14.15). -/
def State.eventBytes (s : State) (code : Nat) (c : Option Nat) (arg0 arg1 : Nat) : List Byte :=
  [0x92#8, 0, BitVec.ofNat 8 code, BitVec.ofNat 8 (ctxByte c)] ++ zeroBytes 4 ++ leBytes 8 arg0 ++ leBytes 8 arg1 ++ leBytes 8 s.now

/-- An event addressed to PF0: ALERT_N falls, and the record is posted (R384, R465). -/
def State.eventPf0 (s : State) (code : Nat) (c : Option Nat) (arg0 arg1 : Nat) : State :=
  { s with power := { s.power with alertN := false } }.postEventRecord (s.eventBytes code c arg0 arg1)

/-- An event addressed to a tenant context: completion ring 0 of its function (R385). -/
def State.eventCtx (s : State) (c code arg0 arg1 : Nat) : State :=
  s.postRecord c 0 (s.eventBytes code (some c) arg0 arg1)

/-- An event addressed to PF0 and to the management channel (log 82). -/
def State.eventBoth (s : State) (code : Nat) (c : Option Nat) (arg0 arg1 : Nat) : State :=
  (s.eventPf0 code c arg0 arg1).mgmtEvent code c arg0 arg1

end Sys2Proof.Machine
end

