-- ==== Sys2Proof/Machine/Operands.lean ====
section
/-!
DEFINITION. How an instruction runs and reads its operands: when a core runs at all, the fetch check, effective addresses, checked reads of
the local windows, and reads of command-block operands (R101, R125, R126, R131).
-/
namespace Sys2Proof.Machine

/-- Whether a core may execute an instruction: its context is Active, or Stopping or Reclaiming and the core not yet stopped (R423), it
is in a launch, waits for nothing, its cluster is issued to, and the dies are not halted (R29, R480, R483). -/
def State.canRun (s : State) (core : Nat) : Bool :=
  let c := s.core core
  c.run == .running && c.wait == .none && !s.power.diesHalted && !s.retired (coreCluster core) &&
  match s.coreCtx core with
  | none => false
  | some x => match s.ctxPhase? x with
    | some .active => true
    | some .stopping => true
    | some .reclaiming => true
    | _ => false

/-- Whether a core of a live context exists to be worked for by its engines: as `canRun`, but the control core may be waiting or
have ended its part of the launch. -/
def State.enginesRun (s : State) (core : Nat) : Bool :=
  !s.power.diesHalted && !s.retired (coreCluster core) &&
  match s.coreCtx core with
  | none => false
  | some x => match s.ctxPhase? x with
    | some .active => true
    | some .stopping => (match s.ctx? x with | some y => !y.stopped | none => false)
    | some .reclaiming => (match s.ctx? x with | some y => !y.stopped | none => false)
    | _ => false

/-- Whether the engines of a core begin commands and send requests: its context runs and is not being stopped (R423). -/
def State.enginesBegin (s : State) (core : Nat) : Bool :=
  s.enginesRun core && (match (s.coreCtx core).bind s.ctxPhase? with | some .active => true | _ => false)

/-- How many of the next n units, rows or heads of a command its engine runs: all of them, but for an engine that is being stopped (R423). That one stops at a boundary of the TK96's
choosing, which is free (log 123). -/
def State.stopPoint (s : State) (core n : Nat) : Nat × State :=
  if s.enginesBegin core then (n, s) else let r := s.freeWord; (r.1.toNat % (n + 1), r.2)

/-- Read `n` bytes at a checked physical address and go on with their little-endian value; a poisoned row faults the context
with "uncorrectable error in data", and a scratchpad failure leaves the core where it is (R144). -/
def State.withRead (s : State) (core : Nat) (a? : Option Nat) (n : Nat) (k : State → Nat → State) : State :=
  match a? with
  | none => s.faultIllegal core
  | some a =>
    match s.checkSram a n with
    | (s', .ok) => k s' (s'.readNat a n)
    | (s', .poisoned _) => s'.faultData core 0
    | (s', .coreFailed) => s'

/-- Run one instruction of a core: nothing when the core does not run; an illegal instruction when the program counter leaves the local windows or is
misaligned (R125) or when the instruction is not legal (R126); "uncorrectable error in data" when its row is poisoned (log 18) (log 19). -/
def State.coreStep (s : State) (core : Nat) (legal : Bool) (f : State → State) : State :=
  if s.canRun core then
    let pc := (s.core core).pc.toNat
    if pc % 4 = 0 then s.withRead core (localPhys core pc 4) 4 (fun s' _ => if legal then f s' else s'.faultIllegal core)
    else s.faultIllegal core
  else s

/-- The control core presents an access to a local window at its bank (Table 5.2). -/
def State.presentOwn (s : State) (core n : Nat) (a? : Option Nat) (write atomic : Bool) : State :=
  match a? with
  | some a => s.present (.engine core 0) [(a, n)] write atomic
  | none => s

/-- rs1 + imm, imm sign-extended (R127). -/
def effAddr (c : CoreState) (rs1 : R5) (imm : Imm) : Nat := (c.sreg rs1 + imm.signExtend 64).toNat

/-- The physical address of a scalar access aligned to its size within the local windows (R125). -/
def scalarPhys (core a size : Nat) : Option Nat := if a % size = 0 then localPhys core a size else none

end Sys2Proof.Machine
end

