-- ==== Sys2Proof/Machine/Scalar.lean ====
section
/-!
DEFINITION. The scalar instructions of the control core (spec/04_vector_and_control.md, R124 to R130): arithmetic, predicates, branches, loads,
stores and local atomics.
-/
namespace Sys2Proof.Machine

/-- DIVU (R128). -/
def divu (a b : W64) : W64 := if b = 0 then BitVec.allOnes 64 else BitVec.ofNat 64 (a.toNat / b.toNat)
/-- REMU (R128). -/
def remu (a b : W64) : W64 := if b = 0 then a else BitVec.ofNat 64 (a.toNat % b.toNat)

/-- The condition codes of CMP and CMPI: 0 EQ, 1 NE, 2 LT, 3 GE (signed), 4 LTU, 5 GEU (Table 4.6). -/
def condHolds (cc : BitVec 3) (a b : W64) : Bool :=
  match cc.toNat with
  | 0 => a == b
  | 1 => a != b
  | 2 => BitVec.slt a b
  | 3 => !BitVec.slt a b
  | 4 => a.toNat < b.toNat
  | _ => !(a.toNat < b.toNat)

/-- A register-register operation: rd takes it and the core steps on. -/
def State.aluRR (s : State) (core : Core) (rd rs1 rs2 : R5) (f : W64 → W64 → W64) : State :=
  s.coreStep core true (fun s => s.modCore core (fun c => (c.setSreg rd (f (c.sreg rs1) (c.sreg rs2))).advance))

/-- A register-immediate operation. -/
def State.aluR (s : State) (core : Core) (legal : Bool) (rd rs1 : R5) (f : W64 → W64) : State :=
  s.coreStep core legal (fun s => s.modCore core (fun c => (c.setSreg rd (f (c.sreg rs1))).advance))

/-- An instruction that sets a predicate. -/
def State.setPredStep (s : State) (core : Core) (legal : Bool) (pd : P2) (f : CoreState → Bool) : State :=
  s.coreStep core legal (fun s => s.modCore core (fun c => (c.setPred pd (f c)).advance))

/-- Branch to PC + 4·off (R127). -/
def CoreState.jumpRel (c : CoreState) (off : W64) : CoreState := { c with pc := c.pc + 4 * off }

/-- The value of `size` loaded bytes, sign- or zero-extended. -/
def extendLoad (size : Nat) (signed : Bool) (v : Nat) : W64 :=
  if signed && v ≥ 2 ^ (8 * size - 1) then BitVec.ofInt 64 ((v : Int) - 2 ^ (8 * size)) else BitVec.ofNat 64 v

/-- A scalar load (R125, R127). -/
def State.load (s : State) (core : Core) (size : Nat) (signed : Bool) (rd rs1 : R5) (imm : Imm) : State :=
  let ea := effAddr (s.core core) rs1 imm
  s.coreStep core (scalarPhys core ea size).isSome (fun s => s.withRead core (scalarPhys core ea size) size (fun s v =>
    (s.presentOwn core size (scalarPhys core ea size) false false).modCore core (fun c => (c.setSreg rd (extendLoad size signed v)).advance)))

/-- A scalar store: the low bytes of the register the rd field names (Table 4.5). -/
def State.store (s : State) (core : Core) (size : Nat) (rd rs1 : R5) (imm : Imm) : State :=
  let ea := effAddr (s.core core) rs1 imm
  s.coreStep core (scalarPhys core ea size).isSome (fun s =>
    match scalarPhys core ea size with
    | none => s
    | some a => ((s.presentOwn core size (some a) true false).writePhys a (leBytes size ((s.core core).sreg rd).toNat)).modCore core CoreState.advance)

/-- A local atomic on a naturally aligned 64-bit word (R130): the word becomes `f word rs2 rd`, rd the old word. -/
def State.amo (s : State) (core : Core) (rd rs1 rs2 : R5) (f : W64 → W64 → W64 → W64) : State :=
  let ea := ((s.core core).sreg rs1).toNat
  s.coreStep core (scalarPhys core ea 8).isSome (fun s => s.withRead core (scalarPhys core ea 8) 8 (fun s v =>
    match scalarPhys core ea 8 with
    | none => s
    | some a =>
      let c := s.core core
      let old := BitVec.ofNat 64 v
      ((s.presentOwn core 8 (some a) false true).writePhys a (leBytes 8 (f old (c.sreg rs2) (c.sreg rd)).toNat)).modCore core
        (fun c => (c.setSreg rd old).advance)))

/-- ADD: rd = rs1 op rs2 (Table 4.6). -/
def execAdd (core : Core) (rd rs1 rs2 : R5) (s : State) : Host.Outcome State Fault Refusal :=
  .next (s.aluRR core rd rs1 rs2 (fun a b => a + b))

/-- SUB: rd = rs1 op rs2 (Table 4.6). -/
def execSub (core : Core) (rd rs1 rs2 : R5) (s : State) : Host.Outcome State Fault Refusal :=
  .next (s.aluRR core rd rs1 rs2 (fun a b => a - b))

/-- AND: rd = rs1 op rs2 (Table 4.6). -/
def execAnd (core : Core) (rd rs1 rs2 : R5) (s : State) : Host.Outcome State Fault Refusal :=
  .next (s.aluRR core rd rs1 rs2 (fun a b => a &&& b))

/-- OR: rd = rs1 op rs2 (Table 4.6). -/
def execOr (core : Core) (rd rs1 rs2 : R5) (s : State) : Host.Outcome State Fault Refusal :=
  .next (s.aluRR core rd rs1 rs2 (fun a b => a ||| b))

/-- XOR: rd = rs1 op rs2 (Table 4.6). -/
def execXor (core : Core) (rd rs1 rs2 : R5) (s : State) : Host.Outcome State Fault Refusal :=
  .next (s.aluRR core rd rs1 rs2 (fun a b => a ^^^ b))

/-- SLL (low 6 bits of rs2, R128): rd = rs1 op rs2 (Table 4.6). -/
def execSll (core : Core) (rd rs1 rs2 : R5) (s : State) : Host.Outcome State Fault Refusal :=
  .next (s.aluRR core rd rs1 rs2 (fun a b => a <<< (b.toNat % 64)))

/-- SRL (R128): rd = rs1 op rs2 (Table 4.6). -/
def execSrl (core : Core) (rd rs1 rs2 : R5) (s : State) : Host.Outcome State Fault Refusal :=
  .next (s.aluRR core rd rs1 rs2 (fun a b => a >>> (b.toNat % 64)))

/-- SRA (R128): rd = rs1 op rs2 (Table 4.6). -/
def execSra (core : Core) (rd rs1 rs2 : R5) (s : State) : Host.Outcome State Fault Refusal :=
  .next (s.aluRR core rd rs1 rs2 (fun a b => BitVec.sshiftRight a (b.toNat % 64)))

/-- MUL, low 64 bits: rd = rs1 op rs2 (Table 4.6). -/
def execMul (core : Core) (rd rs1 rs2 : R5) (s : State) : Host.Outcome State Fault Refusal :=
  .next (s.aluRR core rd rs1 rs2 (fun a b => a * b))

/-- MULHU, high 64 bits of the unsigned product: rd = rs1 op rs2 (Table 4.6). -/
def execMulhu (core : Core) (rd rs1 rs2 : R5) (s : State) : Host.Outcome State Fault Refusal :=
  .next (s.aluRR core rd rs1 rs2 (fun a b => BitVec.ofNat 64 (a.toNat * b.toNat / 2 ^ 64)))

/-- MIN, signed (R128): rd = rs1 op rs2 (Table 4.6). -/
def execMin (core : Core) (rd rs1 rs2 : R5) (s : State) : Host.Outcome State Fault Refusal :=
  .next (s.aluRR core rd rs1 rs2 (fun a b => if BitVec.slt a b then a else b))

/-- MAX, signed (R128): rd = rs1 op rs2 (Table 4.6). -/
def execMax (core : Core) (rd rs1 rs2 : R5) (s : State) : Host.Outcome State Fault Refusal :=
  .next (s.aluRR core rd rs1 rs2 (fun a b => if BitVec.slt a b then b else a))

/-- MINU: rd = rs1 op rs2 (Table 4.6). -/
def execMinu (core : Core) (rd rs1 rs2 : R5) (s : State) : Host.Outcome State Fault Refusal :=
  .next (s.aluRR core rd rs1 rs2 (fun a b => if a.toNat < b.toNat then a else b))

/-- MAXU: rd = rs1 op rs2 (Table 4.6). -/
def execMaxu (core : Core) (rd rs1 rs2 : R5) (s : State) : Host.Outcome State Fault Refusal :=
  .next (s.aluRR core rd rs1 rs2 (fun a b => if a.toNat < b.toNat then b else a))

/-- DIVU; by 0 all ones (R128): rd = rs1 op rs2 (Table 4.6). -/
def execDivu (core : Core) (rd rs1 rs2 : R5) (s : State) : Host.Outcome State Fault Refusal :=
  .next (s.aluRR core rd rs1 rs2 (fun a b => divu a b))

/-- REMU; by 0 rs1 (R128): rd = rs1 op rs2 (Table 4.6). -/
def execRemu (core : Core) (rd rs1 rs2 : R5) (s : State) : Host.Outcome State Fault Refusal :=
  .next (s.aluRR core rd rs1 rs2 (fun a b => remu a b))

/-- ADDI: rd = rs1 + imm, sign-extended (Table 4.5). -/
def execAddi (core : Core) (rd rs1 : R5) (imm : Imm) (s : State) : Host.Outcome State Fault Refusal :=
  .next (s.aluR core true rd rs1 (fun a => a + imm.signExtend 64))

/-- ANDI, imm zero-extended. -/
def execAndi (core : Core) (rd rs1 : R5) (imm : Imm) (s : State) : Host.Outcome State Fault Refusal :=
  .next (s.aluR core true rd rs1 (fun a => a &&& imm.zeroExtend 64))

/-- ORI, imm zero-extended. -/
def execOri (core : Core) (rd rs1 : R5) (imm : Imm) (s : State) : Host.Outcome State Fault Refusal :=
  .next (s.aluR core true rd rs1 (fun a => a ||| imm.zeroExtend 64))

/-- XORI, imm zero-extended. -/
def execXori (core : Core) (rd rs1 : R5) (imm : Imm) (s : State) : Host.Outcome State Fault Refusal :=
  .next (s.aluR core true rd rs1 (fun a => a ^^^ imm.zeroExtend 64))

/-- SLLI; imm[13:6] is RSVD (Table 4.5). -/
def execSlli (core : Core) (rd rs1 : R5) (rsvd : BitVec 8) (sh : BitVec 6) (s : State) : Host.Outcome State Fault Refusal :=
  .next (s.aluR core (rsvd == 0) rd rs1 (fun a => a <<< sh.toNat))

/-- SRLI; imm[13:6] is RSVD (Table 4.5). -/
def execSrli (core : Core) (rd rs1 : R5) (rsvd : BitVec 8) (sh : BitVec 6) (s : State) : Host.Outcome State Fault Refusal :=
  .next (s.aluR core (rsvd == 0) rd rs1 (fun a => a >>> sh.toNat))

/-- SRAI; imm[13:6] is RSVD (Table 4.5). -/
def execSrai (core : Core) (rd rs1 : R5) (rsvd : BitVec 8) (sh : BitVec 6) (s : State) : Host.Outcome State Fault Refusal :=
  .next (s.aluR core (rsvd == 0) rd rs1 (fun a => BitVec.sshiftRight a sh.toNat))

/-- MOVI: rd = imm, sign-extended; the rs1 field is RSVD. -/
def execMovi (core : Core) (rd rsvd : R5) (imm : Imm) (s : State) : Host.Outcome State Fault Refusal :=
  .next (s.aluR core (rsvd == 0) rd 0 (fun _ => imm.signExtend 64))

/-- SHORI: rd = (rd << 16) | imm, zero-extended; the rs1 field is RSVD. -/
def execShori (core : Core) (rd rsvd : R5) (imm : Imm) (s : State) : Host.Outcome State Fault Refusal :=
  .next (s.aluR core (rsvd == 0) rd rd (fun a => (a <<< 16) ||| imm.zeroExtend 64))

/-- CMP: pd = (rs1 cc rs2); codes 6 and 7 are reserved, [10:0] RSVD (R127). -/
def execCmp (core : Core) (pd : P2) (cc : BitVec 3) (rs1 rs2 : R5) (rsvd : BitVec 11) (s : State) : Host.Outcome State Fault Refusal :=
  .next (s.setPredStep core (cc.toNat < 6 && rsvd == 0) pd (fun c => condHolds cc (c.sreg rs1) (c.sreg rs2)))

/-- CMPI: pd = (rs1 cc imm), imm sign-extended. -/
def execCmpi (core : Core) (pd : P2) (cc : BitVec 3) (rs1 : R5) (imm : Imm) (s : State) : Host.Outcome State Fault Refusal :=
  .next (s.setPredStep core (cc.toNat < 6) pd (fun c => condHolds cc (c.sreg rs1) (imm.signExtend 64)))

/-- PAND (Table 4.7). -/
def execPand (core : Core) (pd pa pb : P2) (rsvd : R5) (s : State) : Host.Outcome State Fault Refusal :=
  .next (s.setPredStep core (rsvd == 0) pd (fun c => c.pred pa && c.pred pb))

/-- POR (Table 4.7). -/
def execPor (core : Core) (pd pa pb : P2) (rsvd : R5) (s : State) : Host.Outcome State Fault Refusal :=
  .next (s.setPredStep core (rsvd == 0) pd (fun c => c.pred pa || c.pred pb))

/-- PXOR (Table 4.7). -/
def execPxor (core : Core) (pd pa pb : P2) (rsvd : R5) (s : State) : Host.Outcome State Fault Refusal :=
  .next (s.setPredStep core (rsvd == 0) pd (fun c => c.pred pa != c.pred pb))

/-- PNOT (Table 4.7). -/
def execPnot (core : Core) (pd pa : P2) (rsvd : R5) (s : State) : Host.Outcome State Fault Refusal :=
  .next (s.setPredStep core (rsvd == 0) pd (fun c => !c.pred pa))

/-- PSET (Table 4.7). -/
def execPset (core : Core) (pd : P2) (rsvd : R5) (s : State) : Host.Outcome State Fault Refusal :=
  .next (s.setPredStep core (rsvd == 0) pd (fun _ => true))

/-- PCLR (Table 4.7). -/
def execPclr (core : Core) (pd : P2) (rsvd : R5) (s : State) : Host.Outcome State Fault Refusal :=
  .next (s.setPredStep core (rsvd == 0) pd (fun _ => false))

/-- TSTB: pd = bit [bit] of rs1 (Table 4.7). -/
def execTstb (core : Core) (pd : P2) (rs1 : R5) (bit : BitVec 6) (rsvd : R5) (s : State) : Host.Outcome State Fault Refusal :=
  .next (s.setPredStep core (rsvd == 0) pd (fun c => (c.sreg rs1).getLsbD bit.toNat))

/-- BR: if p equals T, branch to PC + 4·off. -/
def execBr (core : Core) (p : P2) (t : Bool) (off : BitVec 23) (s : State) : Host.Outcome State Fault Refusal :=
  .next (s.coreStep core true (fun s => s.modCore core (fun c => if c.pred p == t then c.jumpRel (off.signExtend 64) else c.advance)))

/-- J: PC = PC + 4·off. -/
def execJ (core : Core) (off : BitVec 26) (s : State) : Host.Outcome State Fault Refusal :=
  .next (s.coreStep core true (fun s => s.modCore core (fun c => c.jumpRel (off.signExtend 64))))

/-- JAL: s31 = PC + 4; PC = PC + 4·off (R124). -/
def execJal (core : Core) (off : BitVec 26) (s : State) : Host.Outcome State Fault Refusal :=
  .next (s.coreStep core true (fun s => s.modCore core (fun c => (c.setSreg 31 (c.pc + 4)).jumpRel (off.signExtend 64))))

/-- JALR: rd = PC + 4; PC = rs1; a target not aligned to 4 bytes is an illegal instruction (R125). -/
def execJalr (core : Core) (rd rs1 : R5) (rsvd : BitVec 16) (s : State) : Host.Outcome State Fault Refusal :=
  .next (s.coreStep core (rsvd == 0 && ((s.core core).sreg rs1).toNat % 4 == 0) (fun s => s.modCore core
    (fun c => { (c.setSreg rd (c.pc + 4)) with pc := c.sreg rs1 })))

/-- DBNZ: a zero rs falls through; else rs is decremented and a non-zero result branches (R129). -/
def execDbnz (core : Core) (rs : R5) (off : BitVec 21) (s : State) : Host.Outcome State Fault Refusal :=
  .next (s.coreStep core true (fun s => s.modCore core (fun c =>
    if c.sreg rs = 0 then c.advance
    else
      let v := c.sreg rs - 1
      let c' := c.setSreg rs v
      if v = 0 then c'.advance else c'.jumpRel (off.signExtend 64))))

/-- LdB: rd = memory[rs1 + imm], 1 bytes, sign-extended (R125, R127). -/
def execLdB (core : Core) (rd rs1 : R5) (imm : Imm) (s : State) : Host.Outcome State Fault Refusal :=
  .next (s.load core 1 true rd rs1 imm)

/-- LdBu: rd = memory[rs1 + imm], 1 bytes, zero-extended (R125, R127). -/
def execLdBu (core : Core) (rd rs1 : R5) (imm : Imm) (s : State) : Host.Outcome State Fault Refusal :=
  .next (s.load core 1 false rd rs1 imm)

/-- LdH: rd = memory[rs1 + imm], 2 bytes, sign-extended (R125, R127). -/
def execLdH (core : Core) (rd rs1 : R5) (imm : Imm) (s : State) : Host.Outcome State Fault Refusal :=
  .next (s.load core 2 true rd rs1 imm)

/-- LdHu: rd = memory[rs1 + imm], 2 bytes, zero-extended (R125, R127). -/
def execLdHu (core : Core) (rd rs1 : R5) (imm : Imm) (s : State) : Host.Outcome State Fault Refusal :=
  .next (s.load core 2 false rd rs1 imm)

/-- LdW: rd = memory[rs1 + imm], 4 bytes, sign-extended (R125, R127). -/
def execLdW (core : Core) (rd rs1 : R5) (imm : Imm) (s : State) : Host.Outcome State Fault Refusal :=
  .next (s.load core 4 true rd rs1 imm)

/-- LdWu: rd = memory[rs1 + imm], 4 bytes, zero-extended (R125, R127). -/
def execLdWu (core : Core) (rd rs1 : R5) (imm : Imm) (s : State) : Host.Outcome State Fault Refusal :=
  .next (s.load core 4 false rd rs1 imm)

/-- LdD: rd = memory[rs1 + imm], 8 bytes, zero-extended (R125, R127). -/
def execLdD (core : Core) (rd rs1 : R5) (imm : Imm) (s : State) : Host.Outcome State Fault Refusal :=
  .next (s.load core 8 false rd rs1 imm)

/-- StB: memory[rs1 + imm] = the low 1 bytes of the rd field's register (R125, R127). -/
def execStB (core : Core) (rd rs1 : R5) (imm : Imm) (s : State) : Host.Outcome State Fault Refusal :=
  .next (s.store core 1 rd rs1 imm)

/-- StH: memory[rs1 + imm] = the low 2 bytes of the rd field's register (R125, R127). -/
def execStH (core : Core) (rd rs1 : R5) (imm : Imm) (s : State) : Host.Outcome State Fault Refusal :=
  .next (s.store core 2 rd rs1 imm)

/-- StW: memory[rs1 + imm] = the low 4 bytes of the rd field's register (R125, R127). -/
def execStW (core : Core) (rd rs1 : R5) (imm : Imm) (s : State) : Host.Outcome State Fault Refusal :=
  .next (s.store core 4 rd rs1 imm)

/-- StD: memory[rs1 + imm] = the low 8 bytes of the rd field's register (R125, R127). -/
def execStD (core : Core) (rd rs1 : R5) (imm : Imm) (s : State) : Host.Outcome State Fault Refusal :=
  .next (s.store core 8 rd rs1 imm)

/-- AMO.ADD: rd = the old word, the word = the old word combined with rs2 (R130). -/
def execAmoAdd (core : Core) (rd rs1 rs2 : R5) (s : State) : Host.Outcome State Fault Refusal :=
  .next (s.amo core rd rs1 rs2 (fun w b _ => w + b))

/-- AMO.MIN: rd = the old word, the word = the old word combined with rs2 (R130). -/
def execAmoMin (core : Core) (rd rs1 rs2 : R5) (s : State) : Host.Outcome State Fault Refusal :=
  .next (s.amo core rd rs1 rs2 (fun w b _ => if BitVec.slt w b then w else b))

/-- AMO.MAX: rd = the old word, the word = the old word combined with rs2 (R130). -/
def execAmoMax (core : Core) (rd rs1 rs2 : R5) (s : State) : Host.Outcome State Fault Refusal :=
  .next (s.amo core rd rs1 rs2 (fun w b _ => if BitVec.slt w b then b else w))

/-- AMO.AND: rd = the old word, the word = the old word combined with rs2 (R130). -/
def execAmoAnd (core : Core) (rd rs1 rs2 : R5) (s : State) : Host.Outcome State Fault Refusal :=
  .next (s.amo core rd rs1 rs2 (fun w b _ => w &&& b))

/-- AMO.OR: rd = the old word, the word = the old word combined with rs2 (R130). -/
def execAmoOr (core : Core) (rd rs1 rs2 : R5) (s : State) : Host.Outcome State Fault Refusal :=
  .next (s.amo core rd rs1 rs2 (fun w b _ => w ||| b))

/-- AMO.XCHG: rd = the old word, the word = the old word combined with rs2 (R130). -/
def execAmoXchg (core : Core) (rd rs1 rs2 : R5) (s : State) : Host.Outcome State Fault Refusal :=
  .next (s.amo core rd rs1 rs2 (fun _ b _ => b))

/-- AMO.CAS: rd = the old word, the word = the old word combined with rs2 (R130). -/
def execAmoCas (core : Core) (rd rs1 rs2 : R5) (s : State) : Host.Outcome State Fault Refusal :=
  .next (s.amo core rd rs1 rs2 (fun w b c => if w = c then b else w))

end Sys2Proof.Machine
end

