-- ==== Sys2Proof/Machine/Control.lean ====
section
/-!
DEFINITION. Waiting for engines, issuing command blocks, summary words, system functions and CSRs of the control core
(spec/04_vector_and_control.md, R110, R122, R123, R131 to R133, R139, Tables 4.8 to 4.10).
-/
namespace Sys2Proof.Machine

/-! ### WAIT (R131, R132, Table 4.8) -/

/-- Whether what a core waits for has come, for the waits that count queued commands and for FENCE.L, which a store made at once always
satisfies. -/
def CoreState.waitMet (c : CoreState) : Bool :=
  match c.wait with
  | .mx n => c.matQ.length ≤ n
  | .vx n => c.vecQ.length ≤ n
  | .dma n => c.dmaQ.length ≤ n
  | .fenceL => true
  | _ => false

/-- End a wait and step past the waiting instruction. -/
def CoreState.endWait (c : CoreState) : CoreState := CoreState.advance { c with wait := .none }

/-- A WAIT instruction: done at once when its condition holds, else the core waits. -/
def State.waitStep (s : State) (core : Core) (legal : Bool) (w : Wait) : State :=
  s.coreStep core legal (fun s => s.modCore core (fun c =>
    let c' := { c with wait := w }
    if c'.waitMet then c'.endWait else c'))

/-- WAIT.MX n, n from 0 to 8 (Table 4.8). -/
def execWaitMx (core : Core) (rsvd : BitVec 3) (n : BitVec 8) (s : State) : Host.Outcome State Fault Refusal :=
  .next (s.waitStep core (rsvd == 0 && n.toNat ≤ 8) (.mx n.toNat))

/-- WAIT.VX n, n from 0 to 16. -/
def execWaitVx (core : Core) (rsvd : BitVec 3) (n : BitVec 8) (s : State) : Host.Outcome State Fault Refusal :=
  .next (s.waitStep core (rsvd == 0 && n.toNat ≤ 16) (.vx n.toNat))

/-- WAIT.DMA n, n from 0 to 32. -/
def execWaitDma (core : Core) (rsvd : BitVec 3) (n : BitVec 8) (s : State) : Host.Outcome State Fault Refusal :=
  .next (s.waitStep core (rsvd == 0 && n.toNat ≤ 32) (.dma n.toNat))

/-- FENCE.L: every earlier store and atomic of the control core has reached its bank; in this model each does so at once (log 99). -/
def execFenceL (core : Core) (rsvd : BitVec 3) (s : State) : Host.Outcome State Fault Refusal :=
  .next (s.waitStep core (rsvd == 0) .fenceL)

/-! ### WAITW (R133) -/

/-- WAITW pd, rs1, rs2: true at once when the word is at least rs2, unsigned; else the core waits from now on. -/
def execWaitw (core : Core) (pd : P2) (rs1 rs2 : R5) (rsvd : BitVec 3) (s : State) : Host.Outcome State Fault Refusal :=
  let a := ((s.core core).sreg rs1).toNat
  .next (s.coreStep core (rsvd == 0 && (scalarPhys core a 8).isSome) (fun s => s.withRead core (scalarPhys core a 8) 8 (fun s v =>
    s.modCore core (fun c =>
      if (c.sreg rs2).toNat ≤ v then (c.setPred pd true).advance
      else { c with wait := .word pd (c.sreg rs1) (c.sreg rs2) s.time.tb }))))

/-- Whether a core that waits could go on: its context runs. -/
def State.canWake (s : State) (core : Nat) : Bool :=
  let c := s.core core
  c.run == .running && c.wait != .none && s.enginesRun core

/-- A store or atomic to the word's bank has completed: the word is read again (R133). -/
def execWaitwWake (core : Core) (s : State) : Host.Outcome State Fault Refusal :=
  .next (if s.canWake core then
    match (s.core core).wait with
    | .word pd a v _ => s.withRead core (scalarPhys core a.toNat 8) 8 (fun s w =>
        if v.toNat ≤ w then s.modCore core (fun c => (c.setPred pd true).endWait) else s)
    | _ => s
  else s)

/-- WAIT_LIMIT ns of timebase have passed: pd is false and execution goes on (R133). A word that has come by then still sets
pd. Before the limit nothing happens (log 4). -/
def execWaitwTimeout (core : Core) (s : State) : Host.Outcome State Fault Refusal :=
  .next (if s.canWake core then
    match (s.core core).wait with
    | .word pd a v t0 =>
      if (s.core core).waitLimit.toNat * 2 ^ 24 ≤ s.time.tb - t0 then
        s.withRead core (scalarPhys core a.toNat 8) 8 (fun s w =>
          s.modCore core (fun c => (c.setPred pd (decide (v.toNat ≤ w))).endWait))
      else s
    | _ => s
  else s)

/-! ### ISSUE (R101, R131) -/

/-- The length of a queue and its limit: 0 matrix (8), 1 vector (16), 2 DMA (32). -/
def CoreState.queueFull (c : CoreState) (kind : Nat) : Bool :=
  match kind with
  | 0 => 8 ≤ c.matQ.length
  | 1 => 16 ≤ c.vecQ.length
  | _ => 32 ≤ c.dmaQ.length

/-- Put a copied block into its queue. -/
def CoreState.enqueue (c : CoreState) (kind : Nat) (block : List Byte) : CoreState :=
  match kind with
  | 0 => { c with matQ := c.matQ ++ [⟨block, false, 0, none⟩] }
  | 1 => { c with vecQ := c.vecQ ++ [.block block] }
  | _ => { c with dmaQ := c.dmaQ ++ [⟨block, false, 0, []⟩] }

/-- Copy the 64-byte block at the moment of issue and step on; a poisoned block faults the context. -/
def State.issueNow (s : State) (core : Nat) (kind : Nat) (a : W64) : State :=
  match scalarPhys core a.toNat 64 with
  | none => s.faultIllegal core
  | some p =>
    match s.checkSram p 64 with
    | (s, .ok) => s.modCore core (fun c => (c.enqueue kind (s.readPhys p 64)).endWait)
    | (s, .poisoned _) => s.faultData core 0
    | (s, .coreFailed) => s

/-- ISSUE: a block 64-byte aligned and wholly in the local windows, else an illegal instruction; a full queue makes the core wait. -/
def State.issueStep (s : State) (core : Core) (legal : Bool) (kind : Nat) (rs1 : R5) : State :=
  let a := (s.core core).sreg rs1
  s.coreStep core (legal && (scalarPhys core a.toNat 64).isSome) (fun s =>
    if (s.core core).queueFull kind then s.modCore core (fun c => { c with wait := .issue kind a })
    else s.issueNow core kind a)

/-- ISSUE MXI. -/
def execIssueMxi (core : Core) (rs1 : R5) (rsvd : BitVec 18) (s : State) : Host.Outcome State Fault Refusal :=
  .next (s.issueStep core (rsvd == 0) 0 rs1)

/-- ISSUE VXC. -/
def execIssueVxc (core : Core) (rs1 : R5) (rsvd : BitVec 18) (s : State) : Host.Outcome State Fault Refusal :=
  .next (s.issueStep core (rsvd == 0) 1 rs1)

/-- ISSUE DMAI. -/
def execIssueDmai (core : Core) (rs1 : R5) (rsvd : BitVec 18) (s : State) : Host.Outcome State Fault Refusal :=
  .next (s.issueStep core (rsvd == 0) 2 rs1)

/-- Room has come in the queue the core waits for: the waiting ISSUE or vector instruction goes in (R131). -/
def execQueueRoomFreed (core : Core) (s : State) : Host.Outcome State Fault Refusal :=
  .next (if s.canWake core then
    match (s.core core).wait with
    | .issue kind a => if (s.core core).queueFull kind then s else s.issueNow core kind a
    | .forward v => if (s.core core).queueFull 1 then s else s.modCore core (fun c => CoreState.endWait { c with vecQ := c.vecQ ++ [.instr v] })
    | _ => s
  else s)

/-! ### SUMR (R106, R122, R123, R135) -/

/-- Whether a queued vector instruction or block command pushes a summary word (R122). -/
def VItem.pushes (i : VItem) : Bool :=
  match i with
  | .instr v => (match v.op with | .red _ | .ext | .mpop | .mfirst => true | _ => false)
  | .block b => fieldN b 0 1 == 0x12
  | .part b _ => fieldN b 0 1 == 0x12
  | .worked _ _ p => p.isSome

/-- SUMR with fn 0: pop the oldest summary word; wait while one is in flight; with none an illegal instruction (R123). -/
def execSumrPop (core : Core) (rd : R5) (rsvd : BitVec 18) (s : State) : Host.Outcome State Fault Refusal :=
  let c0 := s.core core
  .next (s.coreStep core (rsvd == 0 && (!c0.summary.isEmpty || c0.vecQ.any VItem.pushes)) (fun s => s.modCore core (fun c =>
    match c.summary with
    | w :: rest => (CoreState.setSreg { c with summary := rest } rd w).advance
    | [] => { c with wait := .summary rd })))

/-- SUMR with fn 1: the status of the matrix command completed most recently (R106). -/
def execSumrLastMx (core : Core) (rd : R5) (rsvd : BitVec 18) (s : State) : Host.Outcome State Fault Refusal :=
  .next (s.coreStep core (rsvd == 0) (fun s => s.modCore core (fun c => (c.setSreg rd (c.lastMx.zeroExtend 64)).advance)))

/-- SUMR with fn 2: the OR of the statuses since the last such read, then cleared (R106). -/
def execSumrOrMx (core : Core) (rd : R5) (rsvd : BitVec 18) (s : State) : Host.Outcome State Fault Refusal :=
  .next (s.coreStep core (rsvd == 0) (fun s => s.modCore core (fun c =>
    (CoreState.setSreg { c with orMx := 0 } rd (c.orMx.zeroExtend 64)).advance)))

/-- SUMR with fn 3: the DMA status (R135). -/
def execSumrDma (core : Core) (rd : R5) (rsvd : BitVec 18) (s : State) : Host.Outcome State Fault Refusal :=
  .next (s.coreStep core (rsvd == 0) (fun s => s.modCore core (fun c => (c.setSreg rd c.dmaStatus).advance)))

/-! ### System functions (Tables 4.9, 4.10) -/

/-- YIELD: a core whose context is being stopped stops here; otherwise it does nothing (R139). -/
def execYield (core : Core) (rsvd : Bool) (s : State) : Host.Outcome State Fault Refusal :=
  .next (s.coreStep core (!rsvd) (fun s =>
    let stopNow := match (s.coreCtx core).bind s.ctxPhase? with
      | some .stopping => true
      | some .reclaiming => true
      | _ => false
    s.modCore core (fun c => if stopNow then { c.advance with run := .stopped } else c.advance)))

/-- RDTB: the local copy of the timebase, which lags the Table's by at most two steps and never decreases for one reader (R27). -/
def execRdtb (core : Core) (rd : R5) (rsvd : Bool) (lag : Fin 3) (s : State) : Host.Outcome State Fault Refusal :=
  .next (s.coreStep core (!rsvd) (fun s =>
    let v := (s.time.tb - lag.val * s.time.inc.toNat) / 2 ^ 24
    s.modCore core (fun c =>
      let w := max v c.lastRdtb
      (CoreState.setSreg { c with lastRdtb := w } rd (BitVec.ofNat 64 w)).advance)))

/-- The value of a CSR (Table 4.10); none for a reserved number. -/
def State.csr (s : State) (core n : Nat) : Option W64 :=
  let c := s.core core
  match n with
  | 0 => some (BitVec.ofNat 64 (s.coreId core))
  | 1 => some (BitVec.ofNat 64 ((s.coreCtx core).getD 0))
  | 2 => some (c.step.zeroExtend 64)
  | 3 => some c.srTensor
  | 4 => some c.srIndex
  | 5 => some c.waitLimit
  | 6 => some (c.vstat.zeroExtend 64)
  | 7 => some (BitVec.ofNat 64 c.vl)
  | 8 => some (s.sec.arithRev.zeroExtend 64)
  | _ => none

/-- CSRR: reg = the CSR numbered imm[11:0]; imm[15:12] RSVD (Table 4.9). A reserved number is an illegal instruction. -/
def execCsrr (core : Core) (rd : R5) (rsvd : Bool) (imm : Imm) (s : State) : Host.Outcome State Fault Refusal :=
  .next (s.coreStep core (!rsvd && (s.csr core imm.toNat).isSome) (fun s => s.modCore core (fun c =>
    (c.setSreg rd ((s.csr core imm.toNat).getD 0)).advance)))

/-- Write a CSR: SR_TENSOR, SR_INDEX ([63:48] RSVD) and WAIT_LIMIT store; VSTAT clears the bits written 1. -/
def CoreState.writeCsr (c : CoreState) (n : Nat) (v : W64) : CoreState :=
  match n with
  | 3 => { c with srTensor := v }
  | 4 => { c with srIndex := v &&& 0xFFFFFFFFFFFF#64 }
  | 5 => { c with waitLimit := v }
  | 6 => { c with vstat := c.vstat &&& ~~~(v.truncate 3) }
  | _ => c

/-- CSRW: a write to an RO or reserved CSR is an illegal instruction (Table 4.10, R114), and so is one whose imm [15:12] is not zero (log 129). -/
def execCsrw (core : Core) (rs : R5) (rsvd : Bool) (imm : Imm) (s : State) : Host.Outcome State Fault Refusal :=
  .next (s.coreStep core (!rsvd && 3 ≤ imm.toNat && imm.toNat ≤ 6) (fun s => s.modCore core (fun c =>
    (c.writeCsr imm.toNat (c.sreg rs)).advance)))

/-- VLMAX of a type code (Table 4.1); 0 for a reserved code. -/
def vlmax (ty : Nat) : Nat := match efmtOf ty with | some f => 2048 / efmtWidth f | none => 0

/-- SETVL: VL = min(rs1, VLMAX(type)), rs1 unsigned, also written to rd (R110). -/
def execSetvl (core : Core) (rd rs1 : R5) (rsvd : BitVec 12) (ty : Ty) (s : State) : Host.Outcome State Fault Refusal :=
  .next (s.coreStep core (rsvd == 0 && (efmtOf ty.toNat).isSome) (fun s => s.modCore core (fun c =>
    let n := min (c.sreg rs1).toNat (vlmax ty.toNat)
    (CoreState.setSreg { c with vl := n } rd (BitVec.ofNat 64 n)).advance)))

end Sys2Proof.Machine
end

