-- ==== Sys2Proof/Machine/Vector.lean ====
section
/-!
DEFINITION. The vector engine (spec/04_vector_and_control.md, R108 to R123, R499): how the control core checks and forwards a vector
instruction, and what the engine does with the instruction at the head of its queue.
-/
namespace Sys2Proof.Machine

/-! ### Elements of a register (R108, R35) -/

/-- The first n elements of width w of a register's bits. -/
def elemsOf (w n v : Nat) : List Nat := (List.range n).map (fun i => v / 2 ^ (w * i) % 2 ^ w)

/-- Elements of width w packed from the least significant end. -/
def packElems (w : Nat) (l : List Nat) : Nat :=
  match l with
  | [] => 0
  | x :: r => x % 2 ^ w + 2 ^ w * packElems w r

/-- A register with the elements the function answers replaced; every other bit is unchanged (R111). -/
def updElems (w n : Nat) (v : BitVec 2048) (f : Nat → Option Nat) : BitVec 2048 :=
  let old := elemsOf w n v.toNat
  BitVec.ofNat 2048 (packElems w ((List.range n).map (fun i => (f i).getD (old.getD i 0))))

/-- The mask register that governs a vector instruction; mask field 0 means unmasked (R109). -/
def CoreState.maskOn (c : CoreState) (mk : M3) (i : Nat) : Bool := if mk = 0 then true else (c.mreg mk).getLsbD i

/-! ### Element arithmetic -/

/-- A result code and the VSTAT events it raised. -/
structure ERes where
  code : Nat
  ev   : Nat
deriving DecidableEq, Repr

/-- Round an exact floating-point result into a format, with its events. -/
def fpRes (f : Fmt) (ops : List FNum) (x : FNum) : ERes :=
  let c := encodeIeee f x
  ⟨c, fpEvents ops (decodeFp f c)⟩

/-- A code already rounded, with its events. -/
def fpCode (f : Fmt) (ops : List FNum) (c : Nat) : ERes := ⟨c, fpEvents ops (decodeFp f c)⟩

/-- Saturate a whole number into an integer type (R114). -/
def intRes (w : Nat) (v : Int) : ERes :=
  let hi : Int := 2 ^ (w - 1) - 1
  let lo : Int := -(2 ^ (w - 1))
  if v > hi then ⟨intCode w hi, vstatSat⟩ else if v < lo then ⟨intCode w lo, vstatSat⟩ else ⟨intCode w v, 0⟩

/-- The two-operand operations VADD, VSUB, VMUL, VMIN, VMAX on codes (Table 4.11): 0 add, 1 sub, 2 mul, 3 min, 4 max. -/
def elem2 (f : EFmt) (op a b : Nat) : ERes :=
  match f with
  | .fp g =>
    let x := decodeFp g a
    let y := decodeFp g b
    match op with
    | 0 => fpRes g [x, y] (fadd x y)
    | 1 => fpRes g [x, y] (fsub x y)
    | 2 => fpRes g [x, y] (fmul x y)
    | 3 => if x.isNan || y.isNan then ⟨encodeIeee g .nan, 0⟩ else if fltZ y x then ⟨b, 0⟩ else ⟨a, 0⟩
    | _ => if x.isNan || y.isNan then ⟨encodeIeee g .nan, 0⟩ else if fltZ x y then ⟨b, 0⟩ else ⟨a, 0⟩
  | _ =>
    let w := efmtWidth f
    let x := intOf w a
    let y := intOf w b
    match op with
    | 0 => intRes w (x + y)
    | 1 => intRes w (x - y)
    | 2 => intRes w (x * y)
    | 3 => ⟨if y < x then b else a, 0⟩
    | _ => ⟨if x < y then b else a, 0⟩

/-- VMAC: rn(vd + rn(vs1·vs2)), two roundings (R113); integers saturate at each. -/
def elemMac (f : EFmt) (d a b : Nat) : ERes :=
  let p := elem2 f 2 a b
  let r := elem2 f 0 d p.code
  ⟨r.code, p.ev ||| r.ev⟩

/-- The one-operand operations on codes: VABS, VNEG, VRCP, VSQRT, VRSQRT, VEXP. -/
def elem1 (f : EFmt) (op : VOp) (a : Nat) : ERes :=
  match f with
  | .fp g =>
    let x := decodeFp g a
    match op with
    | .abs => ⟨encodeIeee g x.abs, 0⟩
    | .neg => ⟨encodeIeee g x.neg, 0⟩
    | .rcp => fpRes g [x] (fdiv (.fin false 1 1 0) x)
    | .sqrt => fpCode g [x] (fsqrtCode g x)
    | .rsqrt => fpCode g [x] (frsqrtCode g x)
    | .exp => fpCode g [x] (fexpCode g x)
    | _ => ⟨a, 0⟩
  | _ =>
    let w := efmtWidth f
    match op with
    | .abs => intRes w (intOf w a).natAbs
    | .neg => intRes w (-(intOf w a))
    | _ => ⟨a, 0⟩

/-- The relations of VCMP: 0 EQ, 1 NE, 2 LT, 3 LE, 4 GT, 5 GE; with a NaN only NE holds (R116). -/
def cmpHolds (f : EFmt) (fn a b : Nat) : Bool :=
  let x := decodeElem f a
  let y := decodeElem f b
  if x.isNan || y.isNan then fn == 1
  else
    match fn with
    | 0 => fcmp x y == .eq
    | 1 => fcmp x y != .eq
    | 2 => fcmp x y == .lt
    | 3 => fcmp x y != .gt
    | 4 => fcmp x y == .gt
    | _ => fcmp x y != .lt

/-! ### Reductions (R118 to R121) -/

/-- One level of the tree: neighbours combined, events collected. -/
def treeLevel (op : Nat → Nat → ERes) (l : List Nat) : List Nat × Nat :=
  match l with
  | a :: b :: r =>
    let h := op a b
    let t := treeLevel op r
    (h.code :: t.1, h.ev ||| t.2)
  | _ => (l, 0)

/-- The fixed tree over a list of N codes (R118). -/
def treeReduce (op : Nat → Nat → ERes) (fuel : Nat) (l : List Nat) : Nat × Nat :=
  match fuel with
  | 0 => (l.headD 0, 0)
  | k + 1 =>
    match l with
    | [] => (0, 0)
    | [a] => (a, 0)
    | _ =>
      let t := treeLevel op l
      let r := treeReduce op k t.1
      (r.1, t.2 ||| r.2)

/-- The identity of a reduction (Table 4.2): 0 SUM, 1 MAX, 2 MIN, 3 PROD, 4 MEAN. -/
def redIdentity (f : EFmt) (op : Nat) : Nat :=
  match f with
  | .fp g =>
    match op with
    | 1 => encodeIeee g (.inf true)
    | 2 => encodeIeee g (.inf false)
    | 3 => encodeIeee g (.fin false 1 1 0)
    | _ => 0
  | _ =>
    let w := efmtWidth f
    match op with
    | 1 => intCode w (-(2 ^ (w - 1) : Int))
    | 2 => intCode w (2 ^ (w - 1) - 1)
    | 3 => 1
    | _ => 0

/-- The node of a reduction's tree: 0 add, 2 mul, 3 min, 4 max of `elem2`. -/
def redNode (op : Nat) : Nat :=
  match op with
  | 1 => 4
  | 2 => 3
  | 3 => 2
  | _ => 0

/-- Mean of a tree sum: one correctly rounded division, or truncation toward zero for integers (R120). -/
def meanOf (f : EFmt) (sum count : Nat) : ERes :=
  match f with
  | .fp g =>
    let x := decodeFp g sum
    fpRes g [x] (fdiv x (.fin false count 1 0))
  | _ =>
    let w := efmtWidth f
    ⟨intCode w (Int.tdiv (intOf w sum) (count : Int)), 0⟩

/-- The result of a reduction: its value, summary flags, count, events, and whether it also writes element 0 of vd. -/
structure RedRes where
  value : Nat
  flags : SumFlags
  count : Nat
  ev    : Nat
deriving DecidableEq, Repr

/-- VRED.SUM, MAX, MIN, PROD and MEAN over the active codes given by index (R118 to R120). The nodes of the tree raise their events in VSTAT
whether or not an element is NaN (R114). -/
def reduceCodes (f : EFmt) (op : Nat) (act : List (Option Nat)) : RedRes :=
  let vals := act.filterMap id
  let nums := vals.map (decodeElem f)
  let anyNan := nums.any FNum.isNan
  let anyInf := nums.any FNum.isInf
  let cnt := vals.length
  let idn := redIdentity f op
  let canonNan := match f with | .fp g => encodeIeee g .nan | _ => 0
  if cnt = 0 then ⟨if op = 4 then 0 else idn, ⟨true, false, false, false⟩, 0, 0⟩
  else if anyNan && (op == 0 || op == 3 || op == 4) then
    ⟨canonNan, ⟨false, true, false, anyInf⟩, cnt, (treeReduce (elem2 f (redNode op)) 12 (act.map (·.getD idn))).2⟩
  else if nums.all FNum.isNan then ⟨canonNan, ⟨false, true, false, anyInf⟩, cnt, 0⟩
  else
    let leaves := act.map (fun o => match o with
      | some c => if (decodeElem f c).isNan then idn else c
      | none => idn)
    let t := treeReduce (elem2 f (redNode op)) 12 leaves
    let sat := t.2 % 2 == 1
    let m := if op = 4 then meanOf f t.1 cnt else ⟨t.1, 0⟩
    ⟨m.code, ⟨false, anyNan, sat, anyInf⟩, cnt, t.2 ||| m.ev⟩

/-- VRED.ARGMAX and ARGMIN: the lowest index among equal extremes, skipping NaN (R120). -/
def argCodes (f : EFmt) (isMax : Bool) (act : List (Option Nat)) : RedRes :=
  let items := (List.range act.length).filterMap (fun i => (act.getD i none).map (fun c => (i, decodeElem f c)))
  let nums := items.filter (fun p => !p.2.isNan)
  let anyNan := items.any (fun p => p.2.isNan)
  let anyInf := items.any (fun p => p.2.isInf)
  match nums with
  | [] => ⟨0xFFFFFFFF, ⟨items.isEmpty, anyNan, false, anyInf⟩, items.length, 0⟩
  | p :: r =>
    let best := r.foldl (fun b q => if isMax then (if fltZ b.2 q.2 then q else b) else (if fltZ q.2 b.2 then q else b)) p
    ⟨best.1, ⟨false, anyNan, false, anyInf⟩, items.length, 0⟩

/-- The result of softmax: the row below n, the summary fields, the events. -/
structure SoftRes where
  row   : List Nat
  value : Nat
  flags : SumFlags
  count : Nat
  ev    : Nat
deriving DecidableEq, Repr

/-- Softmax in a format (R121, R499). `act` gives the code of each element of a whole register, none where it is not active; `n` is
the number of elements written. -/
def softmaxCodes (g : Fmt) (act : List (Option Nat)) (n : Nat) : SoftRes :=
  let f : EFmt := .fp g
  let negInf := encodeIeee g (.inf true)
  let inA (o : Option Nat) : Bool := match o with | some c => decodeFp g c != .inf true | none => false
  let nums := (act.filter inA).filterMap (fun o => o.map (decodeFp g))
  let k := (nums.filter (fun x => x == .inf false)).length
  if nums.isEmpty then ⟨List.replicate n 0, 0, ⟨true, false, false, false⟩, 0, 0⟩
  else if nums.any FNum.isNan then
    let q := encodeIeee g .nan
    ⟨List.replicate n q, q, ⟨false, true, false, false⟩, nums.length, 0⟩
  else if 0 < k then
    let v := encodeIeee g (.fin false 1 k 0)
    ⟨(act.take n).map (fun o => match o with | some c => if decodeFp g c = .inf false then v else 0 | none => 0),
      encodeIeee g (.inf false), ⟨false, false, false, true⟩, nums.length, 0⟩
  else
    let mx := (treeReduce (elem2 f 4) 12 (act.map (fun o => if inA o then o.getD 0 else negInf))).1
    let es := act.map (fun o => if inA o then
        let d := elem2 f 1 (o.getD 0) mx
        let e := elem1 f .exp d.code
        (⟨e.code, d.ev ||| e.ev⟩ : ERes) else ⟨0, 0⟩)
    let t := treeReduce (elem2 f 0) 12 (es.map (·.code))
    let outs := (es.take n).map (fun e => fpRes g [decodeFp g e.code] (fdiv (decodeFp g e.code) (decodeFp g t.1)))
    ⟨outs.map (·.code), t.1, ⟨false, false, false, false⟩, nums.length,
      (es.foldl (fun a e => a ||| e.ev) 0) ||| t.2 ||| (outs.foldl (fun a e => a ||| e.ev) 0)⟩

/-! ### Forwarding (R112, R126, R131) -/

/-- Types marked "yes" under Arithmetic in Table 4.1. -/
def arithType (ty : Ty) : Bool := ty == 0x3 || ty == 0x8 || ty == 0x9 || ty == 0xA || ty == 0xB
/-- Types of VRCP, VSQRT, VRSQRT, VEXP and softmax (R112). -/
def floatType (ty : Ty) : Bool := ty == 0x8 || ty == 0x9 || ty == 0xA
/-- Any type code that is not reserved (Table 4.1). -/
def anyType (ty : Ty) : Bool := (efmtOf ty.toNat).isSome

/-- A vector instruction with what the control core reads when it forwards it. -/
def CoreState.vinstr (c : CoreState) (op : VOp) (ty : Ty) : VInstr where
  op := op
  vd := 0
  vs1 := 0
  vs2 := 0
  mask := 0
  md := 0
  ma := 0
  mb := 0
  ty := ty
  scalar := 0
  base := 0
  packed := true
  vl := c.vl
  srTensor := c.srTensor.truncate 32
  srIndex := c.srIndex

/-- Forward a vector instruction: illegal ones fault, a full queue makes the core wait (R131). -/
def State.forward (s : State) (core : Core) (legal : Bool) (v : CoreState → VInstr) : State :=
  s.coreStep core legal (fun s => s.modCore core (fun c =>
    if c.queueFull 1 then { c with wait := .forward (v c) }
    else CoreState.advance { c with vecQ := c.vecQ ++ [.instr (v c)] }))

/-- A VOP instruction with two vector operands. -/
def State.fwdVV (s : State) (core : Core) (legal : Bool) (op : VOp) (vd vs1 vs2 : R5) (mk : M3) (ty : Ty) : State :=
  s.forward core legal (fun c => { c.vinstr op ty with vd := vd, vs1 := vs1, vs2 := vs2, mask := mk })

/-- A VOPS instruction: the scalar operand is read now. -/
def State.fwdVS (s : State) (core : Core) (legal : Bool) (op : VOp) (vd vs1 rs : R5) (mk : M3) (ty : Ty) : State :=
  s.forward core legal (fun c => { c.vinstr op ty with vd := vd, vs1 := vs1, mask := mk, scalar := c.sreg rs })

/-- A VMSK instruction; [16:4] is RSVD. -/
def State.fwdMask (s : State) (core : Core) (op : VOp) (md ma mb : M3) (rsvd : BitVec 13) : State :=
  s.forward core (rsvd == 0) (fun c => { c.vinstr op 0 with md := md, ma := ma, mb := mb })

/-- The types, PART and counts of a conversion (R115): the limit of PART, and the first source and destination element. -/
def cvtShape (src dst part : Nat) : Nat × Nat × Nat :=
  let vf := vlmax src
  let vt := vlmax dst
  if vt < vf then (vf / vt, part * vt, 0)
  else if vf < vt then (vt / vf, 0, part * vf)
  else (1, 0, 0)

/-! ### Execution -/

/-- What an executed vector instruction leaves: the core, the summary word it pushes, and the events of R53. -/
structure VRes where
  core     : CoreState
  push     : Option W64
  headroom : Nat
  nonfin   : Nat
deriving DecidableEq, Repr

/-- Elements of a register governed by an instruction: those active below n, none elsewhere. -/
def CoreState.activeCodes (c : CoreState) (v : VInstr) (r : R5) : List (Option Nat) :=
  let N := vlmax v.ty.toNat
  let w := 2048 / N
  let n := min v.vl N
  let es := elemsOf w N (c.vreg r).toNat
  (List.range N).map (fun i => if i < n && c.maskOn v.mask i then some (es.getD i 0) else none)

/-- Apply an element operation to every active element: the destination, with the events it raised. -/
def CoreState.mapActive (c : CoreState) (v : VInstr) (f : Nat → ERes) : CoreState :=
  let N := vlmax v.ty.toNat
  let w := 2048 / N
  let n := min v.vl N
  let rs := (List.range N).map (fun i => if i < n && c.maskOn v.mask i then some (f i) else none)
  let ev := rs.foldl (fun a o => a ||| (o.map (·.ev)).getD 0) 0
  (c.setVreg v.vd (updElems w N (c.vreg v.vd) (fun i => ((rs.getD i none).map (·.code))))).addVstat ev

/-- Element i of a register in a type. -/
def CoreState.elemAt (c : CoreState) (ty : Ty) (r : R5) (i : Nat) : Nat :=
  let w := 2048 / vlmax ty.toNat
  (c.vreg r).toNat / 2 ^ (w * i) % 2 ^ w

/-- Mask registers of a VMSK instruction combined; MPOP and MFIRST push a summary (Table 4.11, R499). -/
def CoreState.runMask (c : CoreState) (v : VInstr) : CoreState × Option W64 :=
  let a := c.mreg v.ma
  let b := c.mreg v.mb
  match v.op with
  | .mand => (c.setMreg v.md (a &&& b), none)
  | .mor => (c.setMreg v.md (a ||| b), none)
  | .mxor => (c.setMreg v.md (a ^^^ b), none)
  | .mandn => (c.setMreg v.md (a &&& ~~~b), none)
  | .mnot => (c.setMreg v.md (~~~a), none)
  | .mset => (c.setMreg v.md (BitVec.allOnes 1024), none)
  | .mclr => (c.setMreg v.md 0, none)
  | .mpop => (c, some (summaryWord ((List.range v.vl).filter (fun i => a.getLsbD i)).length ⟨false, false, false, false⟩ 0 9 v.vl))
  | .mfirst => match (List.range v.vl).find? (fun i => a.getLsbD i) with
    | some i => (c, some (summaryWord i ⟨false, false, false, false⟩ 0 10 v.vl))
    | none => (c, some (summaryWord 0xFFFFFFFF ⟨true, false, false, false⟩ 0 10 v.vl))
  | _ => (c, none)

/-- The VSTAT events of one converted element (R114): a value forced to a saturated one, and an infinity made of a finite value. -/
def cvtEvents (f : EFmt) (x : FNum) (r : Conv) : Nat :=
  fpEvents [x] (decodeElem f r.code) ||| (if r.headroom then vstatSat else 0)

/-- VCVT (R115, R52 to R60); its events set VSTAT (R114). Into FP32 and INT32, which Table 2.8 leaves out, see log 115. -/
def CoreState.runCvt (c : CoreState) (srKey : W64) (v : VInstr) (part dst : Nat) (sr ieee : Bool) : VRes :=
  let src := v.ty.toNat
  match efmtOf src, efmtOf dst with
  | some fs, some fd =>
    let sh := cvtShape src dst part
    let n := min v.vl (min (vlmax src) (vlmax dst))
    let ws := efmtWidth fs
    let wd := efmtWidth fd
    let xs := elemsOf ws (vlmax src) (c.vreg v.vs1).toNat
    let ie := (ieee && (dst == 0x2 || dst == 0x8 || dst == 0xA)) || dst == 0x9
    let rs := (List.range n).map (fun i =>
      let x := decodeElem fs (xs.getD (i + sh.2.1) 0)
      let d := i + sh.2.2
      let r : Rnd := if sr then .sr (srBits srKey v.srTensor ((v.srIndex + BitVec.ofNat 64 d) &&& 0xFFFFFFFFFFFF#64) c.step) else .rne
      let y := convert fd r ie x
      (y, x.isNan || x.isInf, cvtEvents fd x y))
    let out := updElems wd (vlmax dst) (c.vreg v.vd) (fun j =>
      if sh.2.2 ≤ j && j < sh.2.2 + n then some (rs.getD (j - sh.2.2) (⟨0, false⟩, false, 0)).1.code else none)
    ⟨(c.setVreg v.vd out).addVstat (rs.foldl (fun a r => a ||| r.2.2) 0), none, (rs.filter (fun r => r.1.headroom)).length, (rs.filter (fun r => r.2.1)).length⟩
  | _, _ => ⟨c, none, 0, 0⟩

/-- A reduction writes element 0 of vd and pushes its summary (R120). -/
def CoreState.finishRed (c : CoreState) (v : VInstr) (fn : Nat) (r : RedRes) (writes : Bool) : VRes :=
  let N := vlmax v.ty.toNat
  let c1 := if writes then c.setVreg v.vd (updElems (2048 / N) N (c.vreg v.vd) (fun i => if i = 0 then some r.value else none)) else c
  ⟨c1.addVstat r.ev, some (summaryWord r.value r.flags v.ty.toNat fn r.count), 0, 0⟩

/-- A vector instruction that touches no memory. -/
def CoreState.runV (c : CoreState) (srKey : W64) (v : VInstr) : VRes :=
  let f := (efmtOf v.ty.toNat).getD (.int 8)
  let w := efmtWidth f
  let s := v.scalar.toNat % 2 ^ w
  let e1 := fun i => c.elemAt v.ty v.vs1 i
  let e2 := fun i => c.elemAt v.ty v.vs2 i
  let plain (c' : CoreState) : VRes := ⟨c', none, 0, 0⟩
  match v.op with
  | .add => plain (c.mapActive v (fun i => elem2 f 0 (e1 i) (e2 i)))
  | .sub => plain (c.mapActive v (fun i => elem2 f 1 (e1 i) (e2 i)))
  | .mul => plain (c.mapActive v (fun i => elem2 f 2 (e1 i) (e2 i)))
  | .mac => plain (c.mapActive v (fun i => elemMac f (c.elemAt v.ty v.vd i) (e1 i) (e2 i)))
  | .min => plain (c.mapActive v (fun i => elem2 f 3 (e1 i) (e2 i)))
  | .max => plain (c.mapActive v (fun i => elem2 f 4 (e1 i) (e2 i)))
  | .mov => plain (c.mapActive v (fun i => ⟨e1 i, 0⟩))
  | .merge => plain (c.mapActive { v with mask := 0 } (fun i => ⟨if c.maskOn v.mask i then e1 i else e2 i, 0⟩))
  | .adds => plain (c.mapActive v (fun i => elem2 f 0 (e1 i) s))
  | .subs => plain (c.mapActive v (fun i => elem2 f 1 (e1 i) s))
  | .muls => plain (c.mapActive v (fun i => elem2 f 2 (e1 i) s))
  | .mins => plain (c.mapActive v (fun i => elem2 f 3 (e1 i) s))
  | .maxs => plain (c.mapActive v (fun i => elem2 f 4 (e1 i) s))
  | .splat => plain (c.mapActive v (fun _ => ⟨s, 0⟩))
  | .ext =>
    let n := min v.vl (vlmax v.ty.toNat)
    if v.scalar.toNat < n then
      ⟨c, some (summaryWord (e1 v.scalar.toNat) ⟨false, false, false, false⟩ v.ty.toNat 8 1), 0, 0⟩
    else ⟨c, some (summaryWord 0 ⟨true, false, false, false⟩ v.ty.toNat 8 0), 0, 0⟩
  | .cmp fn =>
    let n := min v.vl (vlmax v.ty.toNat)
    let old := c.mreg v.md
    let bits := (List.range 1024).map (fun i =>
      if i < n && c.maskOn v.mask i then (cmpHolds f fn (e1 i) (e2 i)).toNat else (old.getLsbD i).toNat)
    plain (c.setMreg v.md (BitVec.ofNat 1024 (packElems 1 bits)))
  | .red fn =>
    let act := c.activeCodes v v.vs1
    if fn = 7 then
      match f with
      | .fp g =>
        let N := vlmax v.ty.toNat
        let r := softmaxCodes g act (min v.vl N)
        let c1 := c.setVreg v.vd (updElems w N (c.vreg v.vd) (fun i => r.row[i]?))
        ⟨c1.addVstat r.ev, some (summaryWord r.value r.flags v.ty.toNat 7 r.count), 0, 0⟩
      | _ => plain c
    else if fn = 5 ∨ fn = 6 then c.finishRed v fn (argCodes f (fn == 5) act) false
    else c.finishRed v fn (reduceCodes f fn act) true
  | .cvt part dst sr ieee => c.runCvt srKey v part dst sr ieee
  | .ld | .st | .ldm | .stm => plain c
  | .abs | .neg | .rcp | .sqrt | .rsqrt | .exp => plain (c.mapActive v (fun i => elem1 f v.op (e1 i)))
  | _ => let r := c.runMask v; ⟨r.1, r.2, 0, 0⟩

/-- Why the engine could not finish an instruction. -/
inductive VErr where
  | illegal
  | poisoned
  | coreFailed
deriving DecidableEq, Repr

/-- Check every (address, length) of a list against the local windows and the state of the words read. -/
def State.checkPieces (s : State) (core : Nat) (reads : Bool) (ps : List (Nat × Nat)) : State × Option VErr :=
  match ps with
  | [] => (s, none)
  | (a, n) :: r =>
    match localPhys core a n with
    | none => (s, some .illegal)
    | some p =>
      if reads then
        match s.checkSram p n with
        | (s, .ok) => s.checkPieces core reads r
        | (s, .poisoned _) => (s, some .poisoned)
        | (s, .coreFailed) => (s, some .coreFailed)
      else s.checkPieces core reads r

/-- The bits of n bytes at a local address as a number. -/
def State.localNat (s : State) (core a n : Nat) : Nat :=
  match localPhys core a n with
  | some p => s.readNat p n
  | none => 0

/-- Write bytes at a local address. -/
def State.localWrite (s : State) (core a : Nat) (bs : List Byte) : State :=
  match localPhys core a bs.length with
  | some p => s.writePhys p bs
  | none => s

/-- The element byte pieces of a VLD or VST: for each active element, its index, address, bytes and bit offset (R117). -/
def CoreState.vmemPieces (c : CoreState) (v : VInstr) : List (Nat × Nat × Nat × Nat) :=
  let N := vlmax v.ty.toNat
  let w := 2048 / N
  let n := min v.vl N
  let b := v.base.toNat
  ((List.range n).filter (c.maskOn v.mask)).map (fun i =>
    if w < 8 then (i, (b + i * w / 8) % 2 ^ 64, 1, i * w % 8)
    else if v.packed then (i, (b + i * (w / 8)) % 2 ^ 64, w / 8, 0)
    else (i, (v.base + BitVec.ofNat 64 i * v.scalar).toNat, w / 8, 0))

/-- The bytes of a list of pieces that its elements of w bits do not cover whole: those whose other bits are kept, and so read. -/
def partBytes (w : Nat) (ps : List (Nat × Nat × Nat × Nat)) : List (Nat × Nat) :=
  (ps.filter (fun p => w < 8 && (ps.filter (fun q => q.2.1 == p.2.1)).length * w < 8)).map (fun p => (p.2.1, 1))

/-- Check all bytes of an access against the local windows, and the words of those that are read. -/
def State.checkAccess (s : State) (core : Nat) (all reads : List (Nat × Nat)) : State × Option VErr :=
  match s.checkPieces core false all with
  | (s, none) => s.checkPieces core true reads
  | r => r

/-- The vector engine presents an access to local ranges (Table 5.2). -/
def State.presentVec (s : State) (core : Nat) (l : List (Nat × Nat)) (write : Bool) : State :=
  s.present (.engine core 1) (l.filterMap (fun p => (localPhys core p.1 p.2).map (fun a => (a, p.2)))) write false

/-- Execute VLD, VST, VLDM or VSTM (R117). A byte that a VST writes in part, and the last byte of a VSTM that it writes in part, are read for the bits they keep (log 126). -/
def State.runVmem (s : State) (core : Nat) (v : VInstr) : State × Option VErr :=
  let c := s.core core
  let w := 2048 / vlmax v.ty.toNat
  match v.op with
  | .ld =>
    let ps := c.vmemPieces v
    let l := ps.map (fun p => (p.2.1, p.2.2.1))
    match s.checkAccess core l l with
    | (s, some e) => (s, some e)
    | (s, none) =>
      let vals := ps.map (fun p => (p.1, s.localNat core p.2.1 p.2.2.1 / 2 ^ p.2.2.2 % 2 ^ w))
      ((s.presentVec core l false).setCore core (c.setVreg v.vd (updElems w (vlmax v.ty.toNat) (c.vreg v.vd) (fun i => tabFind vals i))), none)
  | .st =>
    let ps := c.vmemPieces v
    let l := ps.map (fun p => (p.2.1, p.2.2.1))
    match s.checkAccess core l (partBytes w ps) with
    | (s, some e) => (s, some e)
    | (s, none) =>
      (ps.foldl (fun s p =>
        let x := c.elemAt v.ty v.vd p.1
        if w < 8 then
          let old := s.localNat core p.2.1 1
          s.localWrite core p.2.1 (leBytes 1 (old - (old / 2 ^ p.2.2.2 % 2 ^ w) * 2 ^ p.2.2.2 + x * 2 ^ p.2.2.2))
        else s.localWrite core p.2.1 (leBytes p.2.2.1 x)) (s.presentVec core l true), none)
  | .ldm =>
    let nb := ceilDiv v.vl 8
    let l := if nb = 0 then [] else [(v.base.toNat, nb)]
    match s.checkAccess core l l with
    | (s, some e) => (s, some e)
    | (s, none) =>
      let x := s.localNat core v.base.toNat nb % 2 ^ v.vl
      let old := (c.mreg v.md).toNat
      ((s.presentVec core l false).setCore core (c.setMreg v.md (BitVec.ofNat 1024 (old / 2 ^ v.vl * 2 ^ v.vl + x))), none)
  | _ =>
    let nb := ceilDiv v.vl 8
    let l := if nb = 0 then [] else [(v.base.toNat, nb)]
    match s.checkAccess core l (if v.vl % 8 = 0 then [] else [(v.base.toNat + (nb - 1), 1)]) with
    | (s, some e) => (s, some e)
    | (s, none) =>
      let old := s.localNat core v.base.toNat nb
      let x := (c.mreg v.md).toNat % 2 ^ v.vl
      ((s.presentVec core l true).localWrite core v.base.toNat (leBytes nb (old / 2 ^ v.vl * 2 ^ v.vl + x)), none)

/-- Count headroom events and non-finite inputs for a core's context (R53): in the context's block and in its function's. -/
def State.countR53 (s : State) (ctx hr nf : Nat) : State :=
  (((s.count (offHeadroom ctx) hr).count (offNonfinite ctx) nf).count (fnReg ctx offHeadroomFn) hr).count (fnReg ctx offNonfiniteFn) nf

/-- The SR_KEY of the context a core works for (R57). -/
def State.srKeyOf (s : State) (core : Nat) : W64 := (((s.coreCtx core).bind s.ctx?).map (·.srKey)).getD 0

/-- Take the finished entry from the head of the vector queue and push its summary word, delivering it to a SUMR that waits
(R123). -/
def CoreState.popVector (c : CoreState) (push : Option W64) : CoreState :=
  let c := { c with vecQ := c.vecQ.drop 1 }
  match push with
  | none => c
  | some w =>
    match c.wait, c.summary with
    | .summary rd, [] => (c.setSreg rd w).endWait
    | _, _ => { c with summary := c.summary ++ [w] }

/-- Whether a summary word can be pushed: the queue holds 8, and a waiting SUMR takes one from an empty queue. -/
def CoreState.canPush (c : CoreState) : Bool := c.summary.length < 8

/-- The vector engine completes the entry at the head of its queue: an instruction runs and pushes its summary, a worked block command
writes its record or pushes its summary. With the summary queue full it waits (R123). An engine that is being stopped begins no instruction (R423). -/
def execVectorInstructionComplete (core : Core) (s : State) : Host.Outcome State Fault Refusal :=
  .next (if s.enginesRun core then
    match (s.core core).vecQ with
    | .instr v :: _ =>
      if !s.enginesBegin core then s
      else if (VItem.instr v).pushes && !(s.core core).canPush then s
      else match v.op with
      | .ld | .st | .ldm | .stm =>
        match s.runVmem core v with
        | (s, none) => s.modCore core (fun c => c.popVector none)
        | (s, some .illegal) => s.faultIllegal core
        | (s, some .poisoned) => s.faultData core 0
        | (s, some .coreFailed) => s
      | _ =>
        let r := (s.core core).runV (s.srKeyOf core) v
        (s.setCore core (r.core.popVector r.push)).countR53 ((s.coreCtx core).getD 0) r.headroom r.nonfin
    | .worked _ wr push :: _ =>
      if push.isSome && !(s.core core).canPush then s
      else
        let s := match wr with
          | some (a, bs) => (s.presentVec core [(a, bs.length)] true).localWrite core a bs
          | none => s
        s.modCore core (fun c => c.popVector push)
    | _ => s
  else s)

end Sys2Proof.Machine
end

