-- ==== Sys2Proof/Machine/VxBlock.lean ====
section
/-!
DEFINITION. The vector block commands VX.QUANT, VX.ACOMB and VX.TOPF (spec/04_vector_and_control.md, R136 to R138; scales and the monitor
record of spec/02_arithmetic.md, R40, R52 to R55).
-/
namespace Sys2Proof.Machine

/-- Whether every (address, length) lies wholly in a local window. -/
def allLocal (core : Nat) (ps : List (Nat × Nat)) : Bool := ps.all (fun p => p.2 == 0 || (localPhys core p.1 p.2).isSome)

/-- The vector engine writes a result of a block command at a local address (Table 5.2). -/
def State.vxWrite (s : State) (core a : Nat) (bs : List Byte) : State := (s.presentVec core [(a, bs.length)] true).localWrite core a bs

/-- Finish a block command's checks and reads: a rule broken faults with "bad descriptor", poison with "uncorrectable error in data". -/
def State.blockStep (s : State) (core op : Nat) (legal : Bool) (reads : List (Nat × Nat)) (f : State → State) : State :=
  if legal then
    match s.checkPieces core true (reads.filter (fun p => p.2 != 0)) with
    | (s, none) => f (s.presentVec core (reads.filter (fun p => p.2 != 0)) false)
    | (s, some .poisoned) => s.faultData core 0
    | (s, some .coreFailed) => s
    | (s, some .illegal) => s.faultBad core op
  else s.faultBad core op

/-- A block command at the head of the vector queue, and its place. -/
def CoreState.vxHead (c : CoreState) : Option (List Byte × BlockPos) :=
  match c.vecQ with
  | .block b :: _ => some (b, .start)
  | .part b p :: _ => some (b, p)
  | _ => none

/-- Run the block command at the head of the vector queue from its place when its opcode is `op`; a reserved opcode faults the context with "bad descriptor"
(R131, R136). An engine being stopped takes the command in progress to its next row or head, once (R423). -/
def State.onVxHead (s : State) (core : Nat) (op : Nat) (f : State → List Byte → BlockPos → State) : State :=
  if s.enginesRun core && (s.enginesBegin core || !(s.core core).vxHalt) then
    match (s.core core).vxHead with
    | some (b, p) =>
      let o := fieldN b 0 1
      if o = op then f s b p
      else if o = 0x11 ∨ o = 0x12 ∨ o = 0x13 ∨ s.enginesBegin core = false then s
      else s.faultBad core o
    | none => s
  else s

/-- Replace the head of the vector queue; an engine that is being stopped has stopped there. -/
def State.setVxHead (s : State) (core : Nat) (i : VItem) : State :=
  s.modCore core (fun c => { c with vecQ := i :: c.vecQ.drop 1, vxHalt := c.vxHalt || !s.enginesBegin core })

/-- Work the n rows or heads of a block command from its place, with the place moved on by each, as far as the engine goes: to the end (`last`), or until it is stopped (R423). -/
def State.vxRows (s : State) (core : Nat) (b : List Byte) (p : BlockPos) (n : Nat) (row : State → BlockPos → State × BlockPos)
    (last : State → BlockPos → State × VItem) : State :=
  let k := s.stopPoint core (n - p.next)
  let r := (List.range k.1).foldl (fun a _ => let x := row a.1 a.2; (x.1, { x.2 with next := a.2.next + 1 })) (k.2, p)
  if r.2.next < n then r.1.setVxHead core (.part b r.2)
  else
    let e := last r.1 r.2
    e.1.setVxHead core e.2

/-- Write packed elements of width w at a local address; bits of the last byte past the last element keep their values, and keeping them meets no poison (log 126). -/
def State.writePacked (s : State) (core a w : Nat) (codes : List Nat) : State :=
  let bits := w * codes.length
  let nb := ceilDiv bits 8
  let old := s.localNat core a nb
  s.vxWrite core a (leBytes nb (old / 2 ^ bits * 2 ^ bits + packElems w codes))

/-! ### VX.QUANT -/

/-- Block length of a scheme (Table 2.3). -/
def schemeLen (scheme : Nat) : Nat := match scheme with | 2 => 32 | 3 => 64 | _ => 16
/-- Bytes of a block scale. -/
def schemeBytes (scheme : Nat) : Nat := match scheme with | 0 => 0 | 3 => 2 | _ => 1

/-- The largest of a list of numbers, none of them NaN; +0 when there are none. -/
def fmaxList (l : List FNum) : FNum := l.foldl (fun m x => if flt m x then x else m) fzero

/-- The scale of a block by R40: its code, given the elements of the block without its NaNs. -/
def quantScale (scheme outFmt : Nat) (xs : List FNum) : Nat :=
  let amax := fmaxList (xs.map FNum.abs)
  if amax.isZero then 0
  else
    let div : Nat := if outFmt = 4 then 6 else 7
    match scheme with
    | 1 => match amax with
      | .fin _ n d e => min (roundMag fmtUE5M3 .up n (d * div) e) 0xFE
      | _ => 0xFE
    | 2 => match amax with
      | .fin _ n d e =>
        -- ceil(log2(amax / div)), clamped to [-127, 127]
        let l := ilogRat n (d * div)
        let exact := n * pow2Den l == d * div * pow2Num l
        let c := e + (if exact then l else l + 1)
        (max (-127) (min c 127) + 127).toNat
      | _ => 254
    | _ =>
      let pmax := fmaxList xs
      let nmax := fmaxList (xs.map FNum.neg)
      let m := if outFmt = 6 then
          let half := fmul nmax (.fin false 1 1 (-1))
          if flt pmax half then half else pmax
        else amax
      match m with
      | .fin _ n d e => min (roundMag fmtBF16 .up n d e) 0x7F7F
      | _ => 0x7F7F

/-- The value of a scale code (R37): UE5M3, E8M0 or BF16; 1 when unscaled. -/
def scaleValue (scheme code : Nat) : FNum :=
  match scheme with
  | 0 => .fin false 1 1 0
  | 1 => decodeFp fmtUE5M3 code
  | 2 => if code = 255 then .nan else .fin false 1 1 ((code : Int) - 127)
  | _ => decodeFp fmtBF16 code

/-- What quantising one block gives: the scale code, the element codes, the block's amax, and its headroom, non-finite and NaN counts. -/
structure QBlock where
  scale : Nat
  codes : List Nat
  amax  : FNum
  hr    : Nat
  nf    : Nat
  nans  : Nat
deriving DecidableEq, Repr

/-- Quantise one block (R40, R52, R136); `u i` gives the stochastic bits of its i-th element. -/
def quantBlock (scheme outFmt : Nat) (sr ieee : Bool) (u : Nat → Nat) (xs : List FNum) : QBlock :=
  let fd := (efmtOf outFmt).getD (.int 8)
  let clean := xs.filter (fun x => !x.isNan)
  let amax := fmaxList (clean.map FNum.abs)
  let code := if scheme = 0 then 0 else quantScale scheme outFmt clean
  let sv := scaleValue scheme code
  let ie := ieee && outFmt == 2
  let cs : List Conv := (List.range xs.length).map (fun i =>
    let x := xs.getD i fzero
    if scheme ≠ 0 ∧ (amax.isZero ∨ sv.isZero) then ⟨0, false⟩
    else convert fd (if sr then .sr (u i) else .rne) ie (fdiv x sv))
  ⟨code, cs.map (·.code), amax, (cs.filter (·.headroom)).length, (xs.filter (fun x => !x.isFin)).length,
    (xs.filter FNum.isNan).length⟩

/-- The fields of VX.QUANT (Table 4.13). -/
structure QuantCmd where
  (outFmt scheme inFmt rows cols ldIn ldOut : Nat)
  (sr ieee amaxEn : Bool)
  tensor : W32
  (inPtr outPtr scalePtr monPtr : Nat)
  index : W64
deriving DecidableEq, Repr

def quantCmd (b : List Byte) : QuantCmd where
  outFmt := bitsN (fieldN b 1 1) 3 0
  scheme := bitsN (fieldN b 1 1) 5 4
  inFmt := bitsN (fieldN b 2 1) 3 0
  rows := fieldN b 4 2
  cols := fieldN b 8 4
  ldIn := fieldN b 0x0C 4
  ldOut := fieldN b 0x10 4
  sr := bitN (fieldN b 1 1) 6
  ieee := bitN (fieldN b 1 1) 7
  amaxEn := bitN (fieldN b 3 1) 0
  tensor := BitVec.ofNat 32 (fieldN b 0x14 4)
  inPtr := fieldN b 0x18 8
  outPtr := fieldN b 0x20 8
  scalePtr := fieldN b 0x28 8
  monPtr := fieldN b 0x30 8
  index := BitVec.ofNat 64 (fieldN b 0x38 8)

/-- Output format and scheme pairings of R136. -/
def quantPair (outFmt scheme : Nat) : Bool :=
  match scheme with
  | 0 => outFmt == 1 || outFmt == 2 || outFmt == 3
  | 3 => outFmt == 6 || outFmt == 7
  | _ => outFmt == 4 || outFmt == 5

def QuantCmd.inWidth (q : QuantCmd) : Nat := efmtWidth ((efmtOf q.inFmt).getD (.int 8))
def QuantCmd.outWidth (q : QuantCmd) : Nat := efmtWidth ((efmtOf q.outFmt).getD (.int 8))
def QuantCmd.perRow (q : QuantCmd) : Nat := ceilDiv q.cols (schemeLen q.scheme)
def QuantCmd.inRange (q : QuantCmd) (i : Nat) : Nat × Nat := (q.inPtr + i * q.ldIn, q.cols * (q.inWidth / 8))
def QuantCmd.outRange (q : QuantCmd) (i : Nat) : Nat × Nat := (q.outPtr + i * q.ldOut, ceilDiv (q.cols * q.outWidth) 8)

/-- The encoding rules of VX.QUANT. -/
def quantLegal (core : Nat) (b : List Byte) : Bool :=
  let q := quantCmd b
  quantPair q.outFmt q.scheme && (q.inFmt == 8 || q.inFmt == 9 || q.inFmt == 10) && bitsN (fieldN b 2 1) 7 4 == 0 &&
  bitsN (fieldN b 3 1) 7 1 == 0 && 1 ≤ q.rows && fieldN b 6 2 == 0 && 1 ≤ q.cols && q.cols ≤ 2 ^ 24 &&
  q.monPtr % 32 == 0 && bitsN (fieldN b 0x38 8) 63 48 == 0 &&
  allLocal core ((List.range q.rows).map q.inRange) && allLocal core ((List.range q.rows).map q.outRange) &&
  (q.scheme == 0 || allLocal core [(q.scalePtr, q.rows * q.perRow * schemeBytes q.scheme)]) &&
  allLocal core [(q.monPtr, 32 + (if q.amaxEn then 4 * q.rows * q.perRow else 0))]

def QMon.add (m : QMon) (q : QBlock) : QMon where
  amax := if flt m.amax q.amax then q.amax else m.amax
  amin := if q.amax.isZero then m.amin else match m.amin with
    | none => some q.amax
    | some a => if flt q.amax a then some q.amax else some a
  blocks := m.blocks + 1
  hr := m.hr + q.hr
  nf := m.nf + q.nf
  zero := m.zero + (if q.amax.isZero then 1 else 0)
  flushed := m.flushed + (if !q.amax.isZero && q.codes.all (· == 0) then 1 else 0)
  nans := m.nans + q.nans
  inf := m.inf || q.amax.isInf

/-- The 32 bytes of the monitor record; counts saturate (R54). -/
def QMon.record (m : QMon) (sr : Bool) (rev : W16) : List Byte :=
  let cap (n : Nat) := leBytes 4 (min n 0xFFFFFFFF)
  leBytes 4 (encodeIeee fmtFP32 m.amax) ++ cap m.blocks ++ cap m.hr ++ cap m.nf ++ cap m.zero ++ cap m.flushed ++
  leBytes 4 (encodeIeee fmtFP32 (m.amin.getD fzero)) ++
  leBytes 2 ((if m.hr = 0 then 0 else 1) + (if m.nans = 0 then 0 else 2) + (if sr then 4 else 0)) ++ leBytes 2 rev.toNat

/-- Quantise one row. -/
def State.quantRow (s : State) (core : Nat) (q : QuantCmd) (p : BlockPos) : State × BlockPos :=
  let i := p.next
  let fi := (efmtOf q.inFmt).getD (.int 8)
  let raw := s.localNat core (q.inRange i).1 (q.inRange i).2
  let xs := (elemsOf q.inWidth q.cols raw).map (decodeElem fi)
  let L := schemeLen q.scheme
  let key := s.srKeyOf core
  let step := (s.core core).step
  let bs := (List.range q.perRow).map (fun b =>
    quantBlock q.scheme q.outFmt q.sr q.ieee
      (fun e => srBits key q.tensor ((q.index + BitVec.ofNat 64 (i * q.cols + b * L + e)) &&& 0xFFFFFFFFFFFF#64) step)
      ((xs.drop (b * L)).take L))
  let s := s.writePacked core (q.outRange i).1 q.outWidth (bs.flatMap (·.codes))
  let s := if q.scheme = 0 then s
    else s.vxWrite core (q.scalePtr + i * q.perRow * schemeBytes q.scheme) (bs.flatMap (fun b => leBytes (schemeBytes q.scheme) b.scale))
  let s := if q.amaxEn then
      s.vxWrite core (q.monPtr + 32 + 4 * (i * q.perRow)) (bs.flatMap (fun b => leBytes 4 (encodeIeee fmtFP32 b.amax)))
    else s
  (s, { p with mon := bs.foldl QMon.add p.mon })

/-- VX.QUANT: rows are quantised in order; the monitor record is written when the command completes (R55, R136). VSTAT takes no event of it (log 129). -/
def execVxQuant (core : Core) (s : State) : Host.Outcome State Fault Refusal :=
  .next (s.onVxHead core 0x11 (fun s b p =>
    let q := quantCmd b
    s.blockStep core 0x11 (quantLegal core b) (((List.range q.rows).drop p.next).map q.inRange) (fun s =>
      s.vxRows core b p q.rows (fun s p => s.quantRow core q p) (fun s p =>
        (s.countR53 ((s.coreCtx core).getD 0) p.mon.hr p.mon.nf, .worked b (some (q.monPtr, p.mon.record q.sr s.sec.arithRev)) none)))))

/-! ### VX.ACOMB -/

/-- The fields of VX.ACOMB (Table 4.14). -/
structure AcombCmd where
  writeMl : Bool
  (present heads dim strideS strideH part out outLd outFmt ml empty : Nat)
deriving DecidableEq, Repr

def acombCmd (b : List Byte) : AcombCmd where
  writeMl := bitN (fieldN b 1 1) 0
  present := fieldN b 2 2
  heads := fieldN b 4 2
  dim := fieldN b 6 2
  strideS := fieldN b 8 4
  strideH := fieldN b 0x0C 4
  part := fieldN b 0x10 8
  out := fieldN b 0x18 8
  outLd := fieldN b 0x20 4
  outFmt := bitsN (fieldN b 0x24 1) 3 0
  ml := fieldN b 0x28 8
  empty := fieldN b 0x30 8

def AcombCmd.stackTemps (q : AcombCmd) : List Nat := (List.range 12).filter (fun i => bitN q.present i)
def AcombCmd.partAddr (q : AcombCmd) (st h : Nat) : Nat := q.part + st * q.strideS + h * q.strideH
def AcombCmd.outWidth (q : AcombCmd) : Nat := efmtWidth ((efmtOf q.outFmt).getD (.int 8))
def AcombCmd.partsFrom (q : AcombCmd) (h0 : Nat) : List (Nat × Nat) :=
  ((List.range q.heads).drop h0).flatMap (fun h => q.stackTemps.map (fun st => (q.partAddr st h, 16 + 4 * q.dim)))

def acombLegal (core : Nat) (b : List Byte) : Bool :=
  let q := acombCmd b
  bitsN (fieldN b 1 1) 7 1 == 0 && q.present < 2 ^ 12 && 1 ≤ q.heads && q.heads ≤ 1024 && 1 ≤ q.dim && q.dim ≤ 1024 &&
  q.strideS % 16 == 0 && q.strideH % 16 == 0 && (q.outFmt == 8 || q.outFmt == 9 || q.outFmt == 10) &&
  bitsN (fieldN b 0x24 1) 7 4 == 0 && fieldZero b 0x25 3 && fieldZero b 0x38 8 &&
  allLocal core (q.partsFrom 0) &&
  allLocal core ((List.range q.heads).map (fun h => (q.out + h * q.outLd, q.dim * (q.outWidth / 8)))) &&
  (!q.writeMl || allLocal core [(q.ml, 8 * q.heads)]) &&
  (q.empty == 0 || allLocal core [(q.empty, ceilDiv q.heads 8)])

/-- FP32 operations on codes, rounded to nearest with ties to even. -/
def f32add (a b : Nat) : Nat := encodeIeee fmtFP32 (fadd (decodeFp fmtFP32 a) (decodeFp fmtFP32 b))
def f32sub (a b : Nat) : Nat := encodeIeee fmtFP32 (fsub (decodeFp fmtFP32 a) (decodeFp fmtFP32 b))
def f32mul (a b : Nat) : Nat := encodeIeee fmtFP32 (fmul (decodeFp fmtFP32 a) (decodeFp fmtFP32 b))
def f32exp (a : Nat) : Nat := fexpCode fmtFP32 (decodeFp fmtFP32 a)
def f32NegInf : Nat := 0xFF800000
def f32Nan : Nat := 0x7FC00000

/-- A partial: m, l and o (R137). -/
structure Partial where
  m : Nat
  l : Nat
  o : List Nat
deriving DecidableEq, Repr

/-- Whether a partial holds a NaN or a +∞. -/
def Partial.bad (p : Partial) : Bool :=
  (p.m :: p.l :: p.o).any (fun c => let x := decodeFp fmtFP32 c; x.isNan || x == .inf false)

/-- Combine the present partials of a head in stack order, in FP32 (R137): none for an empty head, else mx, L and acc. -/
def combineHead (dim : Nat) (ps : List Partial) : Option (Nat × Nat × List Nat) :=
  let mx := ps.foldl (fun m p => if fltZ (decodeFp fmtFP32 m) (decodeFp fmtFP32 p.m) then p.m else m) f32NegInf
  if decodeFp fmtFP32 mx = .inf true then none
  else
    let r := ps.foldl (fun (a : Nat × List Nat) p =>
      if decodeFp fmtFP32 p.m = .inf true then a
      else
        let f := f32exp (f32sub p.m mx)
        (f32add a.1 (f32mul p.l f), (List.range dim).map (fun d => f32add (a.2.getD d 0) (f32mul (p.o.getD d 0) f))))
      (0, List.replicate dim 0)
    some (mx, r.1, r.2)

/-- An output of VX.ACOMB in its format (R137, R36): a zero result is +0, and a value beyond the format's range is infinite (log 115). -/
def acombCode (f : Fmt) (x : FNum) : Nat := if encodeIeee f x = encodeIeee f (.fin true 0 1 0) then 0 else encodeIeee f x

/-- Combine the next head of an ACOMB. -/
def State.acombHead (s : State) (core : Nat) (q : AcombCmd) (p : BlockPos) : State × BlockPos :=
  let h := p.next
  let ps := q.stackTemps.map (fun st =>
    let a := q.partAddr st h
    (⟨s.localNat core a 4, s.localNat core (a + 4) 4, elemsOf 32 q.dim (s.localNat core (a + 16) (4 * q.dim))⟩ : Partial))
  let fo : Fmt := match (efmtOf q.outFmt).getD (.int 8) with | .fp g => g | _ => fmtFP32
  let putRow (s : State) (codes : List Nat) := s.vxWrite core (q.out + h * q.outLd) (codes.flatMap (leBytes (q.outWidth / 8)))
  let putMl (s : State) (m l : Nat) := if q.writeMl then s.vxWrite core (q.ml + 8 * h) (leBytes 4 m ++ leBytes 4 l) else s
  if ps.any Partial.bad then
    (putMl (putRow s (List.replicate q.dim (encodeIeee fo .nan))) f32Nan f32Nan, { p with empty := p.empty ++ [false], bad := true })
  else
    match combineHead q.dim ps with
    | none => (putMl (putRow s (List.replicate q.dim 0)) f32NegInf 0, { p with empty := p.empty ++ [true] })
    | some (mx, l, o) =>
      let codes := o.map (fun a => acombCode fo (fdiv (decodeFp fmtFP32 a) (decodeFp fmtFP32 l)))
      (putMl (putRow s codes) mx l, { p with empty := p.empty ++ [false] })

/-- VX.ACOMB (R137): heads in order; the summary word is pushed at completion. VSTAT takes no event of it (log 129). -/
def execVxAcomb (core : Core) (s : State) : Host.Outcome State Fault Refusal :=
  .next (s.onVxHead core 0x12 (fun s b p =>
    let q := acombCmd b
    s.blockStep core 0x12 (acombLegal core b) (q.partsFrom p.next) (fun s =>
      s.vxRows core b p q.heads (fun s p => s.acombHead core q p) (fun s p =>
        let empties := (p.empty.filter id).length
        (if q.empty = 0 then s else s.writePacked core q.empty 1 (p.empty.map Bool.toNat),
          .worked b none (some (summaryWord empties ⟨empties == q.heads, p.bad, false, false⟩ 0 11 (q.heads - empties))))))))

/-! ### VX.TOPF -/

/-- The mask of a row: the KEEP largest scores, the lower index first among equals, NaN never (R138). -/
def topMask (keep : Nat) (xs : List FNum) : List Bool :=
  let idx := List.range xs.length
  idx.map (fun j =>
    let x := xs.getD j .nan
    !x.isNan && ((idx.filter (fun i =>
      let y := xs.getD i .nan
      !y.isNan && (flt x y || (i < j && fcmp x y == .eq)))).length < keep))

def topfLegal (core : Nat) (b : List Byte) : Bool :=
  let n := fieldN b 4 4
  let rows := fieldN b 0x0C 2
  fieldZero b 1 3 && 1 ≤ n && n ≤ 2 ^ 24 && 1 ≤ rows && fieldZero b 0x0E 2 && fieldZero b 0x1C 4 && fieldZero b 0x28 24 &&
  fieldN b 0x20 8 % 2 == 0 &&
  allLocal core ((List.range rows).map (fun i => (fieldN b 0x10 8 + i * fieldN b 0x18 4, 4 * n))) &&
  allLocal core [(fieldN b 0x20 8, 2 * ceilDiv n 16)]

/-- VX.TOPF (R138): the selected neurons of each row are ORed into the mask words. -/
def execVxTopf (core : Core) (s : State) : Host.Outcome State Fault Refusal :=
  .next (s.onVxHead core 0x13 (fun s b p =>
    let n := fieldN b 4 4
    let rows := fieldN b 0x0C 2
    let mp := fieldN b 0x20 8
    let rowAt (i : Nat) : Nat × Nat := (fieldN b 0x10 8 + i * fieldN b 0x18 4, 4 * n)
    s.blockStep core 0x13 (topfLegal core b) (((List.range rows).drop p.next).map rowAt ++ [(mp, 2 * ceilDiv n 16)]) (fun s =>
      s.vxRows core b p rows
        (fun s p => (s, { p with mask := p.mask ||| packElems 1 ((topMask (fieldN b 8 4)
          ((elemsOf 32 n (s.localNat core (rowAt p.next).1 (rowAt p.next).2)).map (decodeFp fmtFP32))).map Bool.toNat) }))
        (fun s p => (s.vxWrite core mp (leBytes (2 * ceilDiv n 16) (s.localNat core mp (2 * ceilDiv n 16) ||| p.mask)), .worked b none none)))))

end Sys2Proof.Machine
end

