-- ==== Sys2Proof/Machine/Ledger.lean ====
section
/-!
DEFINITION. The page ledger (spec/06_dolmel_press.md, R175 to R179): the words of its entries, its free lists, and the four ways an
entry changes state.
-/
namespace Sys2Proof.Machine

/-! ### Free lists: last in, first out (R177, R262) -/

def FreeList.size (f : FreeList) : Nat := f.pushed.length + (f.hi - f.lo)

/-- The entry that the next allocation takes. -/
def FreeList.top (f : FreeList) : Option Nat :=
  match f.pushed with
  | e :: _ => some e
  | [] => if f.lo < f.hi then some f.lo else none

def FreeList.pop (f : FreeList) : FreeList :=
  match f.pushed with
  | _ :: r => { f with pushed := r }
  | [] => if f.lo < f.hi then { f with lo := f.lo + 1 } else f

def FreeList.push (f : FreeList) (e : Nat) : FreeList := { f with pushed := e :: f.pushed }

/-! ### Entry words (Table 6.5) -/

/-- The number of entries of the ledger. -/
def ledgerEntries : Nat := 16777216
/-- The frames of a stack. -/
def stackFrames : Nat := 1572864
/-- The frames of a Press area. -/
def pressAreaFrames : Nat := 6144

def stackLent : Nat := 14
def stackRetired : Nat := 15
def ownerNone : Nat := 0x3FFF

def ledgerMk (frame stack owner next : Nat) (valid : Bool) : W64 :=
  BitVec.ofNat 64 (frame % 2 ^ 21 + stack % 16 * 2 ^ 21 + owner % 2 ^ 14 * 2 ^ 25 + next % 2 ^ 24 * 2 ^ 39 + valid.toNat * 2 ^ 63)

def ledgerFrame (w : W64) : Nat := bitsN w.toNat 20 0
def ledgerStack (w : W64) : Nat := bitsN w.toNat 24 21
def ledgerOwner (w : W64) : Nat := bitsN w.toNat 38 25
def ledgerNext (w : W64) : Nat := bitsN w.toNat 62 39
def ledgerValid (w : W64) : Bool := bitN w.toNat 63

/-- The frame reached from frame f on by passing over the skipped frames, which rise. -/
def passFrames (rs : List Nat) (f : Nat) : Nat :=
  match rs with
  | [] => f
  | r :: t => if r ≤ f then passFrames t (f + 1) else f

/-- The skipped frames of a stack (R177). -/
def PressState.skipsOf (p : PressState) (stack : Nat) : List Nat := (p.skipped.filter (fun e => e.1 == stack)).map (·.2)

/-- The first entry of a stack. -/
def PressState.baseOf (p : PressState) (stack : Nat) : Nat := (p.bound.take stack).foldl (· + ·) 0

/-- The stack whose entries hold entry e, if it is bound. -/
def PressState.homeOf (p : PressState) (e : Nat) : Option Nat :=
  (List.range 12).find? (fun k => p.baseOf k ≤ e && e < p.baseOf k + p.bound.getD k 0)

/-- The word of entry e that nothing has written: 0, as the wipe leaves it (R156, R175), until the ledger is initialised; then what the initialisation gives it (R177): Free and linked to the next entry of its stack, or Retired with FRAME 0. -/
def PressState.initWord (p : PressState) (e : Nat) : W64 :=
  if !p.ready then 0
  else match p.homeOf e with
  | none => ledgerMk 0 stackRetired ownerNone e false
  | some k =>
    let b := p.baseOf k
    ledgerMk (passFrames (p.skipsOf k) (p.firsts.getD k 0 + (e - b))) k 0 (if e + 1 < b + p.bound.getD k 0 then e + 1 else e) false

/-- The word of entry e. -/
def State.ledgerWord (s : State) (e : Nat) : W64 := tabGet (s.press.initWord e) s.press.words e

/-- The regions of Table 6.2: 0 legacy flat, 1 native flat, 2 Press area, 3 ledger-managed. -/
def State.regionOf (s : State) (stack frame : Nat) : Nat :=
  let lf := s.regN offLegacyFrames
  let first := s.regN (offLedgerFirst stack)
  if frame < lf then 0
  else if frame + pressAreaFrames < first then 1
  else if frame < first then 2
  else 3

/-- An uncorrectable error was found in a frame: counted, logged in PRESS_UE_LOG and posted (R164). -/
def State.logUe (s : State) (stack frame : Nat) : State :=
  let region := s.regionOf stack frame
  let s := s.count (offDramUe stack) 1
  let log := s.regN (offPressUeLog stack)
  let overBy := if bitsN log 22 0 ≠ 0 ∨ bitN log 23 then 2 ^ 23 else 0
  (s.setRegN (offPressUeLog stack) (frame + region * 2 ^ 21 + overBy)).mgmtEvent 0x12 none stack (frame + region * 2 ^ 21)

/-! ### The two copies of the ledger (R169, R175): at the start of the Press areas of S0 and S6 -/

/-- The stack of a copy. -/
def copyStack (mirror : Bool) : Nat := if mirror then 6 else 0

/-- Where a copy begins in its stack. -/
def State.copyBase (s : State) (stack : Nat) : Nat := (s.regN (offLedgerFirst stack) - pressAreaFrames) * 65536

/-- The entries whose words a 32-byte word of a ledger copy holds. -/
def State.ledgerWordsAt (s : State) (stack byte : Nat) : List Nat :=
  let area := s.copyBase stack
  if area ≤ byte ∧ byte - area < 8 * ledgerEntries then (List.range 4).map ((byte - area) / 8 + ·) else []

/-- An uncorrectable error in a Press area: the ledger words it damages are read from the other copy until they are repaired (R169). -/
def State.pressAreaUe (s : State) (stack byte : Nat) : State :=
  let es := s.ledgerWordsAt stack byte
  if stack = 0 then { s with press := { s.press with badPrimary := es.foldl setAdd s.press.badPrimary } }
  else if stack = 6 then { s with press := { s.press with badMirror := es.foldl setAdd s.press.badMirror } }
  else s

/-- Read the 32-byte word of a copy that holds entry e: damage met there is corrected and counted, or found beyond correction (R164). -/
def State.readCopy (s : State) (mirror : Bool) (e : Nat) : State :=
  let k := copyStack mirror
  let byte := s.copyBase k + 8 * e / 32 * 32
  match tabFind s.damage (dramPhys k byte) with
  | none => s
  | some d =>
    let s := { s with damage := tabErase s.damage (dramPhys k byte) }
    match d with
    | .single => s.count (offDramCe k) 1
    | .wide => (s.logUe k (byte / 65536)).pressAreaUe k byte

/-- Repair an entry's word before it is used (R169): the primary copy is read, and one damaged copy is rewritten, the whole word of four entries, from the other; with both damaged the package
is reported failed. -/
def State.repairWord (s : State) (e : Nat) : State :=
  let s := s.readCopy false e
  let s := if s.press.badPrimary.contains e then s.readCopy true e else s
  if s.press.badPrimary.contains e && s.press.badMirror.contains e then { s with press := { s.press with failed := some (s.press.failed.getD e) } }
  else { s with press := { s.press with
      badPrimary := s.press.badPrimary.filter (fun x => x / 4 != e / 4)
      badMirror := s.press.badMirror.filter (fun x => x / 4 != e / 4) } }

/-- Change the word of entry e, primary and mirror. The words it is merged into are read and repaired first, as every use asks; an entry poisoned in both copies stays so, and the package has
failed (R165, R169). -/
def State.setLedgerWord (s : State) (e : Nat) (w : W64) : State :=
  let s := (s.readCopy true e).repairWord e
  let s := (s.countStackWrite (dramPhys 0 0) 8).countStackWrite (dramPhys 6 0) 8
  { s with press := { s.press with words := tabSet (s.press.initWord e) s.press.words e w } }

def State.freeListOf (s : State) (stack : Nat) : FreeList := s.press.free.getD stack ⟨[], 0, 0⟩
def State.setFreeList (s : State) (stack : Nat) (f : FreeList) : State :=
  { s with press := { s.press with free := s.press.free.set stack f } }

/-- The pages on all free lists. -/
def State.freePages (s : State) : Nat := (s.press.free.map FreeList.size).foldl (· + ·) 0

/-- The stack a page is taken from: the preferred one, or the next in ascending order modulo 12 that has a free entry (R178). -/
def State.stackFor (s : State) (want : Nat) : Option Nat :=
  ((List.range 12).map (fun i => (want + i) % 12)).find? (fun k => (s.freeListOf k).top.isSome)

/-- Zero-write a frame (R179); it counts as bytes written, and clears poison and damage. -/
def State.zeroFrame (s : State) (stack frame : Nat) : State :=
  let a := dramPhys stack (frame * 65536)
  let s := s.countStackWrite a 65536
  { s with
    mem := memWipe s.mem a 65536
    dramPoison := s.dramPoison.filter (fun w => !rangeIn (32 * w) 32 a 65536)
    damage := s.damage.filter (fun e => !rangeIn e.1 1 a 65536) }

/-- Take one page for slot x as page p and link it to the end of its chain: the new chain, or none when no stack has a free entry. -/
def State.allocPage (s : State) (x placeDiv : Nat) (chain : List Nat) : Option (List Nat × State) :=
  let p := chain.length
  match s.stackFor (x + p / max 1 placeDiv) with
  | none => none
  | some k =>
    match (s.freeListOf k).top with
    | none => none
    | some e =>
      let s := s.repairWord e
      let w := s.ledgerWord e
      let s := s.setFreeList k (s.freeListOf k).pop
      let s := s.setLedgerWord e (ledgerMk (ledgerFrame w) k x e true)
      let s := match chain.getLast? with
        | none => s
        | some t =>
          let wt := s.ledgerWord t
          s.setLedgerWord t (ledgerMk (ledgerFrame wt) (ledgerStack wt) x e true)
      some (chain ++ [e], s.zeroFrame k (ledgerFrame w))

/-- Take n pages in ascending page order. -/
def State.allocPages (s : State) (x placeDiv : Nat) (chain : List Nat) (n : Nat) : List Nat × State :=
  match n with
  | 0 => (chain, s)
  | k + 1 =>
    match s.allocPage x placeDiv chain with
    | none => (chain, s)
    | some (c, s) => s.allocPages x placeDiv c k

/-- Retire an entry: it is in no list and never issued again (R167). -/
def State.retireEntry (s : State) (e : Nat) : State :=
  let w := s.ledgerWord e
  let k := if ledgerStack w < 12 then ledgerStack w else (s.press.homeOf e).getD 0
  let s := s.setLedgerWord e (ledgerMk (ledgerFrame w) stackRetired ownerNone e false)
  let s := { s with
    press := { s.press with marks := setDel s.press.marks e }
    sec := { s.sec with flash := { s.sec.flash with frames := s.sec.flash.frames ++ [(k, ledgerFrame w)] } } }
  s.count (offRetiredPages k) 1

/-- Free one Owned entry: it is pushed on its stack's free list, or becomes Retired when it carries a retirement mark (R204). -/
def State.freeEntry (s : State) (e : Nat) : State :=
  let s := s.repairWord e
  if s.press.marks.contains e then s.retireEntry e
  else
    let w := s.ledgerWord e
    let k := ledgerStack w
    let f := s.freeListOf k
    let s := s.setLedgerWord e (ledgerMk (ledgerFrame w) k 0 (f.top.getD e) false)
    s.setFreeList k (f.push e)

/-- Free entries in chain order (R177). -/
def State.freeEntries (s : State) (es : List Nat) : State := es.foldl State.freeEntry s

/-- Take an entry out of a free list and retire it: a page that was free when its error was found, at a step boundary (R167). -/
def FreeList.remove (f : FreeList) (e : Nat) : FreeList :=
  if f.pushed.contains e then { f with pushed := setDel f.pushed e }
  else if f.lo ≤ e ∧ e < f.hi then
    ⟨f.pushed ++ (List.range (e - f.lo)).map (f.lo + ·), e + 1, f.hi⟩
  else f

/-- The links of a stack's free list rewritten after an entry was taken from its middle: only the entry above it changes. -/
def State.relinkAbove (s : State) (k e next : Nat) : State :=
  match (s.press.words.find? (fun x => !ledgerValid x.2 && ledgerStack x.2 == k && ledgerNext x.2 == e && x.1 != e)) with
  | some x => s.setLedgerWord x.1 (ledgerMk (ledgerFrame x.2) k 0 (if next = e then x.1 else next) false)
  | none =>
    if e = 0 then s
    else
      let w := s.ledgerWord (e - 1)
      if !ledgerValid w && ledgerStack w == k && ledgerNext w == e then
        s.setLedgerWord (e - 1) (ledgerMk (ledgerFrame w) k 0 (if next = e then e - 1 else next) false)
      else s

/-- Retire the marked entries that no slot owns (R167): done at a step boundary. A Lent one is in no list, and its frame goes on serving its remap (R168). -/
def State.retireMarkedFree (s : State) : State :=
  s.press.marks.foldl (fun s e =>
    let w := s.ledgerWord e
    let k := ledgerStack w
    if ledgerValid w || k = stackRetired then s
    else if k = stackLent then s.retireEntry e
    else
      let s := s.relinkAbove k e (ledgerNext w)
      (s.setFreeList k ((s.freeListOf k).remove e)).retireEntry e) s

/-- Initialise the ledger (R177): entries are bound to the ledger-managed frames of S0, then S1, and so on, passing over the frames that board flash
records as retired and those that serve as replacements (log 7); every free list holds its stack's entries, lowest on top. -/
def State.initLedger (s : State) : State :=
  let gone := s.sec.flash.frames ++ s.sec.flash.remaps.map (fun r => (r.1, r.2.2)) ++
    s.press.remaps.flatMap (fun e => (e.2.filterMap (·.repl)).map (fun f => (e.1, f)))
  let firsts := (List.range 12).map (fun k => s.regN (offLedgerFirst k))
  let skipOf (k : Nat) : List Nat :=
    (gone.filter (fun g => g.1 == k && firsts.getD k 0 ≤ g.2 && g.2 < stackFrames)).foldl (fun acc g => setAdd acc g.2) []
  let bound := (List.range 12).map (fun k => stackFrames - firsts.getD k 0 - (skipOf k).length)
  let base (k : Nat) : Nat := (bound.take k).foldl (· + ·) 0
  let free := (List.range 12).map (fun k => (⟨[], base k, base k + bound.getD k 0⟩ : FreeList))
  let s := (s.countStackWrite (dramPhys 0 0) (8 * ledgerEntries)).countStackWrite (dramPhys 6 0) (8 * ledgerEntries)
  { s with press := { s.press with
      ready := true
      bound := bound
      firsts := firsts
      skipped := (List.range 12).flatMap (fun k => (skipOf k).map (fun f => (k, f)))
      words := []
      free := free
      marks := []
      badPrimary := []
      badMirror := [] } }

/-- The remap entries of a stack (R168). -/
def State.remapsOf (s : State) (stack : Nat) : List RemapEntry := tabGet [] s.press.remaps stack
def State.setRemaps (s : State) (stack : Nat) (l : List RemapEntry) : State :=
  { s with press := { s.press with remaps := tabSet [] s.press.remaps stack l } }

/-- The frame that serves accesses to a flat frame: its replacement once the copy has ended (R168). -/
def State.servedFrame (s : State) (stack frame : Nat) : Nat :=
  match (s.remapsOf stack).find? (fun r => r.frame == frame && r.ready) with
  | some r => r.repl.getD frame
  | none => frame

/-- Take the top entry of a stack's free list into the Lent state (R168): its frame, if there is one. -/
def State.lendFrame (s : State) (stack : Nat) : Option (Nat × State) :=
  match (s.freeListOf stack).top with
  | none => none
  | some e =>
    let s := s.repairWord e
    let w := s.ledgerWord e
    let s := s.setFreeList stack (s.freeListOf stack).pop
    some (ledgerFrame w, s.setLedgerWord e (ledgerMk (ledgerFrame w) stackLent ownerNone e false))

/-- A flat frame has failed (R168): its remap takes a Free entry of the stack, or is pending while there is none; with all 256 entries in use
the stack is reported degraded. A frame already remapped, or whose remap is under way, is left as it is. -/
def State.failFlatFrame (s : State) (stack frame : Nat) : State :=
  let l := s.remapsOf stack
  if l.any (fun r => r.frame == frame) then s
  else if 256 ≤ l.length then { s with press := { s.press with degraded := setAdd s.press.degraded stack } }
  else
    match s.lendFrame stack with
    | some (f, s) => s.setRemaps stack (l ++ [⟨frame, some f, false⟩])
    | none => s.setRemaps stack (l ++ [⟨frame, none, false⟩])

/-- Complete pending remaps with Free entries, in the order their frames failed: done between the retire and the grow phase of a boundary. -/
def State.takePending (s : State) : State :=
  (List.range 12).foldl (fun s k =>
    (s.remapsOf k).foldl (fun s r =>
      if r.repl.isNone then
        match s.lendFrame k with
        | some (f, s) => s.setRemaps k ((s.remapsOf k).map (fun x => if x.frame == r.frame then { x with repl := some f } else x))
        | none => s
      else s) s) s

end Sys2Proof.Machine
end

