-- ==== Sys2Proof/Machine/Addr.lean ====
section
/-!
DEFINITION. Where an address lands (Tables 6.3, 6.4 and 11.1; R171 to R174, R307, R308, R325), who may use it (R413, R356), and reads and writes of
the bytes there with the error rules of DRAM and SRAM (R144, R164, R165).
-/
namespace Sys2Proof.Machine

/-! ### The forms of an address -/

/-- An address by its form. -/
inductive Addr where
  | spad (off : Nat)                 -- scratchpad window of the issuing core
  | store (off : Nat)                -- cluster-store window
  | native (stack byte : Nat)
  | legacy (off : Nat)
  | press (p : Nat)                  -- Press command window
  | deal                             -- Dealer command window
  | cluster (logical off : Nat)
  | seqState (slot page byte : Nat)
  | global (pkg offset : Nat)        -- a direct global address
  | hashed (chassis off : Nat)
  | bad
deriving DecidableEq, Repr

/-- The form of a 64-bit address. -/
def addrForm (a : Nat) : Addr :=
  if bitN a 63 then
    if spadBase ≤ a ∧ a < spadBase + 2 ^ 16 then .spad (a - spadBase)
    else if storeBase ≤ a ∧ a < storeBase + 2 ^ 22 then .store (a - storeBase)
    else .bad
  else if bitN a 62 then
    if bitsN a 47 36 = 0 then .seqState (bitsN a 61 48) (bitsN a 35 16) (bitsN a 15 0) else .bad
  else if bitN a 61 then
    if bitsN a 59 56 ≠ 0 then .bad
    else
      let ch := bitsN a 55 47
      if ch > 384 then .bad
      else if bitN a 60 then .hashed ch (bitsN a 46 0)
      else if bitsN a 40 37 ≤ 12 then .global (64 * ch + bitsN a 46 41) (bitsN a 40 0)
      else .bad
  else if bitsN a 60 41 ≠ 0 then .bad
  else
    let f := bitsN a 40 37
    if f < 12 then .native f (bitsN a 36 0)
    else if f = 12 then .legacy (bitsN a 36 0)
    else if f = 13 then (if bitsN a 36 0 = 0 then .deal else .bad)
    else if f = 14 then
      let p := bitsN a 15 12
      if bitsN a 36 16 = 0 ∧ bitsN a 11 0 = 0 ∧ (p < 12 ∨ p = 15) then .press p else .bad
    else if bitsN a 28 24 = 0 then
      let o := bitsN a 23 0
      if bitN o 23 && bitN o 22 then .bad else .cluster (bitsN a 36 29) o
    else .bad

/-- Whether an address lies in a command window (R171): the Press or the Dealer command window's value of [40:37]. -/
def inCommandWindow (a : Nat) : Bool :=
  !bitN a 63 && !bitN a 62 && !bitN a 61 && (bitsN a 40 37 == 13 || bitsN a 40 37 == 14)

/-- The native flat address of a byte of a stack. -/
def nativeAddr (stack byte : Nat) : Nat := stack * 2 ^ 37 + byte

/-- Where a granule of the legacy window lands (R173): stack, channel and position, from the offset. -/
def legacyPlace (a : Nat) : Nat × Nat × Nat :=
  let g := a / 256
  let q := g / 12
  let r := g % 12
  let h := q ^^^ (q >>> 4) ^^^ (q >>> 8) ^^^ (q >>> 12) ^^^ (q >>> 16) ^^^ (q >>> 20) ^^^ (q >>> 24)
  ((r + h % 16) % 12, (q ^^^ (q >>> 5) ^^^ (q >>> 10)) % 32, q >>> 5)

/-- The stack and stack byte of a legacy offset: granule (channel, position) lies in frame position / 8, in that frame's stripe of the
channel (R162; the order of a channel's granules in its frames is log 8). -/
def legacyByte (a : Nat) : Nat × Nat :=
  let (stack, ch, pos) := legacyPlace a
  let f := pos / 8
  let stripe := (ch + 32 - f % 32) % 32
  (stack, f * 65536 + stripe * 2048 + pos % 8 * 256 + a % 256)

/-- Target package and legacy offset of a hashed address (R325). -/
def hashPlace (a : Nat) : Nat × Nat :=
  let g := a / 256
  let q := g / 64
  ((g ^^^ q ^^^ (q >>> 6) ^^^ (q >>> 12) ^^^ (q >>> 18) ^^^ (q >>> 24) ^^^ (q >>> 30) ^^^ (q >>> 36)) % 64, q * 256 + a % 256)

/-! ### Pieces: (flat address, physical address, length) -/

abbrev Piece := Nat × Nat × Nat

/-- Cut a stack range at frame boundaries and send each part to the frame that serves it (R168). While a remap's copy runs, the failed frame itself still
serves: the copy is one step (FLAT_REMAP_COMPLETE) that takes over what was written, so an access that waited for it would find the same bytes. -/
def State.cutFrames (s : State) (flat stack byte n : Nat) : List Piece :=
  let f0 := byte / 65536
  let f1 := (byte + n - 1) / 65536
  if (s.remapsOf stack).isEmpty then [(flat, dramPhys stack byte, n)]
  else (List.range (f1 + 1 - f0)).map (fun i =>
    let f := f0 + i
    let lo := max byte (f * 65536)
    let hi := min (byte + n) (f * 65536 + 65536)
    (flat + (lo - byte), dramPhys stack (s.servedFrame stack f * 65536 + lo % 65536), hi - lo))

/-- Cut a legacy range at granule boundaries. -/
def State.cutLegacy (s : State) (off n : Nat) : List Piece :=
  let g0 := off / 256
  let g1 := (off + n - 1) / 256
  (List.range (g1 + 1 - g0)).flatMap (fun i =>
    let g := g0 + i
    let lo := max off (g * 256)
    let hi := min (off + n) (g * 256 + 256)
    let (st, b) := legacyByte lo
    s.cutFrames (12 * 2 ^ 37 + lo) st b (hi - lo))

/-- The pieces of a flat range, when it lands under Table 6.4: wholly native flat frames of one stack, or inside the legacy window. -/
def State.flatPieces (s : State) (a n : Nat) : Option (List Piece) :=
  if n = 0 then some []
  else
    match addrForm a with
    | .native st b =>
      if b + n ≤ stackBytes ∧ s.regionOf st (b / 65536) = 1 ∧ s.regionOf st ((b + n - 1) / 65536) = 1 then some (s.cutFrames a st b n)
      else none
    | .legacy o => if o + n ≤ 12 * s.regN offLegacyFrames * 65536 then some (s.cutLegacy o n) else none
    | _ => none

/-! ### Permission (R413, R356) -/

/-- Whether a wheel is one of the load's own (R355). -/
def Load.owns (l : Load) (w : Wheel) : Bool := l.mode == 3 || w.part == l.myPart || w.part == 0xFFFF

/-- The flat ranges whose bytes read as unspecified: the wheels of a region that are not held, also those the load does not fetch and those of a load that failed. The region of a load that
waits for its entry is the old epoch's still (R356) (log 109). -/
def State.unheld (s : State) : List (Nat × Nat) :=
  s.whl.loads.flatMap (fun e =>
    if e.2.phase = .waiting ∨ s.whl.epochs.any (fun x => x.draining == some e.1) then [] else (e.2.wheels.filter (fun x => !x.held)).map (fun x => (e.2.base + x.offset, x.bytes)))

/-- Whether some pieces of native flat memory meet such a range. -/
def State.meetsUnheld (s : State) (l : List Piece) : Bool :=
  let u := s.unheld
  l.any (fun p => isDram p.2.1 && p.1 < 12 * 2 ^ 37 && u.any (fun r => rangesMeet p.1 p.2.2 r.1 r.2))

/-- The weight regions no context may write: those of loads not yet freed (R356). -/
def State.weightRegions (s : State) : List (Nat × Nat) := s.whl.loads.map (fun e => (e.2.base, ceilDiv e.2.bytes 65536 * 65536))

/-- Whether a flat range meets a weight region. -/
def State.meetsWeights (s : State) (a n : Nat) : Bool := s.weightRegions.any (fun r => rangesMeet a n r.1 r.2)

/-- Whether the engines of context c may read, or write, a flat range. -/
def State.flatAllowed (s : State) (c a n : Nat) (wr : Bool) : Bool :=
  match s.ctx? c with
  | none => false
  | some x => mapAllows x.map (if wr then mapWr else mapRd) a n && !(wr && s.meetsWeights a n)

/-- What an access meets. -/
inductive Access where
  | pieces (l : List Piece)
  | wait
  | bad
deriving DecidableEq, Repr

/-- The bytes o to o + n - 1 of a cluster's window: its 128 scratchpads in order, then its cluster store (R172). -/
def clusterPieces (cl o n : Nat) : List Piece :=
  let k := min n (2 ^ 23 - o)
  (if k = 0 then [] else [(0, spadPhys (cl * 128) o, k)]) ++ (if k = n then [] else [(0, storePhys cl (o + k - 2 ^ 23), n - k)])

/-- A range in the cluster window of context c (R172): every byte of it is a byte of a scratchpad or of the store. -/
def State.windowPieces (s : State) (c logical o n : Nat) : Access :=
  match s.ctx? c with
  | none => .bad
  | some x =>
    if logical ≥ x.count then .bad
    else
      if 2 ^ 23 + 2 ^ 22 < o + n then .bad
      else
        match x.clusters[logical]? with
        | none => .wait
        | some cl => .pieces (clusterPieces cl o n)

/-- A package address range used by an engine of context c: native flat, legacy window or cluster window (R171, R172). -/
def State.packageAccess (s : State) (c a n : Nat) (wr : Bool) : Access :=
  match addrForm a with
  | .cluster l o => s.windowPieces c l o n
  | .native _ _ | .legacy _ =>
    if s.flatAllowed c a n wr then
      match s.flatPieces a n with
      | some l => .pieces l
      | none => .bad
    else .bad
  | _ => .bad

/-- A range used by the DMA engine of a core, on this package: also the core's own windows. -/
def State.localAccess (s : State) (core c a n : Nat) (wr : Bool) : Access :=
  match localPhys core a n with
  | some p => .pieces [(0, p, n)]
  | none => if bitN a 63 then .bad else s.packageAccess c a n wr

/-! ### Errors of DRAM words (R164, R167 to R169) -/

/-- The entry bound to a frame of a stack. -/
def State.entryOf (s : State) (stack frame : Nat) : Option Nat :=
  let first := s.press.firsts.getD stack 0
  let sk := s.press.skipsOf stack
  if frame < first ∨ sk.contains frame ∨ !s.press.ready then none
  else
    let i := frame - first - (sk.filter (fun r => r < frame)).length
    if i < s.press.bound.getD stack 0 then some (s.press.baseOf stack + i) else none

/-- Report a package whose ledger word is poisoned in both copies as failed: no context continues on it (R169). -/
def State.reportFailure (s : State) : State :=
  match s.press.failed with
  | some e =>
    if s.press.reported then s
    else
      let s := ({ s with press := { s.press with reported := true } }).eventBoth 0x11 none 1 e
      s.ten.ctxs.foldl (fun s x => s.fault x.1 clsHwLost 0) s
  | none => s

/-- An uncorrectable error was found in a frame: logged, and handled by its region: a flat frame is remapped, a ledger-managed frame's entry is marked for retirement (R167, R168). -/
def State.dramUe (s : State) (stack frame : Nat) : State :=
  let region := s.regionOf stack frame
  let s := s.logUe stack frame
  if region ≤ 1 then
    let d := s.press.degraded.contains stack
    let s := s.failFlatFrame stack frame
    (if !d && s.press.degraded.contains stack then s.eventBoth 0x13 none stack 0 else s).reportFailure
  else if region = 3 then
    match s.entryOf stack frame with
    | some e => { s with press := { s.press with marks := setAdd s.press.marks e } }
    | none => s
  else s

/-- Meet one damaged 32-byte word on a read: corrected and counted, or poisoned. In a Press area the ledger entries it holds are read from the other copy (R169). -/
def State.meetDram (s : State) (w : Nat) (d : SramDamage) : State :=
  let s := { s with damage := tabErase s.damage w }
  let stack := w / 2 ^ 37
  let byte := w % 2 ^ 37
  match d with
  | .single => s.count (offDramCe stack) 1
  | .wide =>
    if s.regionOf stack (byte / 65536) = 2 then (s.dramUe stack (byte / 65536)).pressAreaUe stack byte
    else ({ s with dramPoison := setAdd s.dramPoison (w / 32) }).dramUe stack (byte / 65536)

/-- Check the words of a DRAM range about to be read: the poisoned word met first, if any. -/
def State.checkDram (s : State) (a n : Nat) : State × Option Nat :=
  let hit := s.damage.filter (fun e => isDram e.1 && rangesMeet e.1 32 a n)
  let s := hit.foldl (fun t e => t.meetDram e.1 e.2) s
  (s, (s.dramPoison.find? (fun w => rangesMeet (32 * w) 32 a n)).map (32 * ·))

/-- What reading a range gives. -/
inductive ReadRes where
  | bytes (bs : List Byte)
  | poisoned (flat : Nat)
  | coreFailed
deriving DecidableEq, Repr

/-- Read the pieces of a range in order, checking every word. -/
def State.readPieces (s : State) (l : List Piece) : State × ReadRes :=
  match l with
  | [] => (s, .bytes [])
  | (flat, a, n) :: r =>
    if isDram a then
      match s.checkDram a n with
      | (s, some w) => (s, .poisoned (if w < a then flat else flat + (w - a)))
      | (s, none) =>
        match s.readPieces r with
        | (t, .bytes bs) => (t, .bytes (s.readPhys a n ++ bs))
        | x => x
    else
      match s.checkSram a n with
      | (s, .ok) =>
        match s.readPieces r with
        | (t, .bytes bs) => (t, .bytes (s.readPhys a n ++ bs))
        | x => x
      | (s, .poisoned _) => (s, .poisoned 0)
      | (s, .coreFailed) => (s, .coreFailed)

/-- The 32-byte words that a write to DRAM covers in part are read, to be merged: damage met there is corrected and counted, or poisons the word (R164, R165). -/
def State.mergeCheck (s : State) (a n : Nat) : State :=
  if n = 0 || !isDram a then s
  else
    let s := if a % 32 = 0 ∧ 32 ≤ n then s else (s.checkDram (a / 32 * 32) 32).1
    if (a + n) % 32 = 0 then s else (s.checkDram ((a + n) / 32 * 32) 32).1

/-- Write the pieces of a range in order. -/
def State.writePieces (s : State) (l : List Piece) (bs : List Byte) : State :=
  match l with
  | [] => s
  | (_, a, n) :: r => ((s.mergeCheck a (bs.take n).length).writePhys a (bs.take n)).writePieces r (bs.drop n)

/-- DRAM bytes of a list of pieces. -/
def dramBytesOf (l : List Piece) : Nat := ((l.filter (fun p => isDram p.2.1)).map (·.2.2)).foldl (· + ·) 0

/-- Count a context's bytes at the Presses: in its account if it is lent (Table 15.10), and for the split of energy (R435). -/
def State.acctDram (s : State) (c n : Nat) : State :=
  match s.ctx? c with
  | some x =>
    let s := if x.lent then s.count (offAcctCtr c 3) n else s
    { s with ten := { s.ten with dramBytes := tabSet 0 s.ten.dramBytes c (tabGet 0 s.ten.dramBytes c + n) } }
  | none => s

/-- Read a range for context c, as it stands in memory. -/
def State.readRaw (s : State) (c : Nat) (l : List Piece) : State × ReadRes :=
  let r := s.readPieces l
  (r.1.acctDram c (dramBytesOf l), r.2)

/-- Bytes with free values in place of those the mask names. -/
def State.hideBytes (s : State) (bs : List Byte) (hidden : List Bool) : List Byte × State :=
  let r := s.freeBytes bs.length
  ((bs.zip (r.1.zip hidden)).map (fun x => if x.2.2 then x.2.1 else x.1), r.2)

/-- The bytes read from some pieces, with undefined ones in place of those of wheels not held yet (R356). -/
def State.hideUnheld (s : State) (l : List Piece) (bs : List Byte) : List Byte × State :=
  let u := s.unheld
  s.hideBytes bs (l.flatMap (fun p => (List.range p.2.2).map (fun i =>
    isDram p.2.1 && p.1 < 12 * 2 ^ 37 && u.any (fun x => x.1 ≤ p.1 + i && p.1 + i < x.1 + x.2))))

/-- Read a range for context c. -/
def State.readFor (s : State) (c : Nat) (l : List Piece) : State × ReadRes :=
  match s.readRaw c l with
  | (t, .bytes bs) => if s.meetsUnheld l then (let r := t.hideUnheld l bs; (r.2, .bytes r.1)) else (t, .bytes bs)
  | r => r

/-- Write a range for context c. -/
def State.writeFor (s : State) (c : Nat) (l : List Piece) (bs : List Byte) : State := (s.writePieces l bs).acctDram c (dramBytesOf l)

/-! ### Writes of the Presses and the Dealer through the cluster window (R172, R425) -/

/-- Bytes of the window log, and the room a record takes. -/
def logRoom : Nat := 64 * 2 ^ 20
def logSize (bs : List Byte) : Nat := 16 + ceilDiv bs.length 16 * 16
def CtxState.logUsed (x : CtxState) : Nat := (x.log.map (fun e => logSize e.2)).foldl (· + ·) 0

/-- Whether writes into the context's clusters are logged: their rows have been saved, or the clusters are not held, which stays so when a Suspended context is reclaimed (R425, R431). -/
def CtxState.logging (x : CtxState) : Bool :=
  x.savedRows || x.phase == .suspended || x.phase == .resuming || (x.phase == .reclaiming && x.clusters.isEmpty)

/-- Write DRAM bytes at a native flat address that belongs to firmware, whatever the map says. -/
def State.writeNative (s : State) (a : Nat) (bs : List Byte) : State :=
  match s.flatPieces a bs.length with
  | some l => s.writePieces l bs
  | none => s

/-- Put a write into the window log, or hold it when the log is full. -/
def State.logWindow (s : State) (c : Nat) (x : CtxState) (addr : Nat) (bs : List Byte) : State :=
  if x.heldWrites.isEmpty && x.logUsed + logSize bs ≤ logRoom then
    let s := s.writeNative (x.replyBase.toNat + 132 * 2 ^ 20 + x.logUsed)
      (leBytes 8 addr ++ leBytes 4 bs.length ++ zeroBytes 4 ++ bs ++ zeroBytes (ceilDiv bs.length 16 * 16 - bs.length))
    s.setCtx c { x with log := x.log ++ [(addr, bs)] }
  else s.setCtx c { x with heldWrites := x.heldWrites ++ [(addr, bs)] }

/-- A write by a Press or the Dealer for context c at a package address: in place, or in the window log under R425. An address it may not write
faults the context with "bad descriptor", naming the command's opcode. -/
def State.engineWrite (s : State) (op c a : Nat) (bs : List Byte) : State :=
  match addrForm a, s.ctx? c with
  | .cluster l o, some x =>
    if x.logging then
      (match s.windowPieces c l o bs.length with
       | .bad => s.fault c clsBadDesc op
       | _ => s.logWindow c x a bs)
    else (match s.windowPieces c l o bs.length with
       | .pieces p => s.writeFor c p bs
       | _ => s.fault c clsBadDesc op)
  | _, _ =>
    match s.packageAccess c a bs.length true with
    | .pieces p => s.writeFor c p bs
    | _ => s.fault c clsBadDesc op

/-- Write bytes the spec leaves undefined over some pieces (log 1). -/
def State.scramble (s : State) (l : List Piece) : State :=
  l.foldl (fun s p =>
    let r := s.freeBytes p.2.2
    { r.2 with mem := memWriteAll r.2.mem p.2.1 r.1 }) s

/-- Whether an engine's write at an address would be accepted. -/
def State.engineWritable (s : State) (c a n : Nat) : Bool := s.packageAccess c a n true != .bad

/-- Whether a package address lies in the cluster windows of a context whose writes there are not made in place now (R425). -/
def State.windowHeld (s : State) (c a : Nat) : Bool :=
  match addrForm a, s.ctx? c with
  | .cluster .., some x => x.logging
  | _, _ => false

/-- A context's cluster windows as their writes will have left them: the rows saved, with what the window log and the held writes add to them (R425). -/
def CtxState.savedView (x : CtxState) (v : SavedState) : Tab Byte :=
  (x.log ++ x.heldWrites).foldl (fun m r =>
    match addrForm r.1 with
    | .cluster l o => ((clusterPieces l o r.2.length).foldl (fun (y : Tab Byte × List Byte) p => (memWriteAll y.1 p.2.1 (y.2.take p.2.2), y.2.drop p.2.2)) (m, r.2)).1
    | _ => m) v.mem

/-- n bytes of a context's cluster window while its clusters' rows are saved; none of a context whose engine state was not kept (R430) (log 16). -/
def CtxState.savedBytes (x : CtxState) (l o n : Nat) : Option (List Byte) :=
  x.saved.map (fun v => let m := x.savedView v; (clusterPieces l o n).flatMap (fun p => memReadAll m p.2.1 p.2.2))

/-- Add 1 to a 64-bit counter at a package address (DONE_PTR, READY_PTR): an atomic of the Press or the Dealer. A poisoned counter faults. In a row that has been saved, or
that is not restored yet, the sum is a write to the window log (R425, log 16). -/
def State.bumpCounter (s : State) (op c a : Nat) : State :=
  match s.packageAccess c a 8 true with
  | .bad => s.fault c clsBadDesc op
  | r =>
    match addrForm a, s.ctx? c, s.windowHeld c a with
    | .cluster l o, some x, true =>
      (match x.savedBytes l o 8 with
       | some bs => s.logWindow c x a (leBytes 8 (leNat bs + 1))
       | none => s)
    | _, _, _ =>
      match r with
      | .pieces p =>
        match s.readFor c p with
        | (s, .bytes bs) => s.writeFor c p (leBytes 8 (leNat bs + 1))
        | (s, .poisoned f) => s.fault c clsUncorr f
        | (s, .coreFailed) => s
      | _ => s

end Sys2Proof.Machine
end

