-- ==== Sys2Proof/Machine/Matrix.lean ====
section
/-!
DEFINITION. The matrix engine (spec/02_arithmetic.md, R38 to R50; spec/03_matrix_engine.md, R64 to R84 and R101 to R107): the block sum, the
pair, one pass, and the commands MX.PASS, MX.READ, MX.CLEAR, MX.LOADACC and MX.ADDACC. Commands run one at a time, so every hazard of R70
and R71 is past when a command runs; results do not depend on the mode (R62). Modes combine as Table 3.6 has it (R100).
-/
namespace Sys2Proof.Machine

/-! ### Block sums and contributions (R42, R43, R77) -/

/-- floor(log2) of a non-zero finite number. -/
def fexp2 (x : FNum) : Option Int :=
  match x with
  | .fin _ n d e => if n = 0 then none else some (ilogRat n d + e)
  | _ => none

/-- A finite number rounded to a multiple of 2^q, to nearest with ties to even, as a count of that unit. -/
def toUnits (q : Int) (x : FNum) : Int :=
  match x with
  | .fin neg n d e =>
    let k : Int := roundQuot .rne (n * pow2Num (e - q)) (d * pow2Den (e - q))
    if neg then -k else k
  | _ => 0

/-- The block sum over its products (R42): NaN, an infinity, or the 48-bit column accumulator's value. -/
def blockSum (products : List FNum) : FNum :=
  if products.any FNum.isNan then .nan
  else
    let pos := products.any (· == .inf false)
    let neg := products.any (· == .inf true)
    if pos && neg then .nan
    else if pos then .inf false
    else if neg then .inf true
    else
      match (products.filterMap fexp2) with
      | [] => fzero
      | e :: es =>
        let q := es.foldl max e - 40
        let v := (products.map (toUnits q)).foldl (· + ·) 0
        .fin (v < 0) v.natAbs 1 q

/-- The contribution of a block: its sum times the scales that apply, by the rules of R43. -/
def contribution (factors : List FNum) : FNum :=
  if factors.any FNum.isNan then .nan
  else if factors.any FNum.isInf && factors.any FNum.isZero then .nan
  else factors.foldl fmul (.fin false 1 1 0)

/-! ### The pair (R44, R48, Table 2.6) -/

/-- FP32 code of a number of the matrix engine, which has no -0 (R36). -/
def f32Code (x : FNum) : Nat := if x.isZero then 0 else encodeIeee fmtFP32 x

def f32Val (c : W32) : FNum := decodeFp fmtFP32 c.toNat
def f32Max (neg : Bool) : W32 := if neg then 0xFF7FFFFF#32 else 0x7F7FFFFF#32
def f32Inf (neg : Bool) : W32 := if neg then 0xFF800000#32 else 0x7F800000#32
def f32NanW : W32 := 0x7FC00000#32

/-- An overflow in pair_add: pinned in saturate mode, infinite in IEEE mode. -/
def pairOverflow (ieee neg : Bool) : Pair × Nat :=
  if ieee then (⟨f32Inf neg, 0, false⟩, accOvf) else (⟨f32Max neg, 0, true⟩, accOvf)

/-- The algorithm of R44 on finite numbers. -/
def pairFinite (ieee : Bool) (hi lo c : FNum) : Pair × Nat :=
  let t := fadd hi c
  let h1c := f32Code t
  let h1 := decodeFp fmtFP32 h1c
  if h1.isInf then pairOverflow ieee t.sign
  else
    let l1 := decodeFp fmtFP32 (f32Code (fadd lo (fsub t h1)))
    let u := fadd h1 l1
    let h2c := f32Code u
    let h2 := decodeFp fmtFP32 h2c
    if h2.isInf then pairOverflow ieee u.sign
    else (⟨BitVec.ofNat 32 h2c, BitVec.ofNat 32 (f32Code (fsub u h2)), false⟩, 0)

/-- pair_add with the overflow modes and flags of Table 2.6: the new pair and the flags raised. A pinned pair keeps its value and its flags
under every contribution but NaN. Where the two modes meet in one pair, Table 2.6 is silent and the model chooses (log 113). -/
def pairAdd (ieee : Bool) (p : Pair) (c : FNum) : Pair × Nat :=
  let hi := f32Val p.hi
  match c with
  | .nan => (⟨f32NanW, 0, false⟩, accNan)
  | .inf neg =>
    let fl := if ieee then accInf else accInf ||| accOvf
    if p.pinned then (p, 0)
    else if hi.isNan then (if ieee then (p, fl) else (⟨f32Max neg, 0, true⟩, fl))
    else if hi == .inf (!neg) then (⟨f32NanW, 0, false⟩, fl ||| accNan)
    else if ieee then (⟨f32Inf neg, 0, false⟩, fl)
    else (⟨f32Max neg, 0, true⟩, fl)
  | .fin .. =>
    if p.pinned || !hi.isFin then (p, 0)
    else pairFinite ieee hi (f32Val p.lo) c

/-- Add a block's contribution; one of zero changes no pair (R43). -/
def pairContrib (ieee : Bool) (p : Pair) (c : FNum) : Pair × Nat := if c.isZero then (p, 0) else pairAdd ieee p c

/-! ### Formats (Tables 2.3, 2.5, 3.9) -/

/-- Elements of a one-byte cell: p of Table 3.9, 1 for BF16. -/
def cellElems (fmt : Nat) : Nat := match fmt with | 4 => 2 | 5 => 2 | 6 => 4 | 7 => 4 | _ => 1
/-- Bytes of a cell. -/
def cellBytes (fmt : Nat) : Nat := if fmt = 8 then 2 else 1
/-- k per pass. -/
def kPass (fmt : Nat) : Nat := 16 * cellElems fmt

/-- The operand pairs of Table 2.5 with their schemes. -/
def pairLegal (wfmt afmt scheme : Nat) : Bool :=
  ((wfmt == 1 || wfmt == 2) && (afmt == 1 || afmt == 2) && scheme == 0) ||
  (wfmt == 3 && afmt == 3 && scheme == 0) ||
  ((wfmt == 4 || wfmt == 5) && afmt == wfmt && (scheme == 1 || scheme == 2)) ||
  ((wfmt == 6 || wfmt == 7) && afmt == 6 && scheme == 3) ||
  (wfmt == 8 && afmt == 8 && scheme == 0)

/-- AXIS is accepted without scales, and for FP4 and INT4 under B16 (R75). -/
def axisLegal (scheme : Nat) : Bool := scheme ≤ 1

/-- k per pass, transposed or not (R76). -/
def passK (fmt : Nat) (axis : Bool) : Nat := if axis then 16 else kPass fmt

/-! ### A weight set in use (R69, R78 to R84) -/

def setBits (mask : Nat) : Nat := ((List.range 16).filter (fun c => bitN mask c)).length

/-- The code of the weight at k, column c of the stored tile. -/
def WeightSet.code (w : WeightSet) (k c : Nat) : Nat :=
  let p := cellElems w.wfmt
  let cell := 16 * (k / p) + c
  if w.wfmt = 8 then fieldN w.cells (2 * cell) 2
  else
    let wd := 8 / p
    (w.cells.getD cell 0).toNat / 2 ^ (wd * (k % p)) % 2 ^ wd

def WeightSet.isOutlier (w : WeightSet) (c : Nat) : Bool := w.mask.getLsbD c
/-- The escape weight at stored k of outlier column c: an E4M3 value (R84). -/
def WeightSet.escape (w : WeightSet) (k c : Nat) : FNum :=
  let n := ((List.range c).filter (fun i => w.isOutlier i)).length
  decodeFp fmtE4M3 (w.esc.getD (n * kPass w.wfmt + k) 0).toNat

/-- The block scale of stored column c at stored k (Table 3.3). -/
def WeightSet.scale (w : WeightSet) (k c : Nat) : FNum :=
  match w.scheme with
  | 1 => decodeFp fmtUE5M3 (w.wscale.getD (16 * (k / 16) + c) 0).toNat
  | 2 => let e := (w.wscale.getD c 0).toNat; if e = 255 then .nan else .fin false 1 1 ((e : Int) - 127)
  | 3 => decodeFp fmtBF16 (fieldN w.wscale (2 * c) 2)
  | _ => .fin false 1 1 0

/-- One activation row of a pass: its elements below KVALID and its block scales. -/
structure ActRow where
  elems  : List FNum
  scales : List FNum
deriving DecidableEq, Repr

/-- The contributions of one activation row to array column c, in ascending block order. -/
def rowContribs (w : WeightSet) (blockLen : Nat) (row : ActRow) (c : Nat) : List FNum :=
  let fw := (efmtOf w.wfmt).getD (.int 8)
  let kv := row.elems.length
  if w.axis then
    -- one block: position x is stored column x, the output is stored k = p·c + slice (R76, R77)
    let k := cellElems w.wfmt * c + w.slice
    let prods := (List.range kv).map (fun x =>
      let a := row.elems.getD x fzero
      if w.isOutlier x then fmul a (w.escape k x)
      else if w.scheme = 1 then contribution [w.scale k x, fmul a (decodeElem fw (w.code k x))]
      else fmul a (decodeElem fw (w.code k x)))
    if kv = 0 then [] else [contribution ([blockSum prods] ++ row.scales.take 1)]
  else
    (List.range (ceilDiv kv blockLen)).map (fun b =>
      let ks := (List.range blockLen).map (fun i => b * blockLen + i)
      let prods := (ks.filter (· < kv)).map (fun k =>
        let a := row.elems.getD k fzero
        if w.isOutlier c then fmul a (w.escape k c) else fmul a (decodeElem fw (w.code k c)))
      let sa := row.scales.getD b (.fin false 1 1 0)
      contribution ([blockSum prods, sa] ++ (if w.isOutlier c then [] else [w.scale (b * blockLen) c])))

/-! ### Accumulators of a core -/

def CoreState.pair (c : CoreState) (a i j : Nat) : Pair := tabGet Pair.zero c.acc (256 * a + 16 * i + j)
def CoreState.setPair (c : CoreState) (a i j : Nat) (p : Pair) : CoreState :=
  { c with acc := tabSet Pair.zero c.acc (256 * a + 16 * i + j) p }
/-- Clear an accumulator and its status word (R66). -/
def CoreState.clearAcc (c : CoreState) (a : Nat) : CoreState :=
  { c with acc := c.acc.filter (fun e => e.1 / 256 != a), accStatus := tabErase c.accStatus a }
def CoreState.accWord (c : CoreState) (a : Nat) : Nat := (tabGet 0 c.accStatus a).toNat

/-- Add contributions in order into one pair. -/
def CoreState.addContribs (c : CoreState) (ieee : Bool) (a i j : Nat) (l : List FNum) : CoreState :=
  let r := l.foldl (fun (acc : Pair × Nat) x =>
    let y := pairContrib ieee acc.1 x
    (y.1, acc.2 ||| y.2)) (c.pair a i j, 0)
  (c.setPair a i j r.1).addAcc a r.2

/-- One pass (R67): m rows into accumulator a; column c uses row i + off c (R74). -/
def CoreState.onePass (c : CoreState) (ieee : Bool) (a m blockLen : Nat) (rows : List ActRow) (off : Nat → Nat) : CoreState :=
  (List.range m).foldl (fun c i =>
    (List.range 16).foldl (fun c j =>
      c.addContribs ieee a i j (rowContribs c.weights blockLen (rows.getD (i + off j) ⟨[], []⟩) j)) c) c

/-! ### Readout (R46, R60, R95, R104) -/

/-- Output format of a readout: 0 FP32, 1 BF16, 2 FP16, 3 pair form. -/
def outFmt (f : Nat) : Fmt := match f with | 1 => fmtBF16 | 2 => fmtFP16 | _ => fmtFP32
def outSize (f : Nat) : Nat := match f with | 0 => 4 | 3 => 8 | _ => 2

/-- The value ts_a · ts_w · (hi + lo) of a pair, exact. -/
def readValue (p : Pair) (tsA tsW : W32) : FNum := fmul (fmul (f32Val tsA) (f32Val tsW)) (fadd (f32Val p.hi) (f32Val p.lo))

/-- Readout of a pair into a format: its code and whether it saturated. -/
def readPair (p : Pair) (tsA tsW : W32) (fmt : Nat) (ieee : Bool) (u : Option Nat) : Conv :=
  convert (.fp (outFmt fmt)) (match u with | some x => if fmt = 0 then .rne else .sr x | none => .rne) ieee (readValue p tsA tsW)

/-- A word of a pair as it leaves the engine: NaN canonical, and no -0 (R36). -/
def pairWord (w : W32) : List Byte :=
  leBytes 4 (if (f32Val w).isNan then f32NanW else if w = 0x80000000#32 then 0 else w).toNat

/-- A pair in pair form, hi then lo (R46, R93). -/
def pairBytes (p : Pair) : List Byte := pairWord p.hi ++ pairWord p.lo

/-! ### Reading and writing for the engine -/

/-- Why a matrix command stops: a rule broken, poisoned data (with its flat address), or a failed core. -/
inductive MxErr where
  | bad
  | data (flat : Nat)
  | lost
deriving DecidableEq, Repr

/-- A step of a matrix command. -/
abbrev MxM := ExceptT MxErr (StateM State)

/-- A range in the core's windows, or in flat memory that the context maps (R101, R413). -/
def State.mxAccess (s : State) (core a n : Nat) (wr : Bool) : Option (List Piece) :=
  match localPhys core a n with
  | some p => some [(0, p, n)]
  | none =>
    match addrForm a with
    | .native .. | .legacy .. =>
      let c := (s.coreCtx core).getD 0
      if s.flatAllowed c a n wr then s.flatPieces a n else none
    | _ => none

/-- The number of commands at the head of the queue that have run and have not completed: those a later command may find in flight. -/
def CoreState.mxFlying (c : CoreState) : Nat := (c.matQ.takeWhile (·.run)).length

/-- The bytes (physical address, length) that a pass with INDEP set must not read in drained operation: those written by the commands still in
flight before it (R72). The engine tracks no hazard there, so what the pass reads of them is undefined. -/
def CoreState.mxRaced (c : CoreState) : List (Nat × Nat) :=
  match c.matQ.find? (fun e => !e.run) with
  | some e =>
    if c.drained && fieldN e.block 0 1 == 1 && bitN (fieldN e.block 1 1) 3 then
      (c.mxOut.filter (fun x => x.1 < c.mxFlying)).map (·.2)
    else []
  | none => []

/-- The bytes read from some pieces, with free values in place of those that lie in the ranges `u` (log 114). -/
def State.hideRaced (s : State) (u : List (Nat × Nat)) (l : List Piece) (bs : List Byte) : State × List Byte :=
  if l.any (fun p => u.any (fun r => rangesMeet p.2.1 p.2.2 r.1 r.2)) then
    let r := s.hideBytes bs (l.flatMap (fun p => (List.range p.2.2).map (fun i => u.any (fun x => rangesMeet (p.2.1 + i) 1 x.1 x.2))))
    (r.2, r.1)
  else (s, bs)

/-- Read bytes anywhere the context maps. -/
def mxRead (core a n : Nat) : MxM (List Byte) := fun s =>
  if n = 0 then (.ok [], s)
  else
    match s.mxAccess core a n false with
    | none => (.error .bad, s)
    | some l =>
      match s.readFor ((s.coreCtx core).getD 0) l with
      | (s, .bytes bs) => let r := (s.present (.engine core 2) (l.map (·.2)) false false).hideRaced (s.core core).mxRaced l bs; (.ok r.2, r.1)
      | (s, .poisoned f) => (.error (.data f), s)
      | (s, .coreFailed) => (.error .lost, s)

/-- Read bytes of the core's own windows: activations, scales, tables and counts (R101). -/
def mxReadLocal (core a n : Nat) : MxM (List Byte) := do
  if n != 0 && (localPhys core a n).isNone then throw .bad
  mxRead core a n

def mxWrite (core a : Nat) (bs : List Byte) : MxM Unit := fun s =>
  if bs.isEmpty then (.ok (), s)
  else
    match s.mxAccess core a bs.length true with
    | none => (.error .bad, s)
    | some l =>
      let s := (s.present (.engine core 2) (l.map (·.2)) true false).writeFor ((s.coreCtx core).getD 0) l bs
      (.ok (), if (s.core core).drained then
        s.modCore core (fun c => { c with mxOut := c.mxOut ++ l.map (fun p => (c.mxFlying, p.2)) })
      else s)

def mxGetCore (core : Nat) : MxM CoreState := fun s => (.ok (s.core core), s)
def mxModCore (core : Nat) (f : CoreState → CoreState) : MxM Unit := fun s => (.ok (), s.modCore core f)
def mxGuard (b : Bool) : MxM Unit := if b then pure () else throw .bad

/-- Count headroom events for the context (R53). -/
def mxHeadroom (core n : Nat) : MxM Unit := fun s => (.ok (), if n = 0 then s else s.countR53 ((s.coreCtx core).getD 0) n 0)

/-- The 256 cells of a sparse tile of b-byte cells, from its bitmap and its packed values (R80, R82). -/
def sparseCells (mask nnz b : Nat) (t : List Byte) : List Byte :=
  let bm := fieldN t 0 32
  ((List.range 256).foldl (fun (acc : List Byte × Nat) i =>
    if bitN bm i && !bitN mask (i % 16) then
      (acc.1 ++ (if acc.2 < nnz then (t.drop (32 + acc.2 * b)).take b else zeroBytes b), acc.2 + 1)
    else (acc.1 ++ zeroBytes b, acc.2)) ([], 0)).1

/-- The encoding rules of a directory entry (R82, R84, R107): alignment, OUTLIER_MASK, and NNZ in its range of Table 3.2 (log 115). -/
def dirLegal (wfmt scheme : Nat) (d : List Byte) : Bool :=
  let mask := fieldN d 0x10 2
  fieldN d 0 8 % 32 == 0 && setBits mask ≤ 4 &&
    (mask == 0 || ((wfmt == 4 || wfmt == 5) && (scheme == 1 || scheme == 2))) && (!bitN (fieldN d 0x12 1) 0 || fieldN d 0x14 2 ≤ 256)

/-- Fetch a tile by its directory entry into the active weight set (R79 to R84, R107) (log 81). A TILE_PTR or ESC_PTR that the context does not map faults here, at its fetch, after the passes
before it (log 127). -/
def mxLoadTile (core dir wfmt scheme : Nat) (axis : Bool) (slice : Nat) : MxM Unit := do
  mxGuard (dir % 64 == 0)
  let d ← mxRead core dir 64
  let ptr := fieldN d 0 8
  let mask := fieldN d 0x10 2
  let flags := fieldN d 0x12 1
  let nnz := fieldN d 0x14 2
  let sparse := bitN flags 0
  mxGuard (dirLegal wfmt scheme d)
  let b := cellBytes wfmt
  let cells ← if sparse then do
      let t ← mxRead core ptr (32 + nnz * b)
      pure (sparseCells mask nnz b t)
    else mxRead core ptr (256 * b)
  let esc ← mxRead core (fieldN d 8 8) (setBits mask * kPass wfmt)
  mxModCore core (fun c => { c with weights :=
    ⟨true, wfmt, scheme, axis, slice, BitVec.ofNat 16 mask, (d.drop 0x20).take 32, cells, esc⟩ })

/-- Fetch one activation row: the bytes of its elements below KVALID, those with a clear bit of `kmask` taken as zero (R97), and the scales of
its blocks that are not absent. -/
def mxFetchRow (core a sa afmt scheme blockLen kvalid kmask : Nat) : MxM ActRow := do
  let f := (efmtOf afmt).getD (.int 8)
  let wd := efmtWidth f
  let bs ← mxReadLocal core a (ceilDiv (kvalid * wd) 8)
  let codes := elemsOf wd kvalid (leNat bs)
  let elems := (List.range kvalid).map (fun k => if bitN kmask k then decodeElem f (codes.getD k 0) else fzero)
  let nb := ceilDiv kvalid blockLen
  let scales ← match scheme with
    | 0 => pure []
    | _ => do
      let sb := if scheme = 3 then 2 else 1
      let raw ← mxReadLocal core sa (nb * sb)
      pure ((List.range nb).map (fun b =>
        let v := fieldN raw (b * sb) sb
        match scheme with
        | 1 => decodeFp fmtUE5M3 v
        | 2 => if v = 255 then .nan else .fin false 1 1 ((v : Int) - 127)
        | _ => decodeFp fmtBF16 v))
  pure ⟨elems, scales⟩

/-- Bytes of a block scale in a matrix operand (Table 2.3). -/
def scaleBytes (scheme : Nat) : Nat := if scheme = 0 then 0 else if scheme = 3 then 2 else 1

/-- Placement of A_PTR and, where the scheme has scales, SA_PTR, in the core's scratchpad or cluster store (R101): the pointers themselves where
there is no row, else every row of `na` or `ns` bytes at its stride (log 115). -/
def actPlaced (core scheme m a lda na sa lds ns : Nat) : Bool :=
  let ok (p st n : Nat) : Bool :=
    if m = 0 then (localPhys core p 1).isSome
    else (List.range (if st = 0 then 1 else m)).all (fun i => (localPhys core (p + i * st) n).isSome)
  ok a lda na && (scheme == 0 || ok sa lds ns)

/-- Block length along k within a pass. -/
def passBlock (scheme : Nat) (axis : Bool) : Nat :=
  if axis then 16 else match scheme with | 2 => 32 | 3 => 64 | _ => 16

/-! ### The commands -/

/-- MX.PASS (Table 3.10): the encoding rules, then the pass. Answers the status word of its accumulator. -/
def mxPass (core : Nat) (b : List Byte) : MxM Nat := do
  let f1 := fieldN b 1 1
  let f3 := fieldN b 3 1
  let acc := bitsN f1 1 0
  let reuse := bitN f1 4
  let ieee := bitN f1 5
  let wfmt := bitsN (fieldN b 2 1) 3 0
  let afmt := bitsN (fieldN b 2 1) 7 4
  let scheme := bitsN f3 1 0
  let axis := bitN f3 2
  let slice := bitsN f3 4 3
  let shift := bitN f3 5
  let m := fieldN b 4 2
  let kv := fieldN b 6 2
  let offs := fieldN b 8 4
  let lda := fieldN b 0x0C 4
  let off := fun c => if shift then bitsN offs (2 * c + 1) (2 * c) else 0
  let omax := ((List.range 16).map off).foldl max 0
  let c0 ← mxGetCore core
  let w := c0.weights
  let blockLen := passBlock scheme axis
  let sb := scaleBytes scheme
  let nb := passK wfmt axis / blockLen
  mxGuard (bitsN f1 7 6 == 0 && bitsN f3 7 6 == 0 && fieldZero b 0x28 24 && pairLegal wfmt afmt scheme &&
    (!axis || axisLegal scheme) && slice < cellElems wfmt && m ≤ 16 && 1 ≤ kv && kv ≤ passK wfmt axis &&
    (shift || offs == 0) && m + omax ≤ 19 &&
    (if reuse then w.loaded && w.wfmt == wfmt && w.scheme == scheme && w.axis == axis && w.slice == slice
     else fieldN b 0x20 8 % 64 == 0) &&
    actPlaced core scheme (if m = 0 then 0 else m + omax) (fieldN b 0x10 8) lda (ceilDiv (kv * efmtWidth ((efmtOf afmt).getD (.int 8))) 8)
      (fieldN b 0x18 8) (nb * sb) (ceilDiv kv blockLen * sb))
  if m = 0 then pure (c0.accWord acc)
  else
    if !reuse then mxLoadTile core (fieldN b 0x20 8) wfmt scheme axis slice
    let rows ← (List.range (m + omax)).mapM (fun i =>
      mxFetchRow core (fieldN b 0x10 8 + i * lda) (fieldN b 0x18 8 + i * nb * sb) afmt scheme blockLen kv (2 ^ 64 - 1))
    mxModCore core (fun c => (if bitN f1 2 then c.clearAcc acc else c).onePass ieee acc m blockLen rows off)
    let c ← mxGetCore core
    pure (c.accWord acc)

/-- OR a 16-bit mask into a word that must not lie in the scratchpad (R95). -/
def mxOrWord (core a mask : Nat) : MxM Unit := do
  mxGuard (!inSpad a)
  let old ← mxRead core a 2
  mxWrite core a (leBytes 2 (leNat old ||| mask))

/-- The mask of a SELECT readout over the columns `cols`, and its saturating readouts (R95). A column of `zeros` counts as +0 and raises nothing
(R104). -/
def selectMask (c : CoreState) (acc rows cols zeros : Nat) (tsA tsW thresh : W32) (ieee : Bool) : Nat × Nat :=
  let t := f32Val thresh
  (List.range 16).foldl (fun (r : Nat × Nat) j =>
    if bitN cols j then
      (List.range rows).foldl (fun (r : Nat × Nat) i =>
        let v : Conv := if bitN zeros j then ⟨0, false⟩ else readPair (c.pair acc i j) tsA tsW 0 ieee none
        let x := decodeFp fmtFP32 v.code
        (if !x.isNan && !t.isNan && flt t x then r.1 ||| 2 ^ j else r.1, r.2 + v.headroom.toNat)) r
    else r) (0, 0)

/-- Read out rows of an accumulator: the bytes of element (i, j), and the number of saturating readouts. `key` selects stochastic
rounding and gives the bits of an element. -/
def readElem (c : CoreState) (acc i j fmt : Nat) (tsA tsW : W32) (ieee : Bool) (u : Option Nat) : List Byte × Nat :=
  let p := c.pair acc i j
  if fmt = 3 then (pairBytes p, 0)
  else
    let v := readPair p tsA tsW fmt ieee u
    (leBytes (outSize fmt) v.code, v.headroom.toNat)

/-- Note saturating readouts: headroom events, and HDR in the accumulator's status word. -/
def mxNoteHdr (core acc n : Nat) : MxM Unit := do
  if n != 0 then
    mxHeadroom core n
    mxModCore core (fun c => c.addAcc acc accHdr)

/-- The stochastic-rounding key and step of a core. -/
def mxSrKey (core : Nat) : MxM (W64 × W32) := fun s => (.ok (s.srKeyOf core, (s.core core).step), s)

/-- MX.READ (Table 3.11, R104). Its status word is that of the accumulator before CLEAR_AFTER clears it (log 127). With SELECT, COL_MASK and ZERO_MASK act on the columns as they do on a written readout (log 115). -/
def mxReadCmd (core : Nat) (b : List Byte) : MxM Nat := do
  let f1 := fieldN b 1 1
  let f2 := fieldN b 2 1
  let f3 := fieldN b 3 1
  let acc := bitsN f1 1 0
  let fmt := bitsN f2 1 0
  let sr := bitN f2 2
  let ieee := bitN f2 3
  let rows := fieldN b 4 2
  let colMask := fieldN b 6 2
  let ldc := fieldN b 8 4
  let tsA := BitVec.ofNat 32 (fieldN b 0x0C 4)
  let tsW := BitVec.ofNat 32 (fieldN b 0x10 4)
  let tensor := BitVec.ofNat 32 (fieldN b 0x14 4)
  let cptr := fieldN b 0x18 8
  let base := fieldN b 0x20 8
  let ild := fieldN b 0x28 4
  let sptr := fieldN b 0x30 8
  let zmask := fieldN b 0x38 2
  let step := bitsN f3 1 0 + 1
  let first := bitsN f3 2 2
  mxGuard (bitsN f1 7 4 == 0 && bitsN f2 7 5 == 0 && bitsN f3 7 3 == 0 && step ≤ 2 && 1 ≤ rows && rows ≤ 16 &&
    bitsN base 63 48 == 0 && fieldZero b 0x3A 6 && (sptr == 0 || (localPhys core sptr 4).isSome))
  if bitN f2 4 then
    let c ← mxGetCore core
    let r := selectMask c acc rows colMask zmask tsA tsW (BitVec.ofNat 32 (fieldN b 0x2C 4)) ieee
    mxNoteHdr core acc r.2
    mxOrWord core cptr r.1
  else
    let e := outSize fmt
    let k ← mxSrKey core
    (List.range rows).forM (fun i => (List.range 16).forM (fun j => do
      if bitN colMask j then
        let n := first + j * step
        if bitN zmask j then mxWrite core (cptr + i * ldc + e * n) (zeroBytes e)
        else
          let c ← mxGetCore core
          let u := if sr then some (srBits k.1 tensor (BitVec.ofNat 64 ((base + i * ild + n) % 2 ^ 48)) k.2) else none
          let r := readElem c acc i j fmt tsA tsW ieee u
          mxNoteHdr core acc r.2
          mxWrite core (cptr + i * ldc + e * n) r.1))
  let c ← mxGetCore core
  let st := c.accWord acc
  if bitN f1 2 then mxModCore core (fun c => c.clearAcc acc)
  pure st

/-- MX.CLEAR (R66). Its status word is 0, as the accumulators it has cleared have it (log 127). -/
def mxClearCmd (core : Nat) (b : List Byte) : MxM Nat := do
  let f1 := fieldN b 1 1
  mxGuard (bitsN f1 7 4 == 0 && fieldZero b 2 62)
  mxModCore core (fun c => (List.range 4).foldl (fun c a => if bitN f1 a then c.clearAcc a else c) c)
  pure 0

/-- MX.LOADACC and MX.ADDACC (R105). A loaded pair is not pinned, whatever its words are (log 113). -/
def mxLoadCmd (core : Nat) (b : List Byte) (add : Bool) : MxM Nat := do
  let f1 := fieldN b 1 1
  let acc := bitsN f1 1 0
  let rows := fieldN b 4 2
  let src := fieldN b 0x18 8
  let lds := fieldN b 8 4
  mxGuard (bitsN f1 7 3 == 0 && (add || !bitN f1 2) && fieldZero b 2 2 && fieldZero b 6 2 && fieldZero b 0x0C 12 && fieldZero b 0x20 32 &&
    1 ≤ rows && rows ≤ 16)
  let data ← (List.range rows).mapM (fun i => mxRead core (src + i * lds) 128)
  if !add then mxModCore core (fun c => { c with accStatus := tabErase c.accStatus acc })
  mxModCore core (fun c => (List.range rows).foldl (fun c i => (List.range 16).foldl (fun c j =>
    let d := data.getD i []
    let h := BitVec.ofNat 32 (fieldN d (8 * j) 4)
    let l := BitVec.ofNat 32 (fieldN d (8 * j + 4) 4)
    if add then
      let r1 := pairAdd (bitN f1 2) (c.pair acc i j) (f32Val h)
      let r2 := pairAdd (bitN f1 2) r1.1 (f32Val l)
      (c.setPair acc i j r2.1).addAcc acc (r1.2 ||| r2.2)
    else c.setPair acc i j ⟨h, l, false⟩) c) c)
  let c ← mxGetCore core
  pure (c.accWord acc)

/-! ### Running the queue (R101, R103, R106) -/

/-- Whether an opcode is one of the matrix commands. -/
def mxOpcode (op : Nat) : Bool := 1 ≤ op && op ≤ 6

/-- Run the oldest matrix command that has not run when its opcode is `op` and `pick` holds of its block; a reserved opcode faults with "bad
descriptor" (R103). The status word is kept for its completion, and what an engine being stopped has left of the command for its resume (R423); a fault leaves what was done before it
(log 100). -/
def State.mxTurn (s : State) (core op : Nat) (pick : List Byte → Bool) (f : MxEntry → MxM (Nat × Option MxLeft)) : State :=
  match (s.core core).matQ.find? (fun e => !e.run) with
  | none => s
  | some e =>
    let o := fieldN e.block 0 1
    if o = op ∧ pick e.block then
      match (f e).run s with
      | (.ok st, s) => s.modCore core (fun c =>
          { c with matQ := c.matQ.set c.mxFlying { e with run := st.2.isNone, status := BitVec.ofNat 32 st.1, left := st.2 } })
      | (.error .bad, s) => s.faultBad core o
      | (.error (.data a), s) => s.faultData core a
      | (.error .lost, s) => s
    else if mxOpcode o then s
    else s.faultBad core o

/-- Whether the next command must wait in drained operation: a MX.READ, MX.LOADACC or MX.ADDACC for the completion of every earlier command (R71). -/
def CoreState.mxWaits (c : CoreState) (op : Nat) : Bool := c.drained && c.mxFlying != 0 && (op == 3 || op == 5 || op == 6)

/-- Run a command that is done in one go, once nothing holds it. -/
def State.mxRun (s : State) (core op : Nat) (pick : List Byte → Bool) (f : List Byte → MxM Nat) : State :=
  if s.enginesBegin core && !(s.core core).mxWaits op then s.mxTurn core op pick (fun e => do let st ← f e.block; pure (st, none)) else s

/-- MX.PASS. -/
def execMxPass (core : Core) (s : State) : Host.Outcome State Fault Refusal :=
  .next (s.mxRun core 1 (fun _ => true) (mxPass core))

/-- MX.READ. -/
def execMxRead (core : Core) (s : State) : Host.Outcome State Fault Refusal :=
  .next (s.mxRun core 3 (fun _ => true) (mxReadCmd core))

/-- MX.CLEAR. -/
def execMxClear (core : Core) (s : State) : Host.Outcome State Fault Refusal :=
  .next (s.mxRun core 4 (fun _ => true) (mxClearCmd core))

/-- MX.LOADACC. -/
def execMxLoadacc (core : Core) (s : State) : Host.Outcome State Fault Refusal :=
  .next (s.mxRun core 5 (fun _ => true) (fun b => mxLoadCmd core b false))

/-- MX.ADDACC. -/
def execMxAddacc (core : Core) (s : State) : Host.Outcome State Fault Refusal :=
  .next (s.mxRun core 6 (fun _ => true) (fun b => mxLoadCmd core b true))

/-- The STATUS_PTR of a matrix command, 0 for none (Tables 3.10, 3.11). -/
def mxStatusPtr (b : List Byte) : Nat :=
  match fieldN b 0 1 with
  | 2 => fieldN b 0x28 8
  | 3 => fieldN b 0x30 8
  | _ => 0

/-- The ranges written by the commands in flight, once the first of them completes. -/
def mxOutPop (l : List (Nat × Nat × Nat)) : List (Nat × Nat × Nat) := l.filterMap (fun x => if x.1 = 0 then none else some (x.1 - 1, x.2))

/-- A matrix command completes in queue order (R106): its status word is returned to SUMR and written to STATUS_PTR. -/
def execMxCommandComplete (core : Core) (s : State) : Host.Outcome State Fault Refusal :=
  .next (if s.enginesRun core then
    match (s.core core).matQ with
    | e :: r =>
      if e.run then
        let s := s.modCore core (fun c => { c with
          matQ := r, lastMx := e.status, orMx := c.orMx ||| e.status, mxOut := mxOutPop c.mxOut })
        match localPhys core (mxStatusPtr e.block) 4 with
        | some p => s.writePhys p (leBytes 4 e.status.toNat)
        | none => s
      else s
    | [] => s
  else s)

/-- Whether the MX_DRAINED bit of a cluster is set (Table 18.5). -/
def State.drainedBit (s : State) (cluster : Nat) : Bool := bitN (s.regN (offMxDrained (cluster / 64))) (cluster % 64)

/-- Firmware selects drained or pipelined operation for a cluster (R71): the setting takes effect on each engine when it holds no command. -/
def execMxDrained (cluster : Cluster) (drained : Bool) (s : State) : Host.Outcome State Fault Refusal :=
  let a := offMxDrained (cluster.val / 64)
  let bit := 2 ^ (cluster.val % 64)
  let v := s.regN a
  .next (s.unlessTripped fun s => s.setRegN a (if drained then (if bitN v (cluster.val % 64) then v else v + bit)
    else if bitN v (cluster.val % 64) then v - bit else v))

/-- The setting of MX_DRAINED takes effect on an engine that holds no command (R71). -/
def execMxDrainedTakeEffect (core : Core) (s : State) : Host.Outcome State Fault Refusal :=
  .next (s.unlessTripped fun s => if (s.core core).matQ.isEmpty then
    s.modCore core (fun c => { c with drained := s.drainedBit (coreCluster core) })
  else s)

end Sys2Proof.Machine
end

