-- ==== Sys2Proof/Machine/Walker.lean ====
section
/-!
DEFINITION. The grouped walker (spec/03_matrix_engine.md, R85 to R97): group tables, the enumeration of units and segments, their distribution
over parts, and the merge of segment partials.
-/
namespace Sys2Proof.Machine

/-! ### Group table entries (Tables 3.4, 3.5) -/

def groupEntry (g : Nat) (b : List Byte) : GroupEntry :=
  let f := fieldN b 0x0C 4
  { g := g
    m := fieldN b 0 4, n := fieldN b 4 4, k := fieldN b 8 4
    wfmt := bitsN f 3 0, afmt := bitsN f 7 4, scheme := bitsN f 9 8, outfmt := bitsN f 13 12
    axis := bitN f 10, ieee := bitN f 11, sr := bitN f 14, up := bitN f 16, down := bitN f 17, split := bitN f 18, select := bitN f 19
    a := fieldN b 0x10 8, sa := fieldN b 0x18 8, wdir := fieldN b 0x20 8, c := fieldN b 0x28 8, aux := fieldN b 0x30 8
    seg := fieldN b 0x38 8
    lda := fieldN b 0x40 4, ldc := fieldN b 0x44 4
    tsA := BitVec.ofNat 32 (fieldN b 0x48 4), tsW := BitVec.ofNat 32 (fieldN b 0x4C 4), thresh := BitVec.ofNat 32 (fieldN b 0x54 4)
    splitNnz := fieldN b 0x50 4
    base := fieldN b 0x58 6 }

/-- The encoding rules of a group entry (R85, R88, R92, R95, R97, R102, R107), the placement of its activations and scales among them (R101). -/
def groupLegal (core : Nat) (b : List Byte) : Bool :=
  let e := groupEntry 0 b
  let f := fieldN b 0x0C 4
  1 ≤ e.n && e.n ≤ 2 ^ 24 && 1 ≤ e.k && e.k ≤ 2 ^ 24 && !bitN f 15 && bitsN f 31 20 == 0 && fieldZero b 0x5E 2 &&
  pairLegal e.wfmt e.afmt e.scheme && (!e.axis || axisLegal e.scheme) &&
  e.up.toNat + e.down.toNat + e.select.toNat ≤ 1 && !(e.split && e.select) && (!e.split || 256 ≤ e.splitNnz) &&
  e.wdir % 64 == 0 && !(e.select && inSpad e.aux) &&
  (let nb := ceilDiv e.k (passBlock e.scheme e.axis) * scaleBytes e.scheme
   actPlaced core e.scheme e.m e.a e.lda (ceilDiv (e.k * efmtWidth ((efmtOf e.afmt).getD (.int 8))) 8) e.sa nb nb)

/-- k-steps: tile columns of the reduction; stored tile columns of 16 when transposed (R90). -/
def GroupEntry.kSteps (e : GroupEntry) : Nat := ceilDiv e.k (passK e.wfmt e.axis)
/-- Output tile columns: tiles of 16, or the pairs (stored ks, slice) when transposed (R90). -/
def GroupEntry.nTiles (e : GroupEntry) : Nat :=
  if e.axis then ceilDiv e.n (kPass e.wfmt) * cellElems e.wfmt else ceilDiv e.n 16
def GroupEntry.mTiles (e : GroupEntry) : Nat := ceilDiv e.m 16
def GroupEntry.groups (e : GroupEntry) : Nat := ceilDiv e.mTiles 4

/-- The logical output column of array column c of output tile column nt: slice j of stored ks gives kpass·ks + p·c + j (R76, R90). -/
def GroupEntry.outCol (e : GroupEntry) (nt c : Nat) : Nat :=
  if e.axis then
    let p := cellElems e.wfmt
    kPass e.wfmt * (nt / p) + p * c + nt % p
  else 16 * nt + c

/-- The directory entry used by output tile column nt and k-step ks (R85, R90). -/
def GroupEntry.dir (e : GroupEntry) (nt ks : Nat) : Nat :=
  if e.axis then
    let stored := ceilDiv e.n (kPass e.wfmt)
    e.wdir + 64 * (ks * stored + nt / cellElems e.wfmt)
  else e.wdir + 64 * (nt * e.kSteps + ks)

/-- Columns of an output tile that lie below N. -/
def GroupEntry.validCols (e : GroupEntry) (nt : Nat) : List Nat := (List.range 16).filter (fun c => e.outCol nt c < e.n)

/-- The row counts of the m-tiles of tile group h. -/
def GroupEntry.tileRows (e : GroupEntry) (h : Nat) : List (Nat × Nat) :=
  ((List.range 4).map (4 * h + ·)).filterMap (fun mt => if mt < e.mTiles then some (mt, min 16 (e.m - 16 * mt)) else none)

/-- A predictor mask word (R96, R97). -/
def predWord (core : Nat) (e : GroupEntry) (w : Nat) : MxM Nat := do
  let b ← mxRead core (e.aux + 2 * w) 2
  pure (leNat b)

/-- Active bits of the logical columns of output tile column nt; all of them without PRED_UP (R96, note c of Table 3.6). -/
def upMask (core : Nat) (e : GroupEntry) (nt : Nat) : MxM Nat := do
  if !e.up then pure 0xFFFF
  else if !e.axis then predWord core e nt
  else
    (List.range 16).foldlM (fun acc c => do
      let n := e.outCol nt c
      if n < e.n then
        let w ← predWord core e (n / 16)
        pure (if bitN w (n % 16) then acc + 2 ^ c else acc)
      else pure acc) 0

/-- Active k of a k-step as a bit mask; 0 means the step is not fetched (R97). -/
def downMask (core : Nat) (e : GroupEntry) (ks : Nat) : MxM Nat := do
  let kp := passK e.wfmt e.axis
  if !e.down then pure (2 ^ kp - 1)
  else
    let k0 := ks * kp
    let kv := min kp (e.k - k0)
    (List.range (ceilDiv kv 16)).foldlM (fun acc j => do
      let w ← predWord core e (k0 / 16 + j)
      pure (acc + w * 2 ^ (16 * j))) 0

/-! ### Units and segments (R89, R91 to R93) -/

/-- The count of each k-step of a strip (R92): NNZ of its tile, 256 when dense, 0 where a predictor leaves it unfetched. -/
def stripCounts (core : Nat) (e : GroupEntry) (nt : Nat) : MxM (List Nat) := do
  let up ← upMask core e nt
  (List.range e.kSteps).mapM (fun ks => do
    let km ← downMask core e ks
    if up == 0 || km == 0 then pure 0
    else
      let d ← mxRead core (e.dir nt ks) 64
      pure (if bitN (fieldN d 0x12 1) 0 then fieldN d 0x14 2 else 256))

/-- Cut a strip greedily in ascending k: segments (ks0, ks1, count) (R92). -/
def cutStrip (limit : Nat) (counts : List Nat) : List (Nat × Nat × Nat) :=
  let r := counts.foldl (fun (acc : List (Nat × Nat × Nat) × Nat × Nat × Nat) c =>
    let (done, start, ks, run) := acc
    if start < ks ∧ run + c > limit then (done ++ [(start, ks, run)], ks, ks + 1, c)
    else (done, start, ks + 1, run + c)) ([], 0, 0, 0)
  r.1 ++ [(r.2.1, r.2.2.1, r.2.2.2)]

/-- The units of one entry in enumeration order. -/
def entryUnits (core : Nat) (e : GroupEntry) : MxM (List GroupUnit) := do
  let r ← (List.range e.nTiles).foldlM (fun (acc : List GroupUnit × Nat) nt => do
    let segs ← if e.split then do
        let cs ← stripCounts core e nt
        pure (cutStrip e.splitNnz cs)
      else pure [(0, e.kSteps, 0)]
    let many := decide (1 < segs.length)
    pure ((List.range e.groups).foldl (fun (a : List GroupUnit × Nat) h =>
      segs.foldl (fun (a : List GroupUnit × Nat) s =>
        (a.1 ++ [⟨e, nt, h, s.1, s.2.1, s.2.2, if many then some a.2 else none⟩], if many then a.2 + 1 else a.2)) a) acc)) ([], 0)
  pure r.1

/-- The units that part q takes (R91, R93). -/
def unitsOfPart (part parts : Nat) (us : List GroupUnit) : List GroupUnit :=
  let total := ((us.filter (·.e.split)).map (·.count)).foldl (· + ·) 0
  (us.foldl (fun (a : List GroupUnit × Nat × Nat) u =>
    let (l, ord, c) := a
    if u.e.split then
      let q := if total = 0 then 0 else min (c * parts / total) (parts - 1)
      (if q = part then l ++ [u] else l, ord, c + u.count)
    else (if ord % parts = part then l ++ [u] else l, ord + 1, c)) ([], 0, 0)).1

/-! ### Running a unit -/

/-- Read out accumulator i of a unit under the entry's FLAGS (R89, R95, R96): columns whose bit of `up` is clear are written as +0. -/
def readUnit (core : Nat) (tensorBase : Nat) (u : GroupUnit) (i mt rows up : Nat) : MxM Unit := do
  let e := u.e
  let cols := e.validCols u.nt
  if e.select then
    let c ← mxGetCore core
    let r := selectMask c i rows ((cols.map (2 ^ ·)).foldl (· + ·) 0) 0 e.tsA e.tsW e.thresh e.ieee
    mxNoteHdr core i r.2
    if e.axis then
      (List.range 16).forM (fun j => do
        if bitN r.1 j then
          let n := e.outCol u.nt j
          mxOrWord core (e.aux + 2 * (n / 16)) (2 ^ (n % 16)))
    else mxOrWord core (e.aux + 2 * u.nt) r.1
  else
    let sz := outSize e.outfmt
    let k ← mxSrKey core
    (List.range rows).forM (fun r => cols.forM (fun j => do
      let n := e.outCol u.nt j
      let row := 16 * mt + r
      let a := e.c + row * e.ldc + sz * n
      if bitN up j then
        let c ← mxGetCore core
        let bits := if e.sr then
            some (srBits k.1 (BitVec.ofNat 32 (tensorBase + e.g)) (BitVec.ofNat 64 ((e.base + row * e.n + n) % 2 ^ 48)) k.2)
          else none
        let x := readElem c i r j e.outfmt e.tsA e.tsW e.ieee bits
        mxNoteHdr core i x.2
        mxWrite core a x.1
      else mxWrite core a (zeroBytes sz)))

/-- The status words of accumulators 0 to n - 1, ORed. -/
def accWords (core n : Nat) : MxM Nat := do
  let c ← mxGetCore core
  pure (((List.range n).map c.accWord).foldl (· ||| ·) 0)

/-- One k-step of a unit: load the tile once and issue one pass per m-tile. -/
def unitStep (core : Nat) (u : GroupUnit) (tiles : List (Nat × Nat)) (ks : Nat) : MxM Unit := do
  let e := u.e
  let km ← downMask core e ks
  if km != 0 then
    mxLoadTile core (e.dir u.nt ks) e.wfmt e.scheme e.axis (if e.axis then u.nt % cellElems e.wfmt else 0)
    let kp := passK e.wfmt e.axis
    let L := passBlock e.scheme e.axis
    let sb := scaleBytes e.scheme
    let nbk := ceilDiv e.k L
    let kv := min kp (e.k - ks * kp)
    let wd := efmtWidth ((efmtOf e.afmt).getD (.int 8))
    (List.range tiles.length).forM (fun i => do
      let (mt, rows) := tiles.getD i (0, 0)
      let acts ← (List.range rows).mapM (fun r =>
        let row := 16 * mt + r
        mxFetchRow core (e.a + row * e.lda + ks * kp * wd / 8) (e.sa + (row * nbk + ks * kp / L) * sb) e.afmt e.scheme L kv km)
      mxModCore core (fun c => c.onePass e.ieee i rows L acts (fun _ => 0)))

/-- Run a unit (R89): clear, its k-steps in ascending order, read out or write partials (R93), clear. A partial has the rows of its m-tile, all 16
columns of each (log 115). Answers the OR of its tiles' status words. -/
def runUnit (core tensorBase : Nat) (u : GroupUnit) : MxM Nat := do
  let e := u.e
  let tiles := e.tileRows u.h
  let n := tiles.length
  mxModCore core (fun c => (List.range n).foldl CoreState.clearAcc c)
  let up ← upMask core e u.nt
  if up != 0 then (List.range (u.ks1 - u.ks0)).forM (fun i => unitStep core u tiles (u.ks0 + i))
  (List.range n).forM (fun i => do
    let (mt, rows) := tiles.getD i (0, 0)
    match u.seg with
    | some sg =>
      let c ← mxGetCore core
      (List.range rows).forM (fun r =>
        mxWrite core (e.seg + 8192 * sg + 2048 * i + 128 * r)
          ((List.range 16).flatMap (fun j => (readElem c i r j 3 0 0 false none).1)))
    | none => readUnit core tensorBase u i mt rows up)
  let st ← accWords core n
  mxModCore core (fun c => (List.range n).foldl CoreState.clearAcc c)
  pure st

/-! ### Merge (R94) -/

/-- The cut strips in enumeration order. -/
def cutStrips (us : List GroupUnit) : List CutStrip :=
  us.foldl (fun l u =>
    match u.seg with
    | none => l
    | some k => if u.ks0 = 0 then l ++ [⟨u, k, 1⟩] else
        match l.getLast? with
        | some c => l.dropLast ++ [{ c with segs := c.segs + 1 }]
        | none => l) []

/-- Merge one cut strip and read it out. A loaded pair is not pinned (log 113). -/
def mergeStrip (core tensorBase : Nat) (t : CutStrip) : MxM Nat := do
  let e := t.u.e
  let tiles := e.tileRows t.u.h
  let n := tiles.length
  mxModCore core (fun c => (List.range n).foldl CoreState.clearAcc c)
  (List.range n).forM (fun i => do
    let (_, rows) := tiles.getD i (0, 0)
    (List.range t.segs).forM (fun sg => (List.range rows).forM (fun r => do
      let d ← mxRead core (e.seg + 8192 * (t.first + sg) + 2048 * i + 128 * r) 128
      mxModCore core (fun c => (List.range 16).foldl (fun c j =>
        let h := BitVec.ofNat 32 (fieldN d (8 * j) 4)
        let l := BitVec.ofNat 32 (fieldN d (8 * j + 4) 4)
        if sg = 0 then c.setPair i r j ⟨h, l, false⟩
        else
          let r1 := pairAdd e.ieee (c.pair i r j) (f32Val h)
          let r2 := pairAdd e.ieee r1.1 (f32Val l)
          (c.setPair i r j r2.1).addAcc i (r1.2 ||| r2.2)) c))))
  let up ← upMask core e t.u.nt
  (List.range n).forM (fun i => do
    let (mt, rows) := tiles.getD i (0, 0)
    readUnit core tensorBase t.u i mt rows up)
  let st ← accWords core n
  mxModCore core (fun c => (List.range n).foldl CoreState.clearAcc c)
  pure st

/-! ### MX.GROUP -/

/-- Read the count and every entry once, before any pass (R86 to R88), and list the units. COUNT_PTR is not looked at when COUNT_FROM_MEM is clear
(log 115). -/
def groupUnits (core : Nat) (b : List Byte) : MxM (List GroupUnit) := do
  let f1 := fieldN b 1 1
  let part := fieldN b 6 2
  let parts := fieldN b 8 2
  let table := fieldN b 0x10 8
  let sptr := fieldN b 0x28 8
  mxGuard (bitsN f1 7 2 == 0 && fieldZero b 2 2 && 1 ≤ parts && part < parts && fieldZero b 0x0A 2 && fieldZero b 0x0C 4 && table % 32 == 0 && (localPhys core table 1).isSome &&
    fieldZero b 0x24 4 && fieldZero b 0x30 16 && (sptr == 0 || (localPhys core sptr 4).isSome))
  let count ← if bitN f1 0 then do
      mxGuard (fieldN b 0x18 8 % 4 == 0)
      let w ← mxReadLocal core (fieldN b 0x18 8) 4
      pure (leNat w)
    else pure (fieldN b 4 2)
  mxGuard (count ≤ 65535)
  let es ← (List.range count).mapM (fun g => do
    let raw ← mxReadLocal core (table + 96 * g) 96
    mxGuard (groupLegal core raw)
    pure (groupEntry g raw))
  let us ← (es.filter (fun e => e.m != 0)).mapM (entryUnits core)
  pure us.flatten

/-- The directory entries a unit will fetch keep the encoding rules: checked before any pass issues (R107). Whether the context maps the tiles is seen at their fetch (log 127). -/
def unitDirs (core : Nat) (u : GroupUnit) : MxM Unit := do
  let up ← upMask core u.e u.nt
  if up != 0 then
    (List.range (u.ks1 - u.ks0)).forM (fun i => do
      let km ← downMask core u.e (u.ks0 + i)
      if km != 0 then
        let d ← mxRead core (u.e.dir u.nt (u.ks0 + i)) 64
        mxGuard (dirLegal u.e.wfmt u.e.scheme d))

/-- What a group command has to run, once its table is read: without MERGE this part's units in order, with it this part's cut strips, by ordinal modulo PARTS. -/
def groupWork (core : Nat) (b : List Byte) : MxM MxLeft := do
  let us ← groupUnits core b
  if bitN (fieldN b 1 1) 1 then
    let strips := cutStrips us
    pure (.strips ((List.range strips.length).filterMap (fun i => if i % fieldN b 8 2 = fieldN b 6 2 then strips[i]? else none)))
  else
    let mine := unitsOfPart (fieldN b 6 2) (fieldN b 8 2) us
    mine.forM (unitDirs core)
    pure (.units mine)

/-- How many of n units the engine runs before it stops (R423). -/
def mxStop (core n : Nat) : MxM Nat := fun s => let r := s.stopPoint core n; (.ok r.1, r.2)

/-- Run the first of some units as far as the engine goes, ORing their status words; what is left, if anything. -/
def mxUnits {α : Type} (core st : Nat) (l : List α) (run : α → MxM Nat) : MxM (Nat × List α) := do
  let n ← mxStop core l.length
  let w ← (l.take n).foldlM (fun st u => do
    let w ← run u
    pure (st ||| w)) st
  pure (w, l.drop n)

/-- MX.GROUP from where it stands: its status word and what a stop leaves of it. -/
def mxGroupCmd (core : Nat) (e : MxEntry) : MxM (Nat × Option MxLeft) := do
  let tensor := fieldN e.block 0x20 4
  let work ← match e.left with
    | some l => pure l
    | none => groupWork core e.block
  match work with
  | .units l => do
    let r ← mxUnits core e.status.toNat l (runUnit core tensor)
    pure (r.1, if r.2.isEmpty then none else some (.units r.2))
  | .strips l => do
    let r ← mxUnits core e.status.toNat l (mergeStrip core tensor)
    pure (r.1, if r.2.isEmpty then none else some (.strips r.2))

/-- Run a group command. An engine being stopped takes the one in progress to its next unit boundary, once (R423). -/
def State.mxGroupRun (s : State) (core : Nat) (pick : List Byte → Bool) : State :=
  if s.enginesBegin core then s.mxTurn core 2 pick (mxGroupCmd core)
  else if s.enginesRun core && !(s.core core).mxHalt then
    match (s.core core).matQ.find? (fun e => !e.run) with
    | some e =>
      if fieldN e.block 0 1 = 2 ∧ pick e.block then
        (s.modCore core (fun c => { c with mxHalt := true })).mxTurn core 2 pick (mxGroupCmd core)
      else s
    | none => s
  else s

/-- Whether a block of opcode 0x02 has MERGE set (Table 3.10). -/
def mxIsMerge (b : List Byte) : Bool := bitN (fieldN b 1 1) 1

/-- MX.GROUP (R85 to R93). -/
def execMxGroup (core : Core) (s : State) : Host.Outcome State Fault Refusal :=
  .next (s.mxGroupRun core (fun b => !mxIsMerge b))

/-- MX.GROUP with MERGE set (R94). -/
def execMxGroupMerge (core : Core) (s : State) : Host.Outcome State Fault Refusal :=
  .next (s.mxGroupRun core mxIsMerge)

end Sys2Proof.Machine
end

