-- ==== Sys2Proof/Machine/Press.lean ====
section
/-!
DEFINITION. The Presses (spec/06_dolmel_press.md): sequence-state translation (R180, R181), acceptance of commands written to a command window
(R185, R186, R193), in-stack attention (R184 to R191; padded arrays, R98, R99), tile packing (R193 to R195), the patrol scrub and flat remaps (R166 to R169).
-/
namespace Sys2Proof.Machine

/-! ### Sequence-state addresses (R180) -/

def State.slot (s : State) (x : Nat) : Slot := tabGet Slot.free s.seq.slots x
def State.setSlot (s : State) (x : Nat) (v : Slot) : State := { s with seq := { s.seq with slots := tabSet Slot.free s.seq.slots x v } }

/-- What translating a sequence-state range gives. -/
inductive SeqRes where
  | pieces (l : List Piece)
  | bad
  | inconsistent (entry : Nat)
deriving DecidableEq, Repr

/-- Whether context c may use slot x: Running, or for a read also Suspended with its pages (R180). -/
def State.slotUsable (s : State) (c x : Nat) (wr : Bool) : Bool :=
  let v := s.slot x
  (v.st == 2 || (!wr && v.st == 3 && !v.chain.isEmpty)) && v.ctx == c

/-- The page parts of a range of a slot's state: (page, first byte, length). -/
def pageParts (page byte n : Nat) : List (Nat × Nat × Nat) :=
  if n = 0 then []
  else (List.range ((byte + n - 1) / 65536 + 1)).map (fun i =>
    let lo := if i = 0 then byte else 0
    let hi := min (byte + n) ((i + 1) * 65536) - i * 65536
    (page + i, lo, hi - lo))

/-- Translate n bytes at a sequence-state address used by context c; entries are repaired before they are used (R169). -/
def State.seqPieces (s : State) (c x page byte n : Nat) (wr : Bool) : State × SeqRes :=
  if !s.slotUsable c x wr then (s, .bad)
  else
    let parts := pageParts page byte n
    let chain := (s.slot x).chain
    if parts.any (fun p => chain.length ≤ p.1) then (s, .bad)
    else
      let es := parts.map (fun p => chain.getD p.1 0)
      let s := (es.foldl State.repairWord s).reportFailure
      match es.find? (fun e => !ledgerValid (s.ledgerWord e) || ledgerOwner (s.ledgerWord e) != x) with
      | some e => (s, .inconsistent e)
      | none => (s, .pieces (parts.map (fun p =>
          let w := s.ledgerWord (chain.getD p.1 0)
          (2 ^ 62 + x * 2 ^ 48 + p.1 * 65536 + p.2.1, dramPhys (ledgerStack w) (ledgerFrame w * 65536 + p.2.1), p.2.2))))

/-- A chain entry that names another owner: the access faults with "uncorrectable error in data", and an event is posted (R180). -/
def State.chainFault (s : State) (c x entry : Nat) : State :=
  (s.eventBoth 0x14 none x entry).fault c clsUncorr 0

/-! ### Acceptance (R185, R186, R193, R197) -/

/-- Bytes of a key or value record and its block length (Table 6.6). -/
def kvBytes (code d : Nat) : Nat := match code with | 0 => d | 1 => d / 2 + d / 16 | _ => d / 2 + d / 32
def kvBlock (code : Nat) : Nat := if code = 2 then 32 else 16

/-- The fields of an attention command (Table 6.7). -/
structure AttnCmd where
  masked : Bool
  kf     : Nat
  vf     : Nat
  group  : Nat
  slot   : Nat
  heads  : Nat
  d      : Nat
  stride : Nat
  base   : Nat
  first  : Nat
  last   : Nat
  tsQ    : W32
  tsK    : W32
  tsV    : W32
  strideS : Nat
  strideH : Nat
  q      : Nat
  part   : Nat
  done   : Nat
  maskP  : Nat
deriving DecidableEq, Repr

def attnCmd (b : List Byte) : AttnCmd where
  masked := bitN (fieldN b 1 1) 0
  kf := fieldN b 2 1 % 4
  vf := fieldN b 2 1 / 4 % 4
  group := fieldN b 3 1
  slot := fieldN b 4 2
  heads := fieldN b 6 1
  d := fieldN b 8 2
  stride := fieldN b 0x0C 4
  base := fieldN b 0x10 4
  first := fieldN b 0x14 4
  last := fieldN b 0x18 4
  tsQ := BitVec.ofNat 32 (fieldN b 0x1C 4)
  tsK := BitVec.ofNat 32 (fieldN b 0x20 4)
  tsV := BitVec.ofNat 32 (fieldN b 0x24 4)
  strideS := fieldN b 0x28 4
  strideH := fieldN b 0x2C 4
  q := fieldN b 0x30 8
  part := fieldN b 0x38 8
  done := fieldN b 0x40 8
  maskP := fieldN b 0x48 8

/-- Tokens of a page (R184). -/
def AttnCmd.tp (a : AttnCmd) : Nat := 65536 / (a.heads * (kvBytes a.kf a.d + kvBytes a.vf a.d))
/-- The page of token t. -/
def AttnCmd.pageOf (a : AttnCmd) (t : Nat) : Nat := a.base + t / a.tp * a.stride

/-- The field rules of Table 6.7 and R184. -/
def attnFields (b : List Byte) : Bool :=
  let a := attnCmd b
  b.length == 128 && fieldN b 1 1 < 2 && fieldN b 2 1 < 16 && a.kf ≤ 2 && a.vf ≤ 2 && 1 ≤ a.group && a.group ≤ 16 && a.slot < 2 ^ 14 &&
  1 ≤ a.heads && a.heads ≤ 64 && fieldZero b 7 1 && a.heads * a.group ≤ 1024 && 16 ≤ a.d && a.d ≤ 256 && a.d % 16 == 0 &&
  ((a.kf != 2 && a.vf != 2) || a.d % 32 == 0) && fieldZero b 0x0A 2 && 1 ≤ a.stride && a.stride < 2 ^ 20 && a.base < 2 ^ 20 && 1 ≤ a.tp &&
  a.strideS % 16 == 0 && a.strideH % 16 == 0 && 16 + 4 * a.d ≤ a.strideH && a.done % 8 == 0 && fieldZero b 0x50 48

/-- Whether a Press accepts an attention command of context c (R186). -/
def State.attnAccepts (s : State) (c : Nat) (b : List Byte) : Bool :=
  let a := attnCmd b
  attnFields b && s.slotUsable c a.slot true && (a.last ≤ a.first || a.pageOf (a.last - 1) < (s.slot a.slot).chain.length)

/-- Matrix format codes (Table 3.9). -/
def matrixFmt (f : Nat) : Bool := 1 ≤ f && f ≤ 8

/-- The field rules of Table 6.8. -/
def tileFields (b : List Byte) : Bool :=
  b.length == 64 && matrixFmt (fieldN b 1 1) && fieldZero b 2 2 && 1 ≤ fieldN b 4 4 && fieldN b 4 4 ≤ 65535 && fieldN b 8 8 % 64 == 0 &&
  fieldN b 0x10 8 % 64 == 0 && fieldN b 0x18 8 % 32 == 0 && fieldN b 0x28 8 % 16 == 0 && fieldZero b 0x30 16

/-- Bytes of the commands a Press window takes; none for a reserved opcode (R197). -/
def pressCmdSize (op : Nat) : Option Nat := if op = 0x31 then some 128 else if op = 0x32 ∨ op = 0x33 then some 64 else none

def State.pressQueue (s : State) (p : Nat) : List PressCmd := tabGet [] s.press.queues p
def State.setPressQueue (s : State) (p : Nat) (l : List PressCmd) : State :=
  { s with press := { s.press with queues := tabSet [] s.press.queues p l } }

/-- The Presses that a window address names. -/
def windowTargets (p : Nat) : List Nat := if p = 15 then List.range 12 else [p]

/-- What a command window answers to a whole command. -/
inductive WindowRes where
  | accepted (s : State)
  | wait
  | bad
deriving Repr

/-- Offer a command to a Press window: it waits while a Press named has 256 commands queued, or while a boundary of its context runs
(R182, R185). -/
def State.pressOffer (s : State) (c p : Nat) (b : List Byte) : WindowRes :=
  let op := fieldN b 0 1
  if pressCmdSize op ≠ some b.length then .bad
  else if op ≠ 0x31 ∧ (p = 15 ∨ !tileFields b) then .bad
  else if op = 0x31 ∧ s.seq.boundary = some c then .wait
  else if op = 0x31 ∧ !s.attnAccepts c b then .bad
  else if (windowTargets p).any (fun k => 256 ≤ (s.pressQueue k).length) then .wait
  else .accepted ((windowTargets p).foldl (fun s k => s.setPressQueue k (s.pressQueue k ++ [⟨c, b, false⟩])) s)

/-! ### Reads by a Press or the Dealer for a context -/

/-- Whether a Press or the Dealer may read at a package address now: not in a cluster window of a context whose clusters are gone and whose rows were not kept (R430). -/
def State.readsAt (s : State) (c a : Nat) : Bool :=
  match addrForm a, s.ctx? c with
  | .cluster .., some x => !x.logging || x.saved.isSome
  | _, _ => true

/-- Read n bytes at a package address for a Press or the Dealer, and go on with them; a bad address or a poisoned word faults the context, with the
command's opcode in the former case. In the cluster windows of a context that is pre-empted it reads the rows saved, with what the window log adds to them (R423, log 16). -/
def State.engineRead (s : State) (op c a n : Nat) (k : State → List Byte → State) : State :=
  let away := match addrForm a, s.ctx? c with
    | .cluster l o, some x => if x.logging then some (x.savedBytes l o n) else none
    | _, _ => none
  if n = 0 then k s []
  else
    match s.packageAccess c a n false, away with
    | .bad, _ => s.fault c clsBadDesc op
    | _, some (some bs) => k s bs
    | _, some none => s
    | r, none =>
    match r with
    | .pieces l =>
      match s.readFor c l with
      | (s, .bytes bs) => k s bs
      | (s, .poisoned f) => s.fault c clsUncorr f
      | (s, .coreFailed) => s
    | .wait => s
    | .bad => s.fault c clsBadDesc op

/-! ### Attention (R187 to R191) -/

/-- One record decoded: its elements and its block scales. -/
def kvRecord (code d : Nat) (bs : List Byte) : List FNum × List FNum :=
  if code = 0 then (bs.map (fun b => decodeFp fmtE4M3 b.toNat), List.replicate (d / 16) (.fin false 1 1 0))
  else
    let el := (List.range d).map (fun i => decodeFp fmtFP4 ((bs.getD (i / 2) 0).toNat / 16 ^ (i % 2) % 16))
    let n := d / kvBlock code
    (el, (List.range n).map (fun i =>
      let x := (bs.getD (d / 2 + i) 0).toNat
      if code = 1 then decodeFp fmtUE5M3 x else if x = 255 then .nan else .fin false 1 1 ((x : Int) - 127)))

/-- score(j): the dot product of a query head and a key record, and whether its readout saturated (R188). -/
def attnScore (a : AttnCmd) (q : List FNum) (key : List FNum × List FNum) : Nat × Bool :=
  let l := kvBlock a.kf
  let p := (List.range (a.d / l)).foldl (fun (p : Pair) b =>
    let prods := (List.range l).map (fun i => fmul (q.getD (b * l + i) fzero) (key.1.getD (b * l + i) fzero))
    (pairContrib false p (contribution [key.2.getD b fzero, blockSum prods])).1) Pair.zero
  let r := readPair p a.tsQ a.tsK 0 false none
  (r.code, r.headroom)

/-- The largest of a group's scores; NaN scores are handled before (R189). -/
def groupMax (l : List Nat) : Nat :=
  l.foldl (fun m x => if fltZ (decodeFp fmtFP32 m) (decodeFp fmtFP32 x) then x else m) f32NegInf

/-- One group of at most 16 keys (R187): scores and value rows. -/
def attnGroup (d : Nat) (p : Partial) (g : List (Nat × List Nat)) : Partial :=
  let gm := groupMax (g.map (·.1))
  let p :=
    if fltZ (decodeFp fmtFP32 p.m) (decodeFp fmtFP32 gm) then
      if decodeFp fmtFP32 p.m = .inf true then { p with m := gm }
      else
        let f := f32exp (f32sub p.m gm)
        ⟨gm, f32mul p.l f, p.o.map (fun o => f32mul o f)⟩
    else p
  g.foldl (fun p k =>
    let e := f32exp (f32sub k.1 p.m)
    ⟨p.m, f32add p.l e, (List.range d).map (fun i => f32add (p.o.getD i 0) (f32mul e (k.2.getD i 0)))⟩) p

/-- Cut a list into groups of 16. -/
def groups16 {α : Type} (l : List α) : List (List α) := (List.range (ceilDiv l.length 16)).map (fun i => (l.drop (16 * i)).take 16)

/-- The partial of one head over its keys in ascending token order (R187, R189). -/
def attnHead (a : AttnCmd) (ks : List (Nat × List Nat)) : Partial :=
  if ks.any (fun k => (decodeFp fmtFP32 k.1).isNan) then ⟨f32Nan, f32Nan, List.replicate a.d f32Nan⟩
  else
    let p := (groups16 ks).foldl (attnGroup a.d) ⟨f32NegInf, 0, List.replicate a.d 0⟩
    if ks.isEmpty then p else { p with o := p.o.map (fun o => f32mul o a.tsV.toNat) }

/-- The keys of a Press: tokens of the range, not masked, whose page lies in its stack, with the page's frame (R187). -/
def State.attnKeys (s : State) (press : Nat) (a : AttnCmd) (mask : List Byte) : List (Nat × Nat) :=
  if a.last ≤ a.first then []
  else (List.range ((a.last - 1) / a.tp + 1 - a.first / a.tp)).flatMap (fun i =>
    let j := a.first / a.tp + i
    let w := s.ledgerWord ((s.slot a.slot).chain.getD (a.base + j * a.stride) 0)
    if ledgerStack w = press then
      let lo := max a.first (j * a.tp)
      let hi := min a.last (j * a.tp + a.tp)
      ((List.range (hi - lo)).map (lo + ·)).filterMap (fun t =>
        let b := t - a.first
        if a.masked && bitN (mask.getD (b / 8) 0).toNat (b % 8) then none else some (t, ledgerFrame w))
    else [])

/-- Where the record of KV head g for a key lies in its page (R184). -/
def AttnCmd.keyAt (a : AttnCmd) (g t : Nat) : Nat := (t % a.tp * a.heads + g) * kvBytes a.kf a.d
def AttnCmd.valueAt (a : AttnCmd) (g t : Nat) : Nat :=
  a.tp * a.heads * kvBytes a.kf a.d + (t % a.tp * a.heads + g) * kvBytes a.vf a.d

/-- The flat address (sequence-state form) of a byte of a key's page. -/
def AttnCmd.seqAddr (a : AttnCmd) (t byte : Nat) : Nat := 2 ^ 62 + a.slot * 2 ^ 48 + a.pageOf t * 65536 + byte

/-- Check the records a Press is about to read; the address of a poisoned word, if any (R191). -/
def State.attnCheck (s : State) (press : Nat) (a : AttnCmd) (keys : List (Nat × Nat)) : State × Option Nat :=
  let reads := keys.flatMap (fun k => (List.range a.heads).flatMap (fun g =>
    [(k.1, k.2 * 65536, a.keyAt g k.1, kvBytes a.kf a.d), (k.1, k.2 * 65536, a.valueAt g k.1, kvBytes a.vf a.d)]))
  reads.foldl (fun (r : State × Option Nat) x =>
    match r.2 with
    | some _ => r
    | none =>
      match r.1.checkDram (dramPhys press (x.2.1 + x.2.2.1)) x.2.2.2 with
      | (s, some _) => (s, some (a.seqAddr x.1 x.2.2.1))
      | (s, none) => (s, none)) (s, none)

/-- The partials of every query head over a Press's keys, and the headroom events of its scores. -/
def State.attnScan (s : State) (press : Nat) (a : AttnCmd) (q : List Byte) (keys : List (Nat × Nat)) : List Partial × Nat :=
  (List.range a.heads).foldl (fun acc g =>
    let recs := keys.map (fun k =>
      let base := dramPhys press (k.2 * 65536)
      let kr := kvRecord a.kf a.d (s.readPhys (base + a.keyAt g k.1) (kvBytes a.kf a.d))
      let vr := kvRecord a.vf a.d (s.readPhys (base + a.valueAt g k.1) (kvBytes a.vf a.d))
      (kr, (List.range a.d).map (fun i => encodeIeee fmtFP32 (fmul (vr.1.getD i fzero) (vr.2.getD (i / kvBlock a.vf) fzero)))))
    (List.range a.group).foldl (fun (acc : List Partial × Nat) j =>
      let qv := ((q.drop ((g * a.group + j) * a.d)).take a.d).map (fun b => decodeFp fmtE4M3 b.toNat)
      let sc := recs.map (fun r => (attnScore a qv r.1, r.2))
      (acc.1 ++ [attnHead a (sc.map (fun x => (x.1.1, x.2)))], acc.2 + (sc.filter (·.1.2)).length)) acc) ([], 0)

/-- Bytes of a partial (R190). -/
def partialBytes (p : Partial) : List Byte := leBytes 4 p.m ++ leBytes 4 p.l ++ zeroBytes 8 ++ p.o.flatMap (leBytes 4)

/-- Whether a Press may work a command: its context has not ended, no write of the context is held for want of room in its window log (R425), and what an attention command reads can be read. -/
def State.pressRuns (s : State) (q : PressCmd) : Bool :=
  s.ctxLive q.ctx && ((s.ctx? q.ctx).map (·.heldWrites.isEmpty)).getD true && (fieldN q.bytes 0 1 != 0x31 || s.readsAt q.ctx (attnCmd q.bytes).q)

/-- Run the oldest command of a queue that has not run and may, when it is one of the wanted kind. A command that is held holds no other context's (R425). -/
def State.onPressHead (s : State) (p : Nat) (want : Nat → Bool) (f : State → PressCmd → State) : State :=
  match (s.pressQueue p).find? (fun q => !q.ran && s.pressRuns q) with
  | none => s
  | some q => if want (fieldN q.bytes 0 1) then f s q else s

/-- Mark a command of a queue as run, or take it out. -/
def markRun (keep : Bool) (cmd : PressCmd) (l : List PressCmd) : List PressCmd :=
  match l with
  | [] => []
  | q :: r => if q = cmd then (if keep then { q with ran := true } :: r else r) else q :: markRun keep cmd r

/-- Scan the Press's keys and write every head's partial (R187 to R191); a fault writes none and does not count at DONE_PTR. -/
def State.attnRun (s : State) (press : Nat) (cmd : PressCmd) : State :=
  let a := attnCmd cmd.bytes
  let n := a.last - a.first
  s.engineRead 0x31 cmd.ctx a.q (a.heads * a.group * a.d) (fun s q =>
    let go (s : State) (mask : List Byte) : State :=
      let keys := s.attnKeys press a mask
      match s.attnCheck press a keys with
      | (s, some f) => s.fault cmd.ctx clsUncorr f
      | (s, none) =>
        let (ps, hr) := s.attnScan press a q keys
        let s := (s.acctDram cmd.ctx (keys.length * a.heads * (kvBytes a.kf a.d + kvBytes a.vf a.d))).setPressQueue press
          (markRun true cmd (s.pressQueue press))
        let s := if hr = 0 then s else s.countR53 cmd.ctx hr 0
        (List.range ps.length).foldl (fun s h =>
          if s.ctxLive cmd.ctx then
            s.engineWrite 0x31 cmd.ctx (a.part + press * a.strideS + h * a.strideH) (partialBytes (ps.getD h ⟨0, 0, []⟩))
          else s) s
    if a.masked && n != 0 then
      match addrForm a.maskP with
      | .cluster .. => s.fault cmd.ctx clsBadDesc 0x31
      | _ => s.engineRead 0x31 cmd.ctx a.maskP (ceilDiv n 8) go
    else go s [])

/-- ATTENTION at Press s: its oldest command that has not run scans its keys. -/
def execAttention (p : Stack) (s : State) : Host.Outcome State Fault Refusal :=
  .next (s.unlessTripped fun s => s.onPressHead p (· == 0x31) (fun s q => s.attnRun p q))

/-- ATTENTION_DONE: every partial of the oldest command that has run, and whose context has no write held, is written, so 1 is added at its DONE_PTR (R190, R425). -/
def execAttentionDone (p : Stack) (s : State) : Host.Outcome State Fault Refusal :=
  .next (s.unlessTripped fun s => match (s.pressQueue p).find? (fun q => q.ran && ((s.ctx? q.ctx).map (·.heldWrites.isEmpty)).getD true) with
    | none => s
    | some q => (s.setPressQueue p ((s.pressQueue p).erase q)).bumpCounter 0x31 q.ctx (attnCmd q.bytes).done)

/-! ### Tile packing (R193 to R195) -/

/-- Whether n bytes at a flat address lie in flat frames of one stack that context c may use. -/
def State.ownStack (s : State) (press c a n : Nat) (wr : Bool) : Option (List Piece) :=
  match addrForm a with
  | .native .. | .legacy .. =>
    if s.flatAllowed c a n wr then
      match s.flatPieces a n with
      | some l => if l.all (fun p => isDram p.2.1 && p.2.1 / 2 ^ 37 == press) then some l else none
      | none => none
    else none
  | _ => none

/-- Why a tile stops the command. -/
inductive TileStop where
  | bad
  | data (flat : Nat)
deriving DecidableEq, Repr

/-- What a tile command has done so far: tiles completed, data bytes written, where the next tile may go, whether it overflowed, why it stopped, and the ranges it has read
and written. -/
structure TileRun where
  tiles : Nat
  bytes : Nat
  next  : Nat
  overBy  : Bool
  stop  : Option TileStop
  ins   : List (Nat × Nat)
  outs  : List (Nat × Nat)
deriving DecidableEq, Repr

def TileRun.start : TileRun := ⟨0, 0, 0, false, none, [], []⟩

/-- Whether every code of a cell decodes to zero (R194): -0 and the ternary code 10 count. -/
def cellZero (fmt : Nat) (cell : List Byte) : Bool :=
  let v := leNat cell
  match fmt with
  | 1 => v % 128 == 0
  | 2 => v % 128 == 0
  | 3 => v == 0
  | 4 => v % 8 == 0 && v / 16 % 8 == 0
  | 5 => v == 0
  | 6 => v == 0
  | 7 => (List.range 4).all (fun i => v / 4 ^ i % 2 == 0)
  | _ => v % 2 ^ 15 == 0

/-- A tile in its output form: its data, SPARSE and NNZ. -/
def packTile (pack : Bool) (fmt mask : Nat) (cells : List Byte) : List Byte × Bool × Nat :=
  let b := cellBytes fmt
  let cell (i : Nat) := (cells.drop (i * b)).take b
  let occ (i : Nat) := !bitN mask (i % 16) && !cellZero fmt (cell i)
  let used := (List.range 256).filter occ
  if pack then
    if 256 * b ≤ 32 + used.length * b then (cells, false, 0)
    else (leBytes 32 (used.foldl (fun m i => m + 2 ^ i) 0) ++ used.flatMap cell, true, used.length)
  else ((List.range 256).flatMap (fun i => if occ i then cell i else zeroBytes b), false, 0)

/-- A tile command's parts: format, tiles, IN_DIR, OUT_DIR, OUT_DATA, OUT_LIMIT, STATUS_PTR. -/
structure TileCmd where
  op    : Nat
  fmt   : Nat
  count : Nat
  inDir : Nat
  outDir : Nat
  data  : Nat
  limit : Nat
  status : Nat
deriving DecidableEq, Repr

def tileCmd (b : List Byte) : TileCmd :=
  ⟨fieldN b 0 1, fieldN b 1 1, fieldN b 4 4, fieldN b 8 8, fieldN b 0x10 8, fieldN b 0x18 8, fieldN b 0x20 8, fieldN b 0x28 8⟩

/-- Read a range of the Press's own stack. -/
def State.tileRead (s : State) (press c a n : Nat) : State × Except TileStop (List Byte) :=
  match s.ownStack press c a n false with
  | none => (s, .error .bad)
  | some l =>
    match s.readFor c l with
    | (s, .bytes bs) => (s, .ok bs)
    | (s, .poisoned f) => (s, .error (.data f))
    | (s, .coreFailed) => (s, .ok [])

/-- A tile whose TILE_PTR is not 32-byte aligned stops the command as a bad descriptor (log 128). Work one tile: read it, write it at the next 32-byte boundary with its directory entry unless `dry`, or stop before OUT_LIMIT. -/
def State.oneTile (s : State) (dry : Bool) (press c : Nat) (t : TileCmd) (r : TileRun) (i : Nat) : State × TileRun :=
  let dirAt := t.inDir + 64 * i
  match s.tileRead press c dirAt 64 with
  | (s, .error e) => (s, { r with stop := some e })
  | (s, .ok d) =>
    let b := cellBytes t.fmt
    let ptr := fieldN d 0 8
    let mask := fieldN d 0x10 2
    let sparse := bitN (fieldN d 0x12 1) 0
    let nnz := fieldN d 0x14 2
    let len := if sparse then 32 + nnz * b else 256 * b
    if ptr % 32 ≠ 0 then (s, { r with stop := some .bad })
    else
      match s.tileRead press c ptr len with
      | (s, .error e) => (s, { r with stop := some e })
      | (s, .ok data) =>
        let r := { r with ins := r.ins ++ [(dirAt, 64), (ptr, len)] }
        let cells := if sparse then sparseCells mask nnz b data else data
        let (out, sp, n) := packTile (t.op == 0x32) t.fmt mask cells
        let at_ := t.data + r.next
        if t.limit < r.next + out.length then (s, { r with overBy := true })
        else
          let ent := leBytes 8 at_ ++ (d.drop 8).take 10 ++ leBytes 1 sp.toNat ++ [0] ++ leBytes 2 n ++ zeroBytes 10 ++ d.drop 0x20
          match s.ownStack press c at_ out.length true, s.ownStack press c (t.outDir + 64 * i) 64 true with
          | some lo, some ld =>
            (if dry then s else (s.writeFor c lo out).writeFor c ld ent,
              { r with tiles := r.tiles + 1, bytes := r.bytes + out.length, next := (r.next + out.length + 31) / 32 * 32
                       outs := r.outs ++ [(at_, out.length), (t.outDir + 64 * i, 64)] })
          | _, _ => (s, { r with stop := some .bad })

/-- Work the tiles in directory order. -/
def State.tiles (s : State) (dry : Bool) (press c : Nat) (t : TileCmd) (r : TileRun) (is : List Nat) : State × TileRun :=
  match is with
  | [] => (s, r)
  | i :: rest =>
    let x := s.oneTile dry press c t r i
    if x.2.overBy || x.2.stop.isSome then x else x.1.tiles dry press c t x.2 rest

/-- Whether an output of a tile command overlaps an input of it (R195) (log 80). -/
def TileRun.overlaps (r : TileRun) : Bool := r.ins.any (fun i => r.outs.any (fun o => rangesMeet i.1 i.2 o.1 o.2))

/-- Whether flat frames of a Press's own stack hold n bytes from an address (R193). -/
def State.inStack (s : State) (press a n : Nat) : Bool :=
  match addrForm a with
  | .native .. | .legacy .. => (match s.flatPieces a n with | some l => l.all (fun p => p.2.1 / 2 ^ 37 == press) | none => false)
  | _ => false

/-- Write n undefined bytes at a flat address, as far as the context may write there (R195, log 1). -/
def State.scribble (s : State) (press c a n : Nat) : State :=
  match s.ownStack press c a n true with
  | some l => let r := s.freeBytes n; r.2.writeFor c l r.1
  | none => s

/-- How a tile command ends: a fault, or its status. -/
def State.tileEnd (s : State) (c : Nat) (t : TileCmd) (r : TileRun) (status : List Byte) : State :=
  match r.stop with
  | some .bad => s.fault c clsBadDesc t.op
  | some (.data f) => s.fault c clsUncorr f
  | none => s.engineWrite t.op c t.status status

/-- Run the oldest tile command of a Press and write its status (R193 to R195). Its directories and OUT_DATA must lie in the Press's own stack, whatever it writes; outputs that
overlap inputs leave undefined bytes. -/
def State.tileRun (s : State) (press : Nat) (cmd : PressCmd) : State :=
  let t := tileCmd cmd.bytes
  let c := cmd.ctx
  let s := s.setPressQueue press (markRun false cmd (s.pressQueue press))
  let n := List.range t.count
  if !(s.inStack press t.inDir (64 * t.count) && s.inStack press t.outDir (64 * t.count) && s.inStack press t.data 1) then s.fault c clsBadDesc t.op
  else
    let d := s.tiles true press c t .start n
    if d.2.overlaps then
      let s := (d.1.scribble press c t.outDir (64 * t.count)).scribble press c t.data (min t.limit (t.count * 512))
      let r := s.freeBytes 15
      r.2.tileEnd c t d.2 (r.1.take 7 ++ [0x80] ++ r.1.drop 7)
    else
      let x := s.tiles false press c t .start n
      x.1.tileEnd c t x.2 (leBytes 8 (x.2.tiles + x.2.overBy.toNat * 2 ^ 32 + 2 ^ 63) ++ leBytes 8 x.2.bytes)

/-- TILE.PACK (R194). -/
def execTilePack (p : Stack) (s : State) : Host.Outcome State Fault Refusal :=
  .next (s.unlessTripped fun s => s.onPressHead p (· == 0x32) (fun s q => s.tileRun p q))

/-- TILE.UNPACK (R194). -/
def execTileUnpack (p : Stack) (s : State) : Host.Outcome State Fault Refusal :=
  .next (s.unlessTripped fun s => s.onPressHead p (· == 0x33) (fun s q => s.tileRun p q))

/-! ### Patrol scrub and flat remap (R166 to R169) -/

/-- PATROL_SCRUB: the Press reads one word of its stack and finds it sound, corrects it, or cannot (R164, R166). -/
def execPatrolScrub (p : Stack) (word : Nat) (err : MemErr) (s : State) : Host.Outcome State Fault Refusal :=
  .next (s.unlessTripped fun s =>
    let a := dramPhys p (32 * word)
    if stackBytes ≤ 32 * word then s
    else
      let s := (s.checkDram a 32).1
      match err with
      | .none => s
      | .corrected => s.meetDram a .single
      | .uncorrectable => s.meetDram a .wide)

/-- Copy a frame byte for byte, poison with it (R168) (log 49). -/
def State.copyFrame (s : State) (stack src dst : Nat) : State :=
  let a := dramPhys stack (src * 65536)
  let d := dramPhys stack (dst * 65536)
  let s := (s.checkDram a 65536).1.countStackWrite d 65536
  let moved := (s.mem.filter (fun e => a ≤ e.1 && e.1 < a + 65536)).map (fun e => (e.1 - a + d, e.2))
  let pois := (s.dramPoison.filter (fun w => a ≤ 32 * w && 32 * w < a + 65536)).map (fun w => w - a / 32 + d / 32)
  { s with
    mem := moved.foldl (fun m e => memWrite m e.1 e.2) (memWipe s.mem d 65536)
    dramPoison := pois.foldl setAdd (s.dramPoison.filter (fun w => !(d ≤ 32 * w && 32 * w < d + 65536)))
    damage := s.damage.filter (fun e => !rangeIn e.1 1 d 65536) }

/-- FLAT_REMAP_COMPLETE: the copy of the stack's oldest remap that has a replacement ends, its entry is set, and it is recorded in board
flash (R168). -/
def execFlatRemapComplete (p : Stack) (s : State) : Host.Outcome State Fault Refusal :=
  .next (s.unlessTripped fun s => match (s.remapsOf p).find? (fun r => r.repl.isSome && !r.ready) with
    | none => s
    | some r =>
      let f := r.repl.getD 0
      let s := s.copyFrame p r.frame f
      let s := s.setRemaps p ((s.remapsOf p).map (fun x => if x.frame == r.frame then { x with ready := true } else x))
      { s with sec := { s.sec with flash := { s.sec.flash with remaps := s.sec.flash.remaps ++ [(p.val, r.frame, f)] } } })

end Sys2Proof.Machine
end

