-- ==== Sys2Proof/Machine/Dma.lean ====
section
/-!
DEFINITION. The DMA engine of a core (Table 4.12, R135, R151, R152) and the requester's side of remote memory operations (R307 to R312, R316):
how a command is checked and cut, where each side of a request lies, and how requests complete. Also FENCE.G (R317), the waits that end
when an engine has caught up, and TRAP (R139).
-/
namespace Sys2Proof.Machine

/-! ### The command block (Table 4.12) -/

def dmaOpc (b : List Byte) : Nat := fieldN b 0 1
def dmaKind (b : List Byte) : Nat := fieldN b 1 1 % 8
def dmaWide (b : List Byte) : Bool := bitN (fieldN b 1 1) 3
def dmaSigned (b : List Byte) : Bool := bitN (fieldN b 1 1) 4
def dmaLength (b : List Byte) : Nat := fieldN b 4 4
def dmaSrc (b : List Byte) : Nat := fieldN b 8 8
def dmaDst (b : List Byte) : Nat := fieldN b 0x10 8
def dmaResult (b : List Byte) : Nat := fieldN b 0x18 8
def dmaCompare (b : List Byte) : Nat := fieldN b 0x20 8

def opCopy : Nat := 0x21
def opAtomic : Nat := 0x22
def opFill : Nat := 0x23

/-- Bytes an atomic acts on. -/
def atSize (wide : Bool) : Nat := if wide then 8 else 4

/-- The encoding rules of a command block. -/
def dmaFields (core : Nat) (b : List Byte) : Bool :=
  let af := fieldN b 1 1
  fieldZero b 2 2 && fieldZero b 0x28 24 &&
  (if dmaOpc b = opAtomic then
    let n := atSize (dmaWide b)
    af < 32 && dmaKind b ≤ 6 && fieldZero b 4 4 && (dmaKind b == 6 || fieldZero b 0x20 8) && dmaDst b % n == 0 && dmaResult b % n == 0 &&
    (localPhys core (dmaResult b) n).isSome
  else af == 0 && 1 ≤ dmaLength b && fieldZero b 0x18 8 && fieldZero b 0x20 8)

/-- The work of a command counted in bytes; an atomic counts as one. -/
def dmaTotal (b : List Byte) : Nat := if dmaOpc b = opAtomic then 1 else dmaLength b

/-- An atomic's new word (R312, Table 4.12): ADD wraps, MIN and MAX as AFLAGS says. -/
def atomicNew (kind n : Nat) (signed : Bool) (old operand compare : Nat) : Nat :=
  let w := 8 * n
  let x := operand % 2 ^ w
  let less (a b : Nat) : Bool := if signed then decide (intOf w a < intOf w b) else decide (a < b)
  match kind with
  | 0 => (old + x) % 2 ^ w
  | 1 => if less x old then x else old
  | 2 => if less old x then x else old
  | 3 => old &&& x
  | 4 => old ||| x
  | 5 => x
  | _ => if old = compare % 2 ^ w then x else old

/-! ### Where an address of a request lies (R307, R308, R325) -/

inductive Side where
  | here (a : Nat)            -- a local window or a package address of this package
  | seq (slot page byte : Nat)
  | window (p : Nat)          -- a Press command window
  | deal
  | remote (pkg off : Nat)    -- the package and the OFFSET of the request
  | bad
deriving DecidableEq, Repr

/-- The side of a package address of this package. -/
def packageSide (a : Nat) : Side :=
  match addrForm a with
  | .seqState x p b => .seq x p b
  | .press p => .window p
  | .deal => .deal
  | .global .. => .bad
  | .hashed .. => .bad
  | .bad => .bad
  | _ => .here a

/-- The side of any address. A hashed offset whose window offset has no legacy window address is in no package's legacy window. -/
def State.side (s : State) (a : Nat) : Side :=
  match addrForm a with
  | .global g off => if s.isSelf g then packageSide off else .remote g off
  | .hashed ch o =>
    let (p, w) := hashPlace o
    if 2 ^ 37 ≤ w then .bad
    else if s.isSelf (64 * ch + p) then .here (12 * 2 ^ 37 + w)
    else .remote (64 * ch + p) (12 * 2 ^ 37 + w)
  | _ => packageSide a

def Side.isRemote (x : Side) : Bool := match x with | .remote .. => true | _ => false
def Side.isSeq (x : Side) : Bool := match x with | .seq .. => true | _ => false
def Side.isWindow (x : Side) : Bool := match x with | .window _ | .deal => true | _ => false

/-- Whether an address is a global one, and the boundary its pieces may not cross (R312). -/
def pieceGrid (a : Nat) : Option Nat :=
  match addrForm a with
  | .global .. => some 2048
  | .hashed .. => some 256
  | _ => none

/-- Bytes from an address to its piece boundary. -/
def toGrid (a : Nat) : Nat :=
  match pieceGrid a with
  | some g => g - a % g
  | none => 2048

/-- The length of the request that starts `off` bytes into a command (R135, R312). -/
def cutLen (b : List Byte) (off : Nat) : Nat :=
  let left := dmaTotal b - off
  if dmaOpc b = opAtomic then left
  else if dmaOpc b = opFill then min left (min 2048 (toGrid (dmaDst b + off)))
  else min left (min 2048 (min (toGrid (dmaSrc b + off)) (toGrid (dmaDst b + off))))

/-- Every side a range of n bytes from a meets: those of its first and last byte, and for a hashed range those of each granule. -/
def State.sides (s : State) (a n : Nat) : List Side :=
  match addrForm a with
  | .hashed .. => (List.range ((a % 256 + n + 255) / 256)).map (fun i => s.side (if i = 0 then a else a / 256 * 256 + 256 * i))
  | _ => [s.side a, s.side (a + (n - 1))]

/-- The offsets below n at which either side of a COPY may change its package: each start of a 256-byte granule of the source or the destination. -/
def pieceStarts (src dst n : Nat) : List Nat :=
  0 :: ((List.range (n / 256 + 1)).flatMap (fun i => [256 * i + (256 - src % 256), 256 * i + (256 - dst % 256)])).filter (· < n)

/-- Whether a command asks only for what R171, R308 and R312 allow; checked before anything is sent. -/
def State.dmaTargets (s : State) (b : List Byte) : Bool :=
  let n := if dmaOpc b = opAtomic then atSize (dmaWide b) else dmaLength b
  let ds := s.sides (dmaDst b) n
  if dmaOpc b = opCopy then
    let ss := s.sides (dmaSrc b) n
    if (s.side (dmaDst b)).isWindow then
      (n == 64 || n == 128) && dmaSrc b % 64 == 0 && !inCommandWindow (dmaSrc b) && ss.all (fun x => x != .bad && !x.isWindow)
    else
      ss.all (fun x => x != .bad && !x.isWindow) && ds.all (fun x => x != .bad && !x.isWindow) &&
      (if (pieceGrid (dmaSrc b)).isSome && (pieceGrid (dmaDst b)).isSome then
        (pieceStarts (dmaSrc b) (dmaDst b) n).all (fun o => !((s.side (dmaSrc b + o)).isRemote && (s.side (dmaDst b + o)).isRemote))
      else true)
  else ds.all (fun x => x != .bad && !x.isWindow)

/-! ### Faults, completion, slots -/

/-- A command of a core faults: the DMA status names the first such, and the context faults (R135). -/
def State.dmaFault (s : State) (core op cls detail : Nat) : State :=
  let s := s.modCore core (fun c =>
    if c.dmaStatus.getLsbD 0 then c else { c with dmaStatus := c.dmaStatus ||| BitVec.ofNat 64 (1 + op % 256 * 256) })
  match s.coreCtx core with
  | some c => s.fault c cls detail
  | none => s

def State.dmaBad (s : State) (core op : Nat) : State := s.dmaFault core op clsBadDesc op

/-- Whether a command has been cut whole and has no request left. -/
def DmaCmd.complete (q : DmaCmd) : Bool := q.begun && dmaTotal q.block ≤ q.nextOff && q.reqs.isEmpty

/-- Change the commands of a core's queue and take out those that are complete. -/
def CoreState.modDma (c : CoreState) (f : DmaCmd → DmaCmd) : CoreState :=
  { c with dmaQ := (c.dmaQ.map f).filter (fun q => !q.complete) }

/-- Finish a request: it leaves its command. -/
def State.finishReq (s : State) (core id : Nat) : State :=
  s.modCore core (fun c => c.modDma (fun q => { q with reqs := q.reqs.filter (fun r => r.id != id) }))

def State.setReq (s : State) (core id : Nat) (st : ReqState) : State :=
  s.modCore core (fun c => c.modDma (fun q => { q with reqs := q.reqs.map (fun r => if r.id = id then { r with st := st } else r) }))

/-- The command and request with a number. -/
def CoreState.findReq (c : CoreState) (id : Nat) : Option (DmaCmd × DmaReq) :=
  c.dmaQ.findSome? (fun q => (q.reqs.find? (fun r => r.id == id)).map (fun r => (q, r)))

/-- The lowest slot number not in the table. -/
def lowestFree {α : Type} (t : Tab α) (n : Nat) : Nat :=
  match t with
  | [] => n
  | (k, _) :: r => if k = n then lowestFree r (n + 1) else n

/-- Slots a context holds. -/
def State.slotsOf (s : State) (c : Nat) : Nat := (s.memop.slots.filter (fun e => e.2.ctx == c)).length

/-- Whether context c can take a request slot (R311). -/
def State.slotFree (s : State) (c : Nat) : Bool :=
  s.memop.slots.length < 65536 && s.slotsOf c < s.regN (offMemReqLimit c)

/-- Take the lowest free slot: its number, the TAG of its request, and the state (R311, R313) (log 13). -/
def State.takeSlot (s : State) (r : ReqSlot) : Nat × Nat × State :=
  let n := lowestFree s.memop.slots 0
  let g := (tabGet 0 s.memop.gens n + 1) % 2 ^ 16
  let s := { s with memop := { s.memop with
    slots := tabInsert s.memop.slots n { r with gen := g }
    gens := tabInsert s.memop.gens n g } }
  let used := s.memop.slots.length
  (n, n + g * 2 ^ 16, if s.regN (offMemCtr 1) < used then s.setRegN (offMemCtr 1) used else s)

def State.freeSlot (s : State) (n : Nat) : State := { s with memop := { s.memop with slots := tabErase s.memop.slots n } }

/-- The context a context's peer table names on a package (R309). -/
def State.peerCtx (s : State) (c g : Nat) : Option Nat :=
  if s.regN (offMemPeerPtr c) = 0 then none
  else
    let b := ((tabGet [] s.memop.peerTab c).getD g 0).toNat
    if bitN b 7 then some (b % 64) else none

/-- The slots a core holds for its own context. A Suspended context's write slots name logical cores (R425), and are no other context's. -/
def State.coreSlots (s : State) (core : Nat) : Tab ReqSlot :=
  s.memop.slots.filter (fun e => s.coreCtx core == some e.2.ctx && (match e.2.owner with | .dma k _ => k == core | _ => false))

/-- The slot a request of a core holds, if any. -/
def State.slotOfReq (s : State) (core id : Nat) : Option (Nat × ReqSlot) := (s.coreSlots core).find? (fun e => e.2.owner == .dma core id)

/-- Requests of a core that are outstanding (R151): local ones, and held slots. -/
def State.outstanding (s : State) (core : Nat) : Nat :=
  (((s.core core).dmaQ.map (fun q => (q.reqs.filter (fun r => r.st != .remote && (s.slotOfReq core r.id).isNone)).length)).foldl (· + ·) 0) +
  (s.coreSlots core).length

/-- An access as `localAccess` has it, or one whose permission was granted when it was accepted and may have gone since: it completes under the old entry (R414). -/
def State.accessAs (s : State) (granted : Bool) (core c a n : Nat) (wr : Bool) : Access :=
  match s.localAccess core c a n wr with
  | .bad =>
    if granted then
      match addrForm a with
      | .native .. | .legacy .. => (match s.flatPieces a n with | some l => .pieces l | none => .bad)
      | _ => .bad
    else .bad
  | x => x

/-- The bytes of this package at which a lost request's reply would have landed: those of a read, and none of an atomic or a write (R321). A sequence-state
destination is translated by the slot's chain of pages. -/
def State.lostPieces (s : State) (r : ReqSlot) : List Piece :=
  match r.owner with
  | .dma core _ =>
    if r.kind = 0x10 ∨ r.kind = 0x20 then
      match s.side r.dest with
      | .here a => (match s.accessAs true core r.ctx a r.len true with | .pieces l => l | _ => [])
      | .seq x p b => (match (s.seqPieces r.ctx x p b r.len true).2 with | .pieces l => l | _ => [])
      | _ => []
    else []
  | .reclaim _ => []

/-- The opcode of the DMA command a kind of request comes from. -/
def kindOp (kind : Nat) : Nat := match kind with | 0x13 => opAtomic | 0x12 => opFill | _ => opCopy

/-- What a held slot asked for has failed: its context faults, and the DMA status of its core says so (R135). -/
def State.slotFault (s : State) (r : ReqSlot) (cls detail : Nat) : State :=
  match r.owner with
  | .dma core _ => if s.coreCtx core = some r.ctx then s.dmaFault core (kindOp r.kind) cls detail else s.fault r.ctx cls detail
  | .reclaim _ => s.fault r.ctx cls detail

/-- Send a remote request of a core and hold its slot. One to a peer already dead is discarded at once, and its context faults as at the declaration (R297, R321, Table
4.17). -/
def State.sendRequest (s : State) (core c g id kind dest len : Nat) (op : Nat → List (Nat × Nat × Nat)) (payload : List Byte) (dctx : Nat) : State :=
  let slot : ReqSlot := ⟨0, c, .dma core id, g, kind, dest, len, none, none⟩
  let (n, tag, s) := s.takeSlot slot
  let s := s.sendSeq (s.mkPacket kind 0 g c dctx (op tag) payload) (some n)
  if (s.peer g).dead && !s.isSelf g then ((s.freeSlot n).scramble (s.lostPieces slot)).slotFault slot clsDead g else s

/-- Read the source of a request on this package. -/
inductive SrcRes where
  | bytes (bs : List Byte)
  | wait
  | bad
  | poisoned (a : Nat)
  | lost
deriving DecidableEq, Repr

/-- The DMA engine presents an access to the banks that some pieces meet (Table 5.2). -/
def State.presentDma (s : State) (core : Nat) (l : List Piece) (write atomic : Bool) : State :=
  s.present (.engine core 3) (l.map (·.2)) write atomic

/-- Read at this end for a core's DMA engine, which waits, is refused or meets an error as the mapping and the memory say. -/
def State.readHere (s : State) (granted : Bool) (core c a n : Nat) : State × SrcRes :=
  match s.accessAs granted core c a n false with
  | .wait => (s, .wait)
  | .bad => (s, .bad)
  | .pieces l =>
    match s.readFor c l with
    | (s, .bytes bs) => (s.presentDma core l false false, .bytes bs)
    | (s, .poisoned f) => (s, .poisoned f)
    | (s, .coreFailed) => (s, .lost)

/-- Whether the sides of a request that lie on this package are mapped for it when it is sent (R413, R414). -/
def State.dmaMapped (s : State) (core : Nat) (b : List Byte) (off n : Nat) : Bool :=
  let c := (s.coreCtx core).getD 0
  let ok (a len : Nat) (wr : Bool) : Bool := match s.side a with | .here a => s.localAccess core c a len wr != .bad | _ => true
  if dmaOpc b = opAtomic then ok (dmaDst b) (atSize (dmaWide b)) true
  else (dmaOpc b != opCopy || ok (dmaSrc b + off) n false) && ok (dmaDst b + off) n true

/-- Where the network takes a request to some pieces: the channel of a stack (R14, R162), or a scratchpad or the store of a cluster. -/
def pieceEnds (l : List Piece) : List (NetEnd × Nat) :=
  l.flatMap (fun p =>
    let a := p.2.1
    if isDram a then
      (List.range (ceilDiv (a % 2048 + p.2.2) 2048)).map (fun i => (.stack (a / 2 ^ 37) (stackChannel ((a / 2048 + i) * 2048 % 2 ^ 37)), 0))
    else [(.cluster (clusterOfPhys a), if isStore a then 0 else 1 + (a - 2 ^ 43) / 65536 % 128)])

/-! ### The way of a request through the networks (R17, R19) -/

/-- The home Press of a core (R181). -/
def homePress (core : Nat) : Nat := 3 * clusterDie (coreCluster core) + 1

/-- Where the networks take a side of a request: to memory, to the home Press for a sequence-state address, to the Presses of a command window, or to the Table. A command has no channel, and
takes the router of channel 0 (log 112). -/
def State.sideEnds (s : State) (granted : Bool) (core c a n : Nat) (wr : Bool) : List NetEnd :=
  match s.side a with
  | .here a => (match s.accessAs granted core c a n wr with | .pieces l => ((pieceEnds l).map (·.1)).eraseDups | _ => [])
  | .seq .. => [.stack (homePress core) 0]
  | .window p => if p = 15 then (List.range 12).map (fun k => .stack k 0) else [.stack p 0]
  | .deal => [.table]
  | .remote .. => [.table]
  | .bad => []

/-- The passages of one side: a request to each end, and from memory what is read or an acknowledgement back. -/
def State.sideLegs (s : State) (granted : Bool) (core c a n : Nat) (wr : Bool) : List NetLeg :=
  let me : NetEnd := .cluster (coreCluster core)
  let back := match s.side a with | .here _ => true | _ => false
  (s.sideEnds granted core c a n wr).flatMap (fun e => ⟨0, me, e⟩ :: (if back then [⟨1, e, me⟩] else []))

/-- The passages of a request of a core that is sent: what it reads, then what it writes; one that reads from sequence state goes on from its home Press. -/
def State.reqLegs (s : State) (granted : Bool) (core c : Nat) (b : List Byte) (off n : Nat) : List NetLeg :=
  if dmaOpc b = opAtomic then s.sideLegs granted core c (dmaDst b) (atSize (dmaWide b)) true
  else
    let dst := s.sideLegs granted core c (dmaDst b + off) n true
    if dmaOpc b = opFill then dst
    else if (s.side (dmaSrc b + off)).isSeq then s.sideLegs granted core c (dmaSrc b + off) n false
    else s.sideLegs granted core c (dmaSrc b + off) n false ++ dst

/-- A request of a core sets out on its passages. -/
def State.setOut (s : State) (core c id : Nat) (l : List NetLeg) : State :=
  match l with
  | [] => s
  | x :: r => s.netEnter ⟨x.cls, some c, x.src, x.dst, core % 128 / 16, some (core, id), r⟩

/-- Add a request to the command being cut, and send it out. -/
def State.addReq (s : State) (core off len : Nat) (st : ReqState) : State :=
  let c := (s.coreCtx core).getD 0
  let s := match (s.core core).dmaQ.find? (fun q => q.nextOff < dmaTotal q.block) with
    | some q => s.setOut core c (s.core core).dmaNext (s.reqLegs (s.dmaMapped core q.block off len) core c q.block off len)
    | none => s
  s.modCore core (fun c =>
    let id := c.dmaNext
    let rec put (l : List DmaCmd) : List DmaCmd :=
      match l with
      | [] => []
      | q :: r =>
        if q.nextOff < dmaTotal q.block then { q with begun := true, nextOff := off + len, reqs := q.reqs ++ [⟨id, off, len, st, s.dmaMapped core q.block off len⟩] } :: r
        else q :: put r
    { c with dmaQ := put c.dmaQ, dmaNext := id + 1 })

/-- Whether a request of a core waits to write to package g what it reads from sequence state: what is sent to g after it must not enter the stream first (R315). -/
def State.oweRemote (s : State) (core g : Nat) : Bool :=
  (s.core core).dmaQ.any (fun q => dmaOpc q.block == opCopy && q.reqs.any (fun r =>
    (match r.st with | .sent | .fetched _ => true | _ => false) && (s.side (dmaSrc q.block + r.off)).isSeq &&
    (match s.side (dmaDst q.block + r.off) with | .remote k _ => k == g | _ => false)))

/-- Cut one request of a command and send it; none when it must wait (R152, R311, R315). -/
def State.cutOne (s : State) (core c : Nat) (q : DmaCmd) : Option State :=
  let b := q.block
  let op := dmaOpc b
  let off := q.nextOff
  let n := cutLen b off
  let id := (s.core core).dmaNext
  if 384 ≤ s.outstanding core then none
  else
    let dst := if op = opAtomic then s.side (dmaDst b) else s.side (dmaDst b + off)
    let src := if op = opCopy then s.side (dmaSrc b + off) else .here 0
    match src, dst with
    | .remote g o, _ =>
      match s.peerCtx c g with
      | none => some (s.dmaBad core op)
      | some d =>
        if !s.slotFree c || s.oweRemote core g then none
        else some ((s.addReq core off n .remote).sendRequest core c g id 0x10 (dmaDst b + off) n (fun tag => [(0x10, 8, o), (0x18, 4, tag), (0x1C, 2, n)]) [] d)
    | _, .remote g o =>
      match s.peerCtx c g with
      | none => some (s.dmaBad core op)
      | some d =>
        if !s.slotFree c || s.oweRemote core g then none
        else if op = opAtomic then
          some ((s.addReq core off n .remote).sendRequest core c g id 0x13 (dmaResult b) (atSize (dmaWide b))
            (fun tag => [(0x10, 8, o), (0x18, 4, tag), (0x1C, 1, fieldN b 1 1)]) (leBytes 8 (dmaSrc b) ++ leBytes 8 (dmaCompare b)) d)
        else if op = opFill then
          some ((s.addReq core off n .remote).sendRequest core c g id 0x12 0 n
            (fun tag => [(0x10, 8, o), (0x18, 4, tag), (0x1C, 2, n)]) (leBytes 8 (dmaSrc b)) d)
        else if src.isSeq then some (s.addReq core off n .sent)
        else
          match src with
          | .here a =>
            match s.readHere false core c a n with
            | (s, .bytes bs) => some ((s.addReq core off n .remote).sendRequest core c g id 0x11 0 n (fun tag => [(0x10, 8, o), (0x18, 4, tag)]) bs d)
            | (_, .wait) => none
            | (s, .bad) => some (s.dmaBad core op)
            | (s, .poisoned f) => some (s.dmaFault core op clsUncorr f)
            | (s, .lost) => some s
          | _ => some (s.dmaBad core op)
    | _, _ => some (s.addReq core off n .sent)

/-- Send requests of a command until it is cut whole or the next must wait. -/
def State.sendReqs (s : State) (core c : Nat) (fuel : Nat) : State :=
  match fuel with
  | 0 => s
  | k + 1 =>
    if !s.ctxLive c then s
    else
      match (s.core core).dmaQ.find? (fun q => q.begun && q.nextOff < dmaTotal q.block) with
      | none => s
      | some q =>
        match s.cutOne core c q with
        | none => s
        | some s => s.sendReqs core c k

/-- The engine of a core works the first command of its queue with bytes still to send, when it is of the wanted kind or of none (a reserved
opcode or kind): it is checked when it begins, then cut and sent as far as there is room. -/
def State.dmaWork (s : State) (core : Core) (want : List Byte → Bool) : State :=
  if !s.enginesBegin core then s
  else
    match (s.core core).dmaQ.find? (fun q => q.nextOff < dmaTotal q.block || !q.begun), s.coreCtx core with
    | some q, some c =>
      let b := q.block
      let op := dmaOpc b
      if want b then
        if q.begun then s.sendReqs core c 384
        else if !(op == opCopy || op == opAtomic || op == opFill) || !dmaFields core b || !s.dmaTargets b then s.dmaBad core op
        else
          let s := s.modCore core (fun k => { k with dmaQ := k.dmaQ.map (fun x => if x = q then { x with begun := true } else x) })
          s.sendReqs core c 384
      else s
    | _, _ => s

/-- A reserved opcode, met by whichever row works the command. -/
def dmaReserved (b : List Byte) : Bool := !(dmaOpc b == opCopy || dmaOpc b == opAtomic || dmaOpc b == opFill)
def wantsAtomic (kind : Nat) (b : List Byte) : Bool := dmaReserved b || (dmaOpc b == opAtomic && (dmaKind b == kind || dmaKind b == 7))

/-- DMA_COPY: the engine works a COPY. -/
def execDmaCopy (core : Core) (s : State) : Host.Outcome State Fault Refusal :=
  .next (s.dmaWork core (fun b => dmaReserved b || dmaOpc b == opCopy))
/-- DMA_FILL: the engine works a FILL. -/
def execDmaFill (core : Core) (s : State) : Host.Outcome State Fault Refusal :=
  .next (s.dmaWork core (fun b => dmaReserved b || dmaOpc b == opFill))
/-- ATOMIC with kind ADD. -/
def execAtomicAdd (core : Core) (s : State) : Host.Outcome State Fault Refusal := .next (s.dmaWork core (wantsAtomic 0))
/-- ATOMIC with kind MIN. -/
def execAtomicMin (core : Core) (s : State) : Host.Outcome State Fault Refusal := .next (s.dmaWork core (wantsAtomic 1))
/-- ATOMIC with kind MAX. -/
def execAtomicMax (core : Core) (s : State) : Host.Outcome State Fault Refusal := .next (s.dmaWork core (wantsAtomic 2))
/-- ATOMIC with kind AND. -/
def execAtomicAnd (core : Core) (s : State) : Host.Outcome State Fault Refusal := .next (s.dmaWork core (wantsAtomic 3))
/-- ATOMIC with kind OR. -/
def execAtomicOr (core : Core) (s : State) : Host.Outcome State Fault Refusal := .next (s.dmaWork core (wantsAtomic 4))
/-- ATOMIC with kind XCHG. -/
def execAtomicXchg (core : Core) (s : State) : Host.Outcome State Fault Refusal := .next (s.dmaWork core (wantsAtomic 5))
/-- ATOMIC with kind CAS. -/
def execAtomicCas (core : Core) (s : State) : Host.Outcome State Fault Refusal := .next (s.dmaWork core (wantsAtomic 6))

/-! ### Completion of requests -/

/-- The bytes of a FILL at addresses a to a + n - 1 (R135). -/
def fillBytes (pat : List Byte) (a n : Nat) : List Byte := (List.range n).map (fun i => pat.getD ((a + i) % 8) 0)

/-- Release the slot a request still holds. -/
def State.dropSlot (s : State) (core id : Nat) : State :=
  match s.slotOfReq core id with
  | some e => s.freeSlot e.1
  | none => s

/-- Write the destination of a request on this package and finish it. -/
def State.landHere (s : State) (granted : Bool) (core c op id a : Nat) (bs : List Byte) : State :=
  match s.accessAs granted core c a bs.length true with
  | .pieces l => (((s.dropSlot core id).presentDma core l true false).writeFor c l bs).finishReq core id
  | .wait => s
  | .bad => s.dmaBad core op

/-- Use a request's source bytes: those fetched already, or read now on this package. -/
def State.withSource (s : State) (core c op : Nat) (r : DmaReq) (src : Side) (k : State → List Byte → State) : State :=
  match r.st with
  | .fetched bs => k s bs
  | .sent =>
    match src with
    | .here a =>
      match s.readHere r.mapped core c a r.len with
      | (s, .bytes bs) => k s bs
      | (s, .wait) => s
      | (s, .bad) => s.dmaBad core op
      | (s, .poisoned f) => s.dmaFault core op clsUncorr f
      | (s, .lost) => s
    | _ => s
  | _ => s

/-- An atomic on this package: the old value, and the word written (R147). -/
def State.atomicHere (s : State) (c : Nat) (l : List Piece) (kind n : Nat) (signed : Bool) (operand compare : Nat) : State × Except Nat Nat :=
  match s.readFor c l with
  | (s, .bytes bs) =>
    let old := leNat bs
    (s.writeFor c l (leBytes n (atomicNew kind n signed old operand compare)), .ok old)
  | (s, .poisoned f) => (s, .error f)
  | (s, .coreFailed) => (s, .error 0)

/-- Write an atomic's old value at RESULT_PTR and finish the request. -/
def State.landResult (s : State) (core id : Nat) (b : List Byte) (old : Nat) : State :=
  let n := atSize (dmaWide b)
  match localPhys core (dmaResult b) n with
  | some p => ((s.presentDma core [(0, p, n)] true false).writePhys p (leBytes n old)).finishReq core id
  | none => s.finishReq core id

/-- Finish the command that a request belongs to: a command window has taken its bytes, and the slots of its reads are released (R311). -/
def State.finishCommand (s : State) (core id : Nat) : State :=
  match (s.core core).findReq id with
  | some (q, _) => q.reqs.foldl (fun s r => (s.dropSlot core r.id).finishReq core r.id) s
  | none => s

/-- Offer the whole command of a COPY to a command window: every piece must have been fetched (R185, R193, R253). -/
def State.offerWindow (s : State) (core c id : Nat) (q : DmaCmd) (dst : Side) (bs : List Byte) : State :=
  match dst with
  | .window p =>
    match s.pressOffer c p bs with
    | .accepted s => s.finishCommand core id
    | .wait => s
    | .bad => s.dmaBad core (fieldN bs 0 1)
  | .deal =>
    if (fieldN bs 0 1 = 0x51 ∧ bs.length = 128) ∨ (fieldN bs 0 1 = 0x52 ∧ bs.length = 64) then
      if s.deal.window.any (fun w => w.core == core && q.reqs.any (fun r => r.id == w.req)) then s
      else { s with deal := { s.deal with window := s.deal.window ++ [⟨c, core, id, bs⟩] } }
    else s.dmaBad core (fieldN bs 0 1)
  | _ => s

/-- The fetched bytes of a command, in order, when every piece has been fetched. -/
def DmaCmd.allFetched (q : DmaCmd) : Option (List Byte) :=
  if dmaTotal q.block ≤ q.nextOff ∧ q.reqs.all (fun r => match r.st with | .fetched _ => true | _ => false) then
    some (q.reqs.flatMap (fun r => match r.st with | .fetched bs => bs | _ => []))
  else none

/-- Whether a remote write of a request has entered its stream's send window (R316). -/
def State.writeEntered (s : State) (core id : Nat) : Bool :=
  match s.slotOfReq core id with
  | some e => e.2.seq.isSome && (e.2.kind == 0x11 || e.2.kind == 0x12)
  | none => true

/-- Complete one request of a core. -/
def State.completeReq (s : State) (core c : Nat) (q : DmaCmd) (r : DmaReq) : State :=
  let b := q.block
  let op := dmaOpc b
  if op = opAtomic then
    match r.st, s.side (dmaDst b) with
    | .fetched bs, _ => s.landResult core r.id b (leNat bs)
    | .sent, .here a =>
      let n := atSize (dmaWide b)
      match s.accessAs r.mapped core c a n true with
      | .pieces l =>
        match (s.presentDma core l false true).atomicHere c l (dmaKind b) n (dmaSigned b) (dmaSrc b) (dmaCompare b) with
        | (s, .ok old) => s.landResult core r.id b old
        | (s, .error f) => s.dmaFault core op clsUncorr f
      | .wait => s
      | .bad => s.dmaBad core op
    | _, _ => s
  else
    let dst := s.side (dmaDst b + r.off)
    match r.st with
    | .remote => if s.writeEntered core r.id then s.finishReq core r.id else s
    | .done => s.finishReq core r.id
    | _ =>
      if op = opFill then
        match r.st, dst with
        | .sent, .here a => s.landHere r.mapped core c op r.id a (fillBytes (leBytes 8 (dmaSrc b)) (dmaDst b + r.off) r.len)
        | _, _ => s
      else
        let src := s.side (dmaSrc b + r.off)
        match s.side (dmaDst b) with
        | .window _ | .deal =>
          let s := s.withSource core c op r src (fun s bs => s.setReq core r.id (.fetched bs))
          match (s.core core).findReq r.id with
          | some (q, _) =>
            match q.allFetched with
            | some bs => s.offerWindow core c r.id q (s.side (dmaDst b)) bs
            | none => s
          | none => s
        | _ =>
          match dst with
          | .here a => s.withSource core c op r src (fun s bs => s.landHere r.mapped core c op r.id a bs)
          | _ => s

/-- The ends of a sent request: where it reads, and where it writes. None for a side that is no memory of this package, nor for a write whose source comes from elsewhere. -/
def State.reqEnds (s : State) (core c : Nat) (b : List Byte) (r : DmaReq) : List (NetEnd × Nat) × List (NetEnd × Nat) :=
  let ends (a n : Nat) (wr : Bool) : List (NetEnd × Nat) :=
    match s.side a with
    | .here a => (match s.accessAs r.mapped core c a n wr with | .pieces l => pieceEnds l | _ => [])
    | _ => []
  if r.st != .sent then ([], [])
  else if dmaOpc b = opAtomic then ([], ends (dmaDst b) (atSize (dmaWide b)) true)
  else if dmaOpc b = opFill then ([], ends (dmaDst b + r.off) r.len true)
  else (ends (dmaSrc b + r.off) r.len false,
    match s.side (dmaSrc b + r.off) with | .here _ => ends (dmaDst b + r.off) r.len true | _ => [])

/-- Whether the networks may deliver a request now (R17): no earlier request of the core that is still on its way reads where this one reads, or reads or writes where it writes, and no earlier
FILL or atomic, whose first packet is its write, writes where this one reads (log 116). -/
def State.delivers (s : State) (core c : Nat) (b : List Byte) (r : DmaReq) : Bool :=
  let e := s.reqEnds core c b r
  (s.core core).dmaQ.all (fun q => q.reqs.all (fun p =>
    !(p.id < r.id) || (let f := s.reqEnds core c q.block p
      !(f.1.any e.1.contains || f.2.any e.2.contains || f.1.any e.2.contains || (dmaOpc q.block != opCopy && f.2.any e.1.contains)))))

/-- DMA_REQUEST_COMPLETE: the data of request i of a core lands, or its write is accepted (R135, R151), once the networks carry nothing of it any more (R19), in the order they keep. -/
def execDmaRequestComplete (core : Core) (i : Nat) (s : State) : Host.Outcome State Fault Refusal :=
  .next (if s.enginesRun core then
    match (s.core core).findReq i, s.coreCtx core with
    | some (q, r), some c => if s.delivers core c q.block r && !s.net.carries core i then s.completeReq core c q r else s
    | _, _ => s
  else s)

/-! ### Sequence-state requests (R180, R181) -/

/-- Translate a side of a request and go on with the pieces. -/
def State.seqSide (s : State) (core c op x page byte n : Nat) (wr : Bool) (k : State → List Piece → State) : State :=
  match s.seqPieces c x page byte n wr with
  | (s, .pieces l) => k s l
  | (s, .bad) => s.dmaBad core op
  | (s, .inconsistent e) => (s.chainFault c x e).dmaFault core op clsUncorr 0

/-- Read a sequence-state range. -/
def State.seqRead (s : State) (core c op x page byte n : Nat) (k : State → List Byte → State) : State :=
  s.seqSide core c op x page byte n false (fun s l =>
    match s.readFor c l with
    | (s, .bytes bs) => k s bs
    | (s, .poisoned f) => s.dmaFault core op clsUncorr f
    | (s, .coreFailed) => s)

/-- Send what a request has read from sequence state to its remote destination: it waits when no slot is free (R311). -/
def State.seqSend (s : State) (core c op g a id n : Nat) (bs : List Byte) : State :=
  match s.peerCtx c g with
  | none => s.dmaBad core op
  | some d =>
    if !s.slotFree c then s
    else (s.setReq core id .remote).sendRequest core c g id 0x11 0 n (fun tag => [(0x10, 8, a), (0x18, 4, tag)]) bs d

/-- The pages (slot, page) that the sequence-state sides of a request touch and that are still to be served. -/
def State.reqPages (s : State) (b : List Byte) (r : DmaReq) : List (Nat × Nat) :=
  let pages (a n : Nat) : List (Nat × Nat) := match s.side a with | .seq x p o => (pageParts p o n).map (fun q => (x, q.1)) | _ => []
  let dst := if dmaOpc b = opAtomic then pages (dmaDst b) (atSize (dmaWide b)) else pages (dmaDst b + r.off) r.len
  match r.st with
  | .done => []
  | .fetched _ => if dmaOpc b = opAtomic then [] else dst
  | _ => (if dmaOpc b = opCopy then pages (dmaSrc b + r.off) r.len else []) ++ dst

/-- Whether a request has reached its home Press: sent, and not waiting for a source that lies elsewhere. -/
def State.atPress (s : State) (b : List Byte) (r : DmaReq) : Bool := r.st == .sent && !(s.reqPages b r).isEmpty

/-- Whether the home Press serves a request of a core now (R181): the core's requests that have arrived are translated in order, and its accesses to one page are served in
issue order. -/
def State.seqTurn (s : State) (core : Nat) (b : List Byte) (r : DmaReq) : Bool :=
  let mine := s.reqPages b r
  (s.core core).dmaQ.all (fun q => q.reqs.all (fun p =>
    !(p.id < r.id) || (!(s.atPress b r && s.atPress q.block p) && !(s.reqPages q.block p).any mine.contains)))

/-- Serve the sequence-state side of a request: a source is read, then a destination written; an atomic or FILL is performed. -/
def State.seqServe (s : State) (core c : Nat) (q : DmaCmd) (r : DmaReq) : State :=
  let b := q.block
  let op := dmaOpc b
  if op = opAtomic then
    let n := atSize (dmaWide b)
    match r.st, s.side (dmaDst b) with
    | .sent, .seq x p o =>
      s.seqSide core c op x p o n true (fun s l =>
        match s.atomicHere c l (dmaKind b) n (dmaSigned b) (dmaSrc b) (dmaCompare b) with
        | (s, .ok old) => s.setReq core r.id (.fetched (leBytes n old))
        | (s, .error f) => s.dmaFault core op clsUncorr f)
    | _, _ => s
  else
    let dst := s.side (dmaDst b + r.off)
    let src := if op = opFill then .here 0 else s.side (dmaSrc b + r.off)
    match r.st, src, dst with
    | .sent, .seq x p o, .remote g a =>
      s.seqRead core c op x p o r.len (fun s bs => (s.setReq core r.id (.fetched bs)).seqSend core c op g a r.id r.len bs)
    | .fetched bs, .seq .., .remote g a => s.seqSend core c op g a r.id r.len bs
    | .sent, .seq x p o, _ => s.seqRead core c op x p o r.len (fun s bs => s.setReq core r.id (.fetched bs))
    | _, _, .seq x p o =>
      let land (s : State) (bs : List Byte) : State :=
        s.seqSide core c op x p o r.len true (fun s l =>
          ((s.writeFor c l bs).dropSlot core r.id).setReq core r.id .done)
      if op = opFill then (match r.st with | .sent => land s (fillBytes (leBytes 8 (dmaSrc b)) (dmaDst b + r.off) r.len) | _ => s)
      else s.withSource core c op r src land
    | _, _, _ => s

/-- The passages of a request that its home Press has served: to the Press that holds the page and back to the core, and then to what is still to be written. -/
def State.servedLegs (s : State) (core c : Nat) (b : List Byte) (r : DmaReq) : List NetLeg :=
  let me : NetEnd := .cluster (coreCluster core)
  let home : NetEnd := .stack (homePress core) 0
  let atDst := dmaOpc b != opCopy || !(s.side (dmaSrc b + r.off)).isSeq || (match r.st with | .fetched _ => true | _ => false)
  let a := if dmaOpc b = opAtomic then dmaDst b else if atDst then dmaDst b + r.off else dmaSrc b + r.off
  let ends : List NetEnd := match s.side a with
    | .seq x p o => (match (s.seqPieces c x p o (if dmaOpc b = opAtomic then atSize (dmaWide b) else r.len) atDst).2 with | .pieces l => ((pieceEnds l).map (·.1)).eraseDups | _ => [])
    | _ => []
  ends.flatMap (fun e => [(⟨0, home, e⟩ : NetLeg), ⟨1, e, me⟩]) ++ (if atDst then [] else s.sideLegs r.mapped core c (dmaDst b + r.off) r.len true)

/-- SEQ_STATE_ACCESS: the sequence-state side of request i of a core, once it has come to its home Press, is translated, checked and served in its turn. While a boundary of its context runs, it
waits (R182). -/
def execSeqStateAccess (core : Core) (i : Nat) (s : State) : Host.Outcome State Fault Refusal :=
  .next (if s.enginesRun core then
    match (s.core core).findReq i, s.coreCtx core with
    | some (q, r), some c =>
      if s.seq.boundary = some c || s.net.carries core i || !s.seqTurn core q.block r then s
      else
        let t := s.seqServe core c q r
        match (t.core core).findReq i with
        | some (_, r') => if r'.st = r.st then t else t.setOut core c i (s.servedLegs core c q.block r)
        | none => t
    | _, _ => s
  else s)

/-! ### FENCE.G and the end of waits (R317, Table 4.8) -/

/-- Whether FENCE.G of a core is met: every command has completed, and no remote write piece of the core is unacknowledged. -/
def State.fenceMet (s : State) (core : Nat) : Bool :=
  (s.core core).dmaQ.isEmpty &&
  !(s.coreSlots core).any (fun e => e.2.kind == 0x11 || e.2.kind == 0x12)

/-- FENCE.G. -/
def execFenceG (core : Core) (rsvd : BitVec 3) (s : State) : Host.Outcome State Fault Refusal :=
  .next (s.coreStep core (rsvd == 0) (fun s =>
    if s.fenceMet core then s.modCore core CoreState.advance else s.modCore core (fun c => { c with wait := .fenceG })))

/-- WAIT_SATISFIED: what the core waits for has come about. -/
def execWaitSatisfied (core : Core) (s : State) : Host.Outcome State Fault Refusal :=
  .next (if s.canWake core then
    if (s.core core).waitMet || ((s.core core).wait == .fenceG && s.fenceMet core) then s.modCore core CoreState.endWait else s
  else s)

end Sys2Proof.Machine
end

