-- ==== Sys2Proof/Machine/FabricRx.lean ====
section
/-!
DEFINITION. The receiving side of the fabric (spec/10_zhomus_fabric.md): a packet arriving at a port (R280, R285, R291 to R295), acknowledgement and
retransmission (R293, R294), dead and restarted peers (R295, R297, R321), the states of ports and what is known of the neighbours' (R278, R279,
R290, R296), credits coming back (R287), and events that meet (R298).
-/
namespace Sys2Proof.Machine

/-! ### The inbox: packets before their destination blocks -/

/-- Take the first packet a test picks out of a list. -/
def takeFirst {α : Type} (p : α → Bool) (l : List α) : Option (α × List α) :=
  match l with
  | [] => none
  | a :: r => if p a then some (a, r) else (takeFirst p r).map (fun x => (x.1, a :: x.2))

def State.setInbox (s : State) (l : List Packet) : State := { s with fab := { s.fab with inbox := l } }

/-- The oldest delivered packet of a type, and the state without it. -/
def State.takeInbox (s : State) (typ : Nat) : Option (Packet × State) :=
  (takeFirst (fun p => p.typ.toNat == typ) s.fab.inbox).map (fun x => (x.1, s.setInbox x.2))

/-- The oldest delivered packet of a type, left where it is. -/
def State.peekInbox (s : State) (typ : Nat) : Option Packet := s.fab.inbox.find? (fun p => p.typ.toNat == typ)

/-- The first packet of type `typ` in a list before which no packet of type `wait` of its sender stands. -/
def firstBehind (typ wait : Nat) (l : List Packet) (held : List (BitVec 15)) : Option Packet :=
  match l with
  | [] => none
  | p :: r =>
    if p.typ.toNat = typ ∧ !held.contains p.src then some p
    else firstBehind typ wait r (if p.typ.toNat = wait then p.src :: held else held)

/-- The oldest delivered packet of a type that waits behind none of another type of its stream: a packet that waits for a vat holds its block's input (R267). -/
def State.peekBehind (s : State) (typ wait : Nat) : Option Packet := firstBehind typ wait s.fab.inbox []

/-! ### The input buffers of the ports (R286, R287) -/

/-- Credits of a port that has just come up: every buffer downstream is empty (log 12). -/
def freshCredits (p : Nat) : List Nat :=
  let a := if p < 14 then 640 else 5120
  [a, 15, a, 15, a, 15, a, 15]

/-- Whether two packets are one and the same on its way through the package, whose VC, PHASE and way of routing may have changed. -/
def samePacket (a b : Packet) : Bool :=
  a.typ == b.typ && a.src == b.src && a.seq == b.seq && a.srcBoot == b.srcBoot && a.retx == b.retx && a.vc.toNat / 2 == b.vc.toNat / 2 &&
    a.opfield == b.opfield && a.payload == b.payload

/-- Split what the input buffers held into what still rests there and what has moved on, by the packets the package still holds. -/
def stillHeld (pool : List Packet) (l : List InBuf) : List InBuf × List InBuf :=
  match l with
  | [] => ([], [])
  | b :: r =>
    match takeFirst (samePacket b.pkt) pool with
    | some (_, pool) => let x := stillHeld pool r; (b :: x.1, x.2)
    | none => let x := stillHeld pool r; (x.1, b :: x.2)

/-- The packets that rest in an input buffer if they came by a port: those before their blocks and those waiting for an output. -/
def State.resting (s : State) : List Packet :=
  s.fab.inbox ++ s.fab.ports.flatMap (fun e => e.2.queues.flatMap (fun q => q.2.map (·.pkt)))

/-- The room a packet takes of its VC: 64-byte units, or the slot of its PHASE. -/
def InBuf.credit (b : InBuf) : Nat × Nat × Nat :=
  (b.port, b.pkt.vc.toNat, if b.pkt.vc.toNat % 2 = 0 then ceilDiv (pktBytes b.pkt) 64 else b.pkt.phase.toNat)

/-- Free the input buffers of what has moved on, and return the credits and slots upstream (log 118). -/
def State.freeInputs (s : State) : State :=
  let x := stillHeld s.resting s.fab.inBufs
  { s with fab := { s.fab with inBufs := x.1, creditsOut := s.fab.creditsOut ++ x.2.map InBuf.credit } }

/-- Whether the input buffer of a packet's VC has room for it (Table 10.6): a neighbour sends it only then. -/
def State.inRoom (s : State) (p : Nat) (pkt : Packet) : Bool :=
  let l := s.fab.inBufs.filter (fun b => b.port == p && b.pkt.vc == pkt.vc)
  if pkt.vc.toNat % 2 = 0 then
    (l.map (fun b => ceilDiv (pktBytes b.pkt) 64)).foldl (· + ·) 0 + ceilDiv (pktBytes pkt) 64 ≤ (freshCredits p).getD pkt.vc.toNat 0
  else l.all (fun b => b.pkt.phase != pkt.phase)

/-- Whether the input buffer a packet arrives in has room once what has moved on is freed. -/
def State.takesIn (s : State) (p : Nat) (pkt : Packet) : Bool := s.freeInputs.inRoom p pkt

/-! ### Acknowledgements sent (R294) -/

/-- Whether a request is a write for R315. -/
def pktWrites (p : Packet) : Bool := p.typ == 0x11 || p.typ == 0x12 || p.typ == 0x13

/-- The SEQs of a stream whose write has been accepted and is not visible yet: an ACK does not cover them (R317). -/
def State.unseen (s : State) (g cls : Nat) : List W32 :=
  if cls = 0 then (s.fab.inbox.filter (fun p => p.src.toNat == g && pktWrites p)).map (·.seq) else []

/-- NEXT_SEQ of an ACK: the SEQ expected next, or the first whose write is not visible. -/
def nextAck (r : RxStream) (unseen : List W32) : W32 :=
  r.expected - BitVec.ofNat 32 ((unseen.map (fun q => (r.expected - q).toNat)).foldl max 0)

/-- The HELD bits of an ACK: packets after NEXT_SEQ that are here and may be covered. -/
def heldBits (r : RxStream) (unseen : List W32) : Nat :=
  let next := nextAck r unseen
  (List.range 64).foldl (fun a i =>
    let q := next + 1 + BitVec.ofNat 32 i
    let got := (r.early.any (fun p => p.seq == q && !pktWrites p)) || decide ((q - next).toNat < (r.expected - next).toNat)
    if got && !unseen.contains q then a + 2 ^ i else a) 0

/-- Send an ACK of a stream. -/
def State.sendAck (s : State) (g cls : Nat) : State :=
  let p := s.peer g
  let r := p.rxOf cls
  let u := s.unseen g cls
  let s := s.setPeer g (p.setRx cls { r with unAcked := 0, since := none })
  let vc := if cls = 3 then 3 else 1
  s.sendPlain (s.mkPacket 0x01 vc g 0 0 [(0x10, 4, (nextAck r u).toNat), (0x14, 1, cls), (0x18, 8, heldBits r u)] [])

/-- A write of a stream has become visible: an ACK is owed for it. -/
def State.oweAck (s : State) (g : Nat) : State :=
  let p := s.peer g
  let r := p.rxOf 0
  s.setPeer g (p.setRx 0 { r with unAcked := r.unAcked + 1, since := some (r.since.getD s.now) })

/-! ### Lost requests (R321) -/

/-- Add to the counts of a teardown record (Table 15.5). -/
def State.noteLost (s : State) (c atomics writes : Nat) : State :=
  s.modCtx c (fun x => { x with ending := x.ending.map (fun e => { e with atomics := e.atomics + atomics, writes := e.writes + writes }) })

/-- Release every slot with a request to a package, and fault the contexts that held them with "dead remote target". The bytes at the destination of a read are
undefined. -/
def State.loseSlots (s : State) (g : Nat) : State :=
  let lost := s.memop.slots.filter (fun e => e.2.peer == g)
  let s := { s with memop := { s.memop with slots := s.memop.slots.filter (fun e => e.2.peer != g) } }
  let s := lost.foldl (fun s e => s.scramble (s.lostPieces e.2)) s
  lost.foldl (fun s e =>
    let s := s.slotFault e.2 clsDead g
    s.noteLost e.2.ctx (e.2.kind == 0x13).toNat (e.2.kind == 0x11 || e.2.kind == 0x12).toNat) s

/-- Drop the replies kept for a package: it will not acknowledge them (R319). -/
def State.dropReplies (s : State) (g : Nat) : State :=
  { s with memop := { s.memop with replies := s.memop.replies.filter (fun r => r.peer != g) } }

/-- A peer has restarted (R295): what is held from it is discarded, requests to it are lost, and both directions start again at SEQ 0 (log 79). -/
def State.peerRestart (s : State) (g : Nat) (boot : W16) : State :=
  let p := s.peer g
  let tx := (p.tx.map (fun e => (e.1, { e.2 with nextSeq := 0, unacked := [], waiting := e.2.waiting.filter (fun w => w.2.isNone) }))).filter
    (fun e => decide (e.2 ≠ TxStream.reset))
  let s := s.setInbox (s.fab.inbox.filter (fun k => k.src.toNat != g || (seqClass k.typ.toNat).isNone))
  let s := s.setPeer g { p with boot := some boot.toNat, dead := false, tx := tx, rx := [] }
  let s := (s.dropReplies g).loseSlots g
  tx.foldl (fun s e => s.pumpTx g e.1) s.pumpAll

/-- How a packet's SRC_BOOT stands to the one known (R295). -/
inductive BootAge where
  | same | newer | older
deriving DecidableEq, Repr

def bootAge (known : Option Nat) (b : W16) : BootAge :=
  match known with
  | none => .same
  | some k =>
    let d := (b - BitVec.ofNat 16 k).toNat
    if d = 0 then .same else if d ≤ 32767 then .newer else .older

/-! ### Receiving a stream (R285, R293) -/

/-- Bytes held in the reorder store. -/
def State.reorderUsed (s : State) : Nat :=
  (s.fab.peers.map (fun e => (e.2.rx.map (fun r => (r.2.early.map pktBytes).foldl (· + ·) 0)).foldl (· + ·) 0)).foldl (· + ·) 0

/-- Whether a delivered packet is taken by a block: its type is known and on its class, and its DCTX names a live context where it is one of a context's
packets for this package. -/
def State.takes (s : State) (pkt : Packet) : Bool :=
  let t := pkt.typ.toNat
  let named : Bool := (0x10 ≤ t && t ≤ 0x13) || (0x20 ≤ t && t ≤ 0x22) || (0x30 ≤ t && t ≤ 0x32) || (0x40 ≤ t && t ≤ 0x44) ||
    (0x50 ≤ t && t ≤ 0x54) || (0x60 ≤ t && t ≤ 0x62)
  let forwarded := t == 0x31 || (t == 0x30 && !s.isSelf pkt.final.toNat)
  named && seqClass t == some (pkt.vc.toNat / 2) && (0x60 ≤ t || forwarded || s.ctxTakes pkt.dctx.toNat)

/-- The packages of a column other than this one's. -/
def columnOthers (ch r c : Nat) : List Nat := ((List.range 8).filter (· != r)).map (fun i => 64 * ch + 8 * i + c)
def rowOthers (ch r c : Nat) : List Nat := ((List.range 8).filter (· != c)).map (fun i => 64 * ch + 8 * r + i)

/-- The receivers of a multicast packet: the other packages of its row or column; in chassis mode the sender's row and column (R292). None when the class is not bulk or management, or the
chassis or line does not include this package. -/
def State.mcastReach (s : State) (pkt : Packet) : Option (List Nat) :=
  let d := pkt.dst.toNat
  let line := bitsN d 5 3
  match s.fab.pos with
  | none => none
  | some (ch, r, c) =>
    if pkt.vc.toNat / 2 < 2 ∨ bitsN d 14 6 ≠ ch then none
    else match bitsN d 2 1 with
      | 0 => if line = r then some (rowOthers ch r c) else none
      | 1 => if line = c then some (columnOthers ch r c) else none
      | 2 => if line = r then some (rowOthers ch r c ++ columnOthers ch r c) else none
      | _ => none

/-- Send a multicast packet. One that may not be sent is discarded and faults its context with "bad descriptor" (R292). -/
def State.sendMcast (s : State) (pkt : Packet) : State :=
  match s.mcastReach pkt with
  | some l => s.sendCopies pkt l
  | none => s.fault pkt.sctx.toNat clsBadDesc pkt.dst.toNat

/-- The copies a package makes along its column of a chassis-mode packet that came along its row, on its own streams (R292). -/
def State.columnCopies (s : State) (pkt : Packet) : State :=
  match s.fab.pos with
  | some (ch, r, c) =>
    if pkt.mcast ∧ bitsN pkt.dst.toNat 2 1 = 2 ∧ pkt.src.toNat / 8 = 8 * ch + r ∧ pkt.src.toNat ≠ s.self then
      s.sendCopies { pkt with src := BitVec.ofNat 15 s.self, retx := false, phase := 0, vc := BitVec.ofNat 3 (pkt.vc.toNat / 2 * 2), seq := 0 } (columnOthers ch r c)
    else s
  | none => s

/-- Hand a packet to its block or discard it on receipt, where a piece of a multicast also counts in WHL_MCAST_DROP (R362); a chassis-mode multicast goes on along the column either way
(R292). -/
def State.handOver (s : State) (pkt : Packet) : State :=
  let s :=
    if s.takes pkt then s.deliver pkt
    else
      let s := s.count (offFabPkg 6) 1
      if pkt.typ = 0x52 ∧ seqClass 0x52 = some (pkt.vc.toNat / 2) then s.count offMcastDrop 1 else s
  s.columnCopies pkt

/-- Hand over the early packets that have become next, in order. -/
def State.releaseEarly (s : State) (g cls fuel : Nat) : State :=
  match fuel with
  | 0 => s
  | k + 1 =>
    let p := s.peer g
    let r := p.rxOf cls
    match takeFirst (fun x => x.seq == r.expected) r.early with
    | none => s
    | some (x, rest) =>
      ((s.setPeer g (p.setRx cls { r with expected := r.expected + 1, early := rest })).handOver x).releaseEarly g cls k

/-- A duplicate request whose reply is still held is answered at once from the cache (R319). -/
def State.resendReply (s : State) (g : Nat) (pkt : Packet) : State :=
  if pkt.vc.toNat / 2 ≠ 0 then s
  else
    match s.memop.replies.find? (fun r => r.peer == g && r.reqSeq == pkt.seq) with
    | none => s
    | some r =>
      match ((s.peer g).txOf 1).unacked.find? (fun u => pktOp u.pkt 0x10 4 == r.tag.toNat) with
      | none => s
      | some u => (s.launch g 1 { u.pkt with retx := true }).count (offMemCtr 4) 1

/-- A sequenced packet for this package: delivered in order, held as early, or a duplicate (R293) (log 78). -/
def State.streamReceive (s : State) (pkt : Packet) : State :=
  let g := pkt.src.toNat
  let cls := pkt.vc.toNat / 2
  let p := s.peer g
  let r := p.rxOf cls
  let d := (pkt.seq - r.expected).toNat
  let accepted (r : RxStream) : RxStream := { r with unAcked := r.unAcked + 1, since := some (r.since.getD s.now) }
  if d = 0 then
    let s := s.setPeer g (p.setRx cls (accepted { r with expected := r.expected + 1 }))
    (s.handOver pkt).releaseEarly g cls r.early.length
  else if d < 256 then
    if r.early.any (fun x => x.seq == pkt.seq) then ((s.count (offFabPkg 1) 1).resendReply g pkt).sendAck g cls
    else if 16 * 2 ^ 20 < s.reorderUsed + pktBytes pkt then s.count (offFabPkg 2) 1
    else s.setPeer g (p.setRx cls (accepted { r with early := r.early ++ [pkt] }))
  else if 2 ^ 31 ≤ d then ((s.count (offFabPkg 1) 1).resendReply g pkt).sendAck g cls
  else s

/-- A copy of a multicast that was routed here as unicast is the multicast again (R292). -/
def asMulticast (pkt : Packet) : Packet :=
  if pkt.wasMcast then { pkt with mcast := true, wasMcast := false, dst := pkt.final } else pkt

/-- A packet for this package: its boot count first (R295), then by whether its type is sequenced. -/
def State.arriveHere (s : State) (pkt : Packet) : State :=
  let pkt := asMulticast pkt
  let g := pkt.src.toNat
  let p := s.peer g
  let t := pkt.typ.toNat
  match bootAge p.boot pkt.srcBoot with
  | .older => s.count (offFabPkg 6) 1
  | age =>
    let s := if age = .newer then s.peerRestart g pkt.srcBoot else s.setPeer g { p with boot := some pkt.srcBoot.toNat }
    let s := if pktTraffic pkt && pkt.typ != 0x31 && !(pkt.typ == 0x30 && !s.isSelf pkt.final.toNat) then s.acctFabric pkt.dctx.toNat (pktBytes pkt) else s
    let cls := pkt.vc.toNat / 2
    if t = 0x01 ∨ t = 0x02 ∨ t = 0x63 ∨ t = 0x64 then
      let ok := (t == 0x01 && (cls == 1 || cls == 3)) || (t == 0x02 && cls == 3) || (t != 0x01 && t != 0x02 && pkt.vc.toNat == 6)
      if ok then s.deliver pkt else s.count (offFabPkg 6) 1
    else s.streamReceive pkt

/-- Forward a packet for another package (R291, R283). -/
def State.forwardOn (s : State) (port : Nat) (pkt : Packet) : State :=
  let prev := (s.port port).peer
  match s.route pkt prev with
  | .port p pkt' det => (if det then s.count (offFabPkg 8) 1 else s).enqueue p pkt' (14 ≤ port || s.isIntermediate prev (s.self % 64) (((s.target pkt.dst.toNat (pkt.src.toNat / 64)).map (·.pkg)).getD (s.self % 64))) det
  | .here => s.arriveHere pkt
  | .noRoute => s.count (offFabPkg 9) 1
  | .phaseDrop => s.count (offFabPkg 4) 1
  | .mismatch => s.mismatchDrop gwEvent pkt

/-- Whether a packet ends at the package it arrives at: a multicast copy, or a LINK_STATE, which goes one hop only unless it is a copy routed as unicast. -/
def endsHere (pkt : Packet) : Bool := pkt.mcast || (pkt.typ == 0x02 && !pkt.wasMcast)

/-- A damaged packet that was to go on: when its next output was idle with room, its sending may have begun before the trailer came, and the copy ends stomped (R280). Whether it had begun is a
free value (log 118). -/
def State.stompOn (s : State) (port : Nat) (pkt : Packet) : State :=
  if endsHere pkt then s
  else
    match s.route pkt (s.port port).peer with
    | .port q x det =>
      let y := s.port q
      if y.phase = .up ∧ (y.queue x.vc.toNat).isEmpty ∧ y.hasRoom x then
        let r := s.freeBytes 1
        if (r.1.headD 0).getLsbD 0 then
          let s := if det then r.2.count (offFabPkg 8) 1 else r.2
          (s.setPort q (y.takeRoom x)).transmit q x true
        else r.2
      else s
    | _ => s

/-- A packet whose trailer fails its check leaves the input buffer it came in: its room is returned (log 118). -/
def State.discarded (s : State) (p : Nat) (pkt : Packet) : State :=
  { s with fab := { s.fab with creditsOut := s.fab.creditsOut ++ [(InBuf.mk p pkt).credit] } }

/-- PACKET_FORWARD: a packet arrives at a port in Up, in the input buffer of its VC, which the neighbour knows to have room (R287). A bad or stomped trailer discards it (R280); a LINK_STATE or
a multicast copy ends here, and any other packet is handed over or routed on. -/
def execPacketForward (p : Port) (pkt : Packet) (trailer : W32) (s : State) : Host.Outcome State Fault Refusal :=
  .next (s.unlessTripped fun s => if s.portUp p && s.fab.pos.isSome && pkt.payload.length ≤ 2048 && s.takesIn p pkt then
    let v := pkt.vc.toNat
    let s := (s.freeInputs.count (offFabVc p v 1) 1).count (offFabVc p v 3) (pktBytes pkt)
    match checkTrailer pkt trailer with
    | .bad => ((s.discarded p pkt).count (offFabPort p 0) 1).stompOn p pkt
    | .stomped => ((s.discarded p pkt).count (offFabPort p 1) 1).stompOn p pkt
    | .good =>
      let s := { s with fab := { s.fab with inBufs := s.fab.inBufs ++ [InBuf.mk p pkt] } }
      (if endsHere pkt then s.arriveHere pkt else s.forwardOn p pkt).freeInputs
  else s)

/-! ### Acknowledgements received -/

/-- Whether an ACK covers a SEQ: below NEXT_SEQ modulo 2^32, or with its HELD bit set. -/
def ackCovers (next : W32) (held : Nat) (seq : W32) : Bool :=
  let d := (seq - next).toNat
  2 ^ 31 ≤ d || (1 ≤ d && d ≤ 64 && bitN held (d - 1))

/-- What retiring a packet means for its sender: a write is complete, a read or atomic is known to have arrived, a reply need not be kept
(R311, R319, R320). -/
def State.retire (s : State) (g cls : Nat) (u : SentPkt) : State :=
  if cls = 1 then
    { s with memop := { s.memop with replies := s.memop.replies.filter (fun r => !(r.peer == g && r.tag.toNat == pktOp u.pkt 0x10 4)) } }
  else
    match u.slot with
    | none => s
    | some n =>
      match tabFind s.memop.slots n with
      | none => s
      | some r =>
        if r.peer = g ∧ r.seq = some u.pkt.seq then
          if r.kind = 0x11 ∨ r.kind = 0x12 then s.freeSlot n
          else { s with memop := { s.memop with slots := tabInsert s.memop.slots n { r with acked := some s.now } } }
        else s

/-- ACK: the oldest ACK that has arrived retires the packets it covers; one from a peer declared dead is ignored (R294, R297). -/
def execAck (s : State) : Host.Outcome State Fault Refusal :=
  .next (s.unlessTripped fun s => match s.takeInbox 0x01 with
    | none => s
    | some (pkt, s) =>
      let g := pkt.src.toNat
      let cls := pktOp pkt 0x14 1 % 4
      let p := s.peer g
      if p.dead then s
      else
        let t := p.txOf cls
        let cov := ackCovers (BitVec.ofNat 32 (pktOp pkt 0x10 4)) (pktOp pkt 0x18 8)
        let gone := t.unacked.filter (fun u => cov u.pkt.seq)
        let s := s.setPeer g (p.setTx cls { t with unacked := t.unacked.filter (fun u => !cov u.pkt.seq) })
        if gone.isEmpty then s else (gone.foldl (fun s u => s.retire g cls u) s).pumpAll)

/-- ACK_SEND: packets of a stream have been accepted since its last ACK (R294). -/
def execAckSend (peer : Pkg) (cls : PktClass) (s : State) : Host.Outcome State Fault Refusal :=
  .next (s.unlessTripped fun s =>
    let k := pktClassNum cls
    if ((s.peer peer).rxOf k).unAcked = 0 then s else s.sendAck peer k)

/-- RETRANSMIT: a packet unacknowledged 50 microseconds after it was last sent is sent again, routed afresh, with RETX set (R293). -/
def execRetransmit (peer : Pkg) (cls : PktClass) (seq : W32) (s : State) : Host.Outcome State Fault Refusal :=
  .next (s.unlessTripped fun s =>
    let k := pktClassNum cls
    match ((s.peer peer).txOf k).unacked.find? (fun u => u.pkt.seq == seq) with
    | none => s
    | some u =>
      if u.sent && 50000 ≤ s.now - u.last then (s.launch peer k { u.pkt with retx := true }).count (offFabPkg 0) 1
      else s)

/-- DEAD_TARGET: a packet unacknowledged for 4 ms since its first transmission (R297). -/
def execDeadTarget (peer : Pkg) (s : State) : Host.Outcome State Fault Refusal :=
  .next (s.unlessTripped fun s =>
    let p := s.peer peer
    let all := p.tx.flatMap (fun e => e.2.unacked)
    if !p.dead && all.any (fun u => 4000000 ≤ s.now - u.first) then
      let ctxs := (all.filter (fun u => s.ownTraffic u.pkt)).foldl (fun a u => setAdd a u.pkt.sctx.toNat) []
      let held := p.tx.flatMap (fun e => e.2.waiting)
      let tx := (p.tx.map (fun e => (e.1, { e.2 with unacked := [], waiting := [] }))).filter (fun e => decide (e.2 ≠ TxStream.reset))
      let s := (s.setPeer peer { p with dead := true, tx := tx }).count (offFabPkg 5) held.length
      let s := s.mgmtEvent 0x22 none peer (ctxs.foldl (fun a c => a + 2 ^ c) 0)
      ((s.dropReplies peer).loseSlots peer).pumpAll
    else s)

/-! ### Link states (R290) -/

/-- The byte of a port in a LINK_STATE. -/
def State.linkByte (s : State) (p : Nat) : Byte :=
  let x := s.port p
  BitVec.ofNat 8 (x.phase.code + (if x.lanes = 4 then 8 else 0))

def State.linkBytes (s : State) : List Byte := (List.range 20).map s.linkByte

/-- Send a packet of one hop over the direct link to a package of this chassis, if that is Up; one for a dead peer is discarded and counted (R297). -/
def State.sendHop (s : State) (g : Nat) (pkt : Packet) : State :=
  let k := s.portTo (g % 64)
  if (s.peer g).dead then s.count (offFabPkg 5) 1 else if s.portUp k then s.enqueue k pkt true else s

/-- Send a copy of a chassis-wide LINK_STATE: over the direct link, or, when that is not Up, routed as unicast (R292, log 106). -/
def State.sendWide (s : State) (g : Nat) (pkt : Packet) : State :=
  if s.portUp (s.portTo (g % 64)) then s.sendHop g pkt else s.sendPlain (asUnicast g pkt)

/-- LINK_STATE: the oldest that has arrived updates what is known of its sender, and packets held for want of a route are tried again. A
chassis-wide one that came along this package's row goes on down its column (R292). -/
def execLinkState (s : State) : Host.Outcome State Fault Refusal :=
  .next (s.unlessTripped fun s => match s.takeInbox 0x02 with
    | none => s
    | some (pkt, s) =>
      let g := pkt.src.toNat
      let p := s.peer g
      let gp := pkt.payload.drop 14
      if pkt.mcast then
        let s := (s.setPeer g { p with gports := gp })
        let s := match s.fab.pos with
          | some (ch, r, c) =>
            if g / 8 = 8 * ch + r then
              (columnOthers ch r c).foldl (fun (s : State) q => s.sendWide q pkt) s
            else s
          | none => s
        s.retryHeld
      else (s.setPeer g { p with links := pkt.payload, gports := gp, linkAt := some s.now }).retryHeld)

/-- LINK_STATE_SEND: to every L-neighbour on a change and each 1 ms; chassis-wide on a change of a G-port and each 10 ms (log 106). -/
def execLinkStateSend (chassisWide : Bool) (s : State) : Host.Outcome State Fault Refusal :=
  .next (s.unlessTripped fun s => match s.fab.pos with
    | none => s
    | some (ch, r, c) =>
      if chassisWide then
        if s.fab.gportDirty || 10000000 ≤ s.now - s.fab.lastGport then
          let pkt := { s.mkPacket 0x02 3 (64 * ch + 8 * r + 4) 0 0 [] s.linkBytes with mcast := true }
          let s := { s with fab := { s.fab with gportDirty := false, lastGport := s.now } }
          (rowOthers ch r c ++ columnOthers ch r c).foldl (fun (s : State) q => s.sendWide q pkt) s
        else s
      else if s.fab.linkDirty || 1000000 ≤ s.now - s.fab.lastLink then
        let s := { s with fab := { s.fab with linkDirty := false, lastLink := s.now } }
        (List.range 14).foldl (fun (s : State) k =>
          let g := 64 * ch + linePeer r c k
          s.sendHop g (s.mkPacket 0x02 3 g 0 0 [] s.linkBytes)) s
      else s)

/-- NEIGHBOUR_SILENT: no LINK_STATE from a neighbour for 3 ms, so every port of it is taken to be Down. -/
def execNeighbourSilent (peer : Pkg) (s : State) : Host.Outcome State Fault Refusal :=
  .next (s.unlessTripped fun s =>
    let p := s.peer peer
    match p.linkAt with
    | some t => if 3000000 ≤ s.now - t then s.setPeer peer { p with links := List.replicate 20 3, gports := List.replicate 6 3, linkAt := none } else s
    | none => s)

/-! ### Ports (R278, R279, R296) -/

/-- Whether a packet's leg from here is a detour inside the chassis (R291 step 4). -/
def State.localDetour (s : State) (pkt : Packet) : Bool :=
  match s.fab.pos, s.target pkt.dst.toNat (pkt.src.toNat / 64) with
  | some (_, r, c), some tg => tg.pkg != 8 * r + c && (s.hops (8 * r + c) tg.pkg).2
  | _, _ => false

/-- Put a packet that waited at a failed port on its way again, if it was at the first hop of its leg; else discard it (R296). A LINK_STATE of one link is for that link alone (Table 10.5). -/
def State.requeue (s : State) (q : Queued) : State :=
  let pkt := { q.pkt with vc := BitVec.ofNat 3 (q.pkt.vc.toNat / 2 * 2) }
  if !q.first || (pkt.typ == 0x02 && !pkt.wasMcast) then s.count (offFabPkg 3) 1
  else
    let own := pkt.src.toNat == s.self
    match s.route pkt none with
    | .port p pkt' det =>
      let det := if own then det else s.localDetour pkt
      (if det && !q.detour then s.count (offFabPkg 8) 1 else s).enqueue p pkt' true (det || q.detour)
    | .noRoute =>
      if own && (seqClass pkt.typ.toNat).isSome then s.markSent pkt.dst.toNat (pkt.vc.toNat / 2) pkt false
      else if own then { s with fab := { s.fab with unrouted := s.fab.unrouted ++ [pkt] } }
      else s.count (offFabPkg 9) 1
    | .phaseDrop => s.count (offFabPkg 4) 1
    | .mismatch => s.mismatchDrop gwEvent pkt
    | .here => s

/-- A packet that waited at a port, as it is before it leaves: a G-port had raised its PHASE, and a multicast copy goes to its receiver as unicast (R292). -/
def unsent (peer : Option Nat) (p : Nat) (pkt : Packet) : Packet :=
  let pkt := if 14 ≤ p then { pkt with phase := pkt.phase - 1 } else pkt
  match pkt.mcast, peer with
  | true, some g => asUnicast g pkt
  | _, _ => pkt

/-- A port leaves Up: what waited for it is handled, and its new state is to be told (R290, R296). -/
def State.leaveUp (s : State) (p : Nat) (phase : PortPhase) : State :=
  let x := s.port p
  let waiting := (x.queues.flatMap (fun e => e.2)).map (fun q => { q with pkt := unsent x.peer p q.pkt })
  let s := s.setPort p { x with phase := phase, lanes := 0, upper := false, mayFull := x.mayFull && phase != .down, since := s.now, queues := [], credits := [0, 0, 0, 0, 0, 0, 0, 0] }
  let s := { s with fab := { s.fab with linkDirty := true, gportDirty := s.fab.gportDirty || 14 ≤ p, inBufs := s.fab.inBufs.filter (fun b => b.port != p) } }
  waiting.foldl State.requeue s

/-- A port in Up goes Down. -/
def State.goDown (s : State) (p : Nat) : State := if s.portUp p then (s.leaveUp p .down).count (offFabPort p 4) 1 else s

/-- A port's state changes without having carried packets. -/
def State.setPhase (s : State) (p : Nat) (ph : PortPhase) : State :=
  let s := s.setPort p { s.port p with phase := ph, since := s.now }
  { s with fab := { s.fab with linkDirty := true, gportDirty := s.fab.gportDirty || 14 ≤ p } }

/-- A port that carries nothing goes Down, as when training fails: a transition to Down, which is counted (Tables 10.2, 10.12). -/
def State.trainFail (s : State) (p : Nat) : State := (s.setPhase p .down).count (offFabPort p 4) 1

/-- The package of Table 10.1 at an L-port. -/
def State.expectedPeer (s : State) (p : Nat) : Option Nat := s.fab.pos.map (fun x => 64 * x.1 + linePeer x.2.1 x.2.2 p)

/-- TRAINING_COMPLETE: the port comes up with 8 or 4 lanes, or stays Down; an L-port with a wrong peer is a Mismatch (R278). A port that has been Up since
reset or FAB.RETRAIN does not return to 8 lanes (R279). -/
def execTrainingComplete (p : Port) (result : TrainResult) (s : State) : Host.Outcome State Fault Refusal :=
  .next (s.unlessTripped fun s => if (s.port p).phase = .training then
    match result with
    | .failed => s.trainFail p
    | .trained lower upper peer =>
      if !lower && !upper then s.trainFail p
      else if p.val < 14 ∧ s.expectedPeer p ≠ some peer.toNat then s.setPhase p .mismatch
      else
        let x := s.port p
        let s := s.setPort p { x with lanes := if lower && upper && x.mayFull then 8 else 4, upper := !lower, peer := some peer.toNat, credits := freshCredits p }
        (s.setPhase p .up).retryHeld
  else s)

/-- PORT_DOWN (R278, R279). A peer that stops transmitting, lost light and failing codewords have one effect. -/
def execPortDown (p : Port) (_cause : DownCause) (s : State) : Host.Outcome State Fault Refusal := .next (s.unlessTripped fun s => s.goDown p)

/-- RETRAIN_TIMER: 100 ms after entering Down the port trains again, unless its optics are too hot or its lasers are off (Table 17.9). -/
def execRetrainTimer (p : Port) (s : State) : Host.Outcome State Fault Refusal :=
  .next (s.unlessTripped fun s =>
    let x := s.port p
    if x.phase = .down ∧ 100000000 ≤ s.now - x.since ∧ !s.power.hotPorts.contains p ∧ !s.power.lasersOff ∧ !s.time.clockLost then s.setPhase p .training
    else s)

/-- LINK_CREDIT: buffer room of a VC comes back, in units of 64 bytes, or for an escape VC the slot of PHASE `units` (R287). What waited is sent; the head of
the adaptive VC may take a free escape slot (R291 step 6). -/
def execLinkCredit (p : Port) (vc : Vc) (units : Nat) (s : State) : Host.Outcome State Fault Refusal :=
  .next (s.unlessTripped fun s =>
    let x := s.port p
    let v := vc.val
    if x.phase ≠ .up then s
    else State.freeInputs <| if v % 2 = 0 then
      let full := (freshCredits p).getD v 0
      let s := s.setPort p { x with credits := x.credits.set v (min full (x.credits.getD v 0 + units)) }
      s.drainPort p v (x.queue v)
    else if units < 4 ∧ !bitN (x.credits.getD v 0) units then
      let s := s.setPort p { x with credits := x.credits.set v (x.credits.getD v 0 + 2 ^ units) }
      let s := s.drainPort p v (x.queue v)
      let x := s.port p
      match x.queue v, x.queue (v - 1) with
      | [], h :: rest =>
        if s.escapePort p h.pkt == some p.val then
          ((s.setPort p ((x.setQueue (v - 1) rest).setQueue v [{ h with pkt := toEscape h.pkt }])).drainPort p v [{ h with pkt := toEscape h.pkt }]).drainPort p (v - 1) rest
        else s
      | _, _ => s
    else s)

end Sys2Proof.Machine
end

