-- ==== Sys2Proof/Machine/MemOps.lean ====
section
/-!
DEFINITION. Loads, stores and atomics across the fabric (spec/11_memory_semantics.md): the target's checks and performance of requests (R309, R310, R315),
batches (R322 to R324; a hashed range is an ordinary request to each package, R326), the promises that recovery keeps (R327), the replies kept (R319), and what the requester does with a reply, a failure status or none (R314, R316, R320, R425).
-/
namespace Sys2Proof.Machine

/-! ### The target (R310, R315, R319) -/

/-- The request-class packets before their targets that are the first of their stream: performing only these keeps each stream's SEQ order. -/
def firstOfStream (l : List Packet) (seen : List Nat) : List Packet :=
  match l with
  | [] => []
  | p :: r =>
    if seqClass p.typ.toNat = some 0 then
      if seen.contains p.src.toNat then firstOfStream r seen else p :: firstOfStream r (p.src.toNat :: seen)
    else firstOfStream r seen

/-- The requests that may be performed next, in order of arrival (log 63). -/
def State.ready (s : State) : List Packet := firstOfStream s.fab.inbox []

def stOk : Nat := 0
def stNotPeer : Nat := 1
def stNoAccess : Nat := 2
def stBadAddress : Nat := 3
def stPoisoned : Nat := 4

/-- OFFSET, TAG and length of a memory request (Table 11.3). -/
def reqOffset (p : Packet) : Nat := pktOp p 0x10 8 % 2 ^ 41
def reqTag (p : Packet) : W32 := BitVec.ofNat 32 (pktOp p 0x18 4)
def reqFlags (p : Packet) : Nat := pktOp p 0x1C 1
/-- Bytes a request touches. -/
def reqLen (p : Packet) : Nat :=
  match p.typ.toNat with
  | 0x11 => p.payload.length
  | 0x13 => atSize (bitN (reqFlags p) 3)
  | _ => pktOp p 0x1C 2

/-- Whether a request has the form of Table 11.3; one of another form is discarded (log 25). -/
def reqShape (p : Packet) : Bool :=
  let n := reqLen p
  match p.typ.toNat with
  | 0x10 => 1 ≤ n && n ≤ 2048
  | 0x11 => 1 ≤ n && n ≤ 2048
  | 0x12 => 1 ≤ n && n ≤ 2048 && p.payload.length == 8
  | _ => p.payload.length == 16 && reqFlags p % 8 != 7 && reqOffset p % n == 0

/-- Whether a request needs permission to be written: every type but a read (Table 15.2). -/
def reqWrites (p : Packet) : Bool := pktWrites p

/-- Check 1 of Table 11.2: the target context's peer table names the requester. -/
def State.isPeer (s : State) (p : Packet) : Bool := s.peerCtx p.dctx.toNat p.src.toNat == some p.sctx.toNat

/-- Checks 2 and 3 of Table 11.2: the pieces, or the STATUS of the failure. -/
def State.reqPieces (s : State) (p : Packet) : Except Nat (List Piece) :=
  let a := reqOffset p
  let n := reqLen p
  match s.ctx? p.dctx.toNat with
  | none => .error stNoAccess
  | some x =>
    if !mapAllows x.map (if reqWrites p then mapRemWr else mapRemRd) a n || (reqWrites p && s.meetsWeights a n) then .error stNoAccess
    else
      match s.flatPieces a n with
      | some l => .ok l
      | none => .error stBadAddress

/-- The checks of Table 11.2 in order. -/
def State.reqCheck (s : State) (p : Packet) : Except Nat (List Piece) :=
  if s.isPeer p then s.reqPieces p else .error stNotPeer

/-- Send the reply of a request: RD_REPLY, AT_REPLY, or WR_STATUS for a write that failed. -/
def State.reply (s : State) (p : Packet) (typ status : Nat) (bytes : List Byte) : State :=
  s.sendSeq (s.mkPacket typ 1 p.src.toNat p.dctx.toNat p.sctx.toNat [(0x10, 4, (reqTag p).toNat), (0x14, 1, status)] bytes) none

/-- The packet type of a request's reply. -/
def replyType (p : Packet) : Nat := match p.typ.toNat with | 0x10 => 0x20 | 0x13 => 0x21 | _ => 0x22

/-- The reply of a performed read or atomic, kept until it is acknowledged (R319). -/
def State.replyKept (s : State) (p : Packet) (bytes : List Byte) : State :=
  let s := { s with memop := { s.memop with replies := s.memop.replies ++ [({ peer := p.src.toNat, reqSeq := p.seq, tag := reqTag p, bytes := bytes.length } : ReplyRef)] } }
  s.reply p (replyType p) stOk bytes

def replyStore : Nat := 24 * 2 ^ 20
def State.replyUsed (s : State) : Nat := (s.memop.replies.map (·.bytes)).foldl (· + ·) 0

/-- Whether the replies of some reads or atomics can be kept (R319). -/
def State.canKeep (s : State) (ps : List Packet) (n : Nat) : Bool :=
  s.replyUsed + n * ps.length ≤ replyStore && ps.all (fun p => (s.memop.replies.filter (fun r => r.peer == p.src.toNat)).length < 256)

/-- Bytes of a request's reply data. -/
def replyLen (p : Packet) : Nat := if p.typ = 0x13 then 8 else reqLen p

/-- Take a request from before its target. -/
def State.dropReq (s : State) (p : Packet) : State := s.setInbox (s.fab.inbox.erase p)

/-- Perform the oldest ready request of a type. One whose context is gone, or of a form that is not its type's, is discarded. A read or atomic waits while its
reply cannot be kept. -/
def State.onReq (s : State) (typ : Nat) (k : State → Packet → List Piece → State) : State :=
  match s.ready.find? (fun p => p.typ.toNat == typ) with
  | none => s
  | some p =>
    if !s.ctxTakes p.dctx.toNat || !reqShape p then
      let s := (s.dropReq p).count (offFabPkg 6) 1
      if pktWrites p then s.oweAck p.src.toNat else s
    else if (typ = 0x10 ∨ typ = 0x13) ∧ !s.canKeep [p] (replyLen p) then s
    else
      let s := s.dropReq p
      let s := if pktWrites p then s.oweAck p.src.toNat else s
      match s.reqCheck p with
      | .error st => s.reply p (replyType p) st []
      | .ok l => k s p l

/-- RD_REQ (R310, R313). -/
def execRdReq (s : State) : Host.Outcome State Fault Refusal :=
  .next (s.unlessTripped fun s => s.onReq 0x10 (fun s p l =>
    match s.readFor p.dctx.toNat l with
    | (s, .bytes bs) => s.replyKept p bs
    | (s, _) => s.reply p 0x20 stPoisoned []))

/-- WR_REQ: the data becomes visible in stream order, and an ACK may then cover it (R315, R317). -/
def execWrReq (s : State) : Host.Outcome State Fault Refusal :=
  .next (s.unlessTripped fun s => s.onReq 0x11 (fun s p l => s.writeFor p.dctx.toNat l p.payload))

/-- FILL_REQ: byte b of the range is byte b mod 8 of the pattern, by the requester's address (R135); pieces keep that address modulo 8. -/
def execFillReq (s : State) : Host.Outcome State Fault Refusal :=
  .next (s.unlessTripped fun s => s.onReq 0x12 (fun s p l => s.writeFor p.dctx.toNat l (fillBytes p.payload (reqOffset p) (reqLen p))))

/-- One atomic's old value as the eight bytes of an AT_REPLY (Table 11.3). -/
def oldBytes (old : Nat) : List Byte := leBytes 8 old

/-- AT_REQ performed alone. -/
def execAtReq (s : State) : Host.Outcome State Fault Refusal :=
  .next (s.unlessTripped fun s => s.onReq 0x13 (fun s p l =>
    let f := reqFlags p
    match s.atomicHere p.dctx.toNat l (f % 8) (reqLen p) (bitN f 4) (fieldN p.payload 0 8) (fieldN p.payload 8 8) with
    | (s, .ok old) => s.replyKept p (oldBytes old)
    | (s, .error _) => s.reply p 0x21 stPoisoned []))

/-! ### Batches (R322, R323) -/

/-- Whether a request may stand in a batch: a read, or an atomic of kind ADD, MIN, MAX, AND or OR. -/
def combines (p : Packet) : Bool := p.typ == 0x10 || (p.typ == 0x13 && reqFlags p % 8 ≤ 4)

/-- Whether two requests may stand in one batch: one context, one OFFSET, and reads of one length or atomics of one kind. -/
def sameBatch (p q : Packet) : Bool :=
  p.typ == q.typ && p.dctx == q.dctx && reqOffset p == reqOffset q && reqLen p == reqLen q && reqFlags p % 32 == reqFlags q % 32

/-- Insert by source package. -/
def insertBySource (p : Packet) (l : List Packet) : List Packet :=
  match l with
  | [] => [p]
  | q :: r => if p.src.toNat < q.src.toNat then p :: q :: r else q :: insertBySource p r

/-- The first batch that waits: at least two ready requests for one word, at most 64, in source-package order. -/
def State.batch (s : State) : List Packet :=
  let rs := s.ready.filter (fun p => combines p && reqShape p && s.ctxTakes p.dctx.toNat && s.isPeer p)
  match rs.find? (fun p => 2 ≤ (rs.filter (sameBatch p)).length) with
  | none => []
  | some p => ((rs.filter (sameBatch p)).take 64).foldl (fun a q => insertBySource q a) []

/-- The members' old values and the word after all of them. -/
def batchAtomic (kind n : Nat) (signed : Bool) (ps : List Packet) (word : Nat) : List Nat × Nat :=
  match ps with
  | [] => ([], word)
  | p :: r =>
    let t := batchAtomic kind n signed r (atomicNew kind n signed word (fieldN p.payload 0 8) 0)
    (word :: t.1, t.2)

/-- Keep the replies of a batch's members. -/
def State.replyAll (s : State) (ps : List Packet) (bs : List (List Byte)) : State := (ps.zip bs).foldl (fun s x => s.replyKept x.1 x.2) s

/-- BATCH_PERFORM: one access for every member, atomics in source-package order. -/
def execBatchPerform (s : State) : Host.Outcome State Fault Refusal :=
  .next (s.unlessTripped fun s =>
    let ps := s.batch
    match ps with
    | [] => s
    | p :: _ =>
      let wr := p.typ = 0x13
      if !s.canKeep ps (replyLen p) then s
      else
        let s := ps.foldl (fun s q => let s := s.dropReq q; if wr then s.oweAck q.src.toNat else s) s
        let s := s.count (offMemCtr (if wr then 3 else 2)) ps.length
        match s.reqPieces p with
        | .error st => ps.foldl (fun s q => s.reply q (replyType q) st []) s
        | .ok l =>
          match s.readFor p.dctx.toNat l with
          | (s, .bytes bs) =>
            if wr then
              let f := reqFlags p
              let n := reqLen p
              let t := batchAtomic (f % 8) n (bitN f 4) ps (leNat bs)
              (s.writeFor p.dctx.toNat l (leBytes n t.2)).replyAll ps (t.1.map oldBytes)
            else s.replyAll ps (ps.map (fun _ => bs))
          | (s, _) => ps.foldl (fun s q => s.reply q (replyType q) stPoisoned []) s)

/-! ### The requester (R314, R316, R320) -/

/-- The slot a reply is for, if it is held for a request to that package with that generation. -/
def State.replySlot (s : State) (p : Packet) (kinds : List Nat) : Option (Nat × ReqSlot) :=
  let tag := pktOp p 0x10 4
  match tabFind s.memop.slots (tag % 65536) with
  | none => none
  | some r => if r.gen = tag / 65536 ∧ r.peer = p.src.toNat ∧ kinds.contains r.kind then some (tag % 65536, r) else none

/-- The region of a reclaim with a number (16384 · reclaim + region) was not written whole (R430). -/
def State.markPartial (s : State) (k : Nat) : State :=
  { s with ten := { s.ten with reclaim := s.ten.reclaim.map (fun q =>
      if q.id = k / 16384 then { q with regions := q.regions.modify (k % 16384) (fun r => { r with partial_ := true }) } else q) } }

/-- A request failed with a STATUS (Table 11.2): the requesting context faults. -/
def State.statusFault (s : State) (r : ReqSlot) (status : Nat) : State :=
  match r.owner with
  | .dma .. => if status = stPoisoned then s.slotFault r clsUncorr 0 else s.slotFault r clsBadDesc (kindOp r.kind)
  | .reclaim k => s.markPartial k

/-- Take the oldest reply of a type: a stale one is counted and discarded, a failed one frees its slot and faults, and any other goes on. -/
def State.onReply (s : State) (typ : Nat) (kinds : List Nat) (k : State → Packet → Nat → ReqSlot → State) : State :=
  match s.takeInbox typ with
  | none => s
  | some (p, s) =>
    match s.replySlot p kinds with
    | none => s.count (offMemCtr 6) 1
    | some (n, r) =>
      let status := pktOp p 0x14 1
      if status ≠ stOk then (s.freeSlot n).statusFault r status else k s p n r

/-- Whether a reply's destination must go by the reply area: it lies in a row of the context's clusters that has been saved (R425). -/
def State.toReplyArea (s : State) (c dest : Nat) : Bool :=
  match s.ctx? c with
  | some x => x.savedRows && (bitN dest 63 || match addrForm dest with | .cluster .. => true | _ => false)
  | none => false

/-- Put a reply into the reply area of its slot (R425). -/
def State.saveReply (s : State) (c n core dest : Nat) (bs : List Byte) : State :=
  match s.ctx? c with
  | some x =>
    let s := s.writeNative (x.replyBase.toNat + 2112 * n) (leBytes 8 dest ++ leBytes 8 bs.length ++ bs)
    let rec put (l : List ReplyEntry) (e : ReplyEntry) : List ReplyEntry :=
      match l with
      | [] => [e]
      | f :: r => if e.slot < f.slot then e :: f :: r else f :: put r e
    s.setCtx c { x with replies := put x.replies ⟨n, core, dest, bs⟩ }
  | none => s

/-- A read reply's bytes land: at a destination on this package at once; a sequence-state address or a command window takes them by its own rows, and the slot
is held until then (R311). -/
def State.landReply (s : State) (n : Nat) (r : ReqSlot) (core id : Nat) (bs : List Byte) : State :=
  if s.toReplyArea r.ctx r.dest then ((s.freeSlot n).saveReply r.ctx n core r.dest bs).finishReq core id
  else
    let later := { s with memop := { s.memop with slots := tabInsert s.memop.slots n { r with kind := 0x20 } } }.setReq core id (.fetched bs)
    match s.side r.dest with
    | .here a =>
      match s.accessAs (match (s.core core).findReq id with | some (_, q) => q.mapped | none => false) core r.ctx a bs.length true with
      | .pieces l => (((s.freeSlot n).presentDma core l true false).writeFor r.ctx l bs).finishReq core id
      | .wait => later
      | .bad => (s.freeSlot n).dmaBad core opCopy
    | _ => later

/-- RD_REPLY. A reply to a context whose teardown has begun only ends its request. -/
def execRdReply (s : State) : Host.Outcome State Fault Refusal :=
  .next (s.unlessTripped fun s => s.onReply 0x20 [0x10] (fun s p n r =>
    match r.owner with
    | .dma core id => if s.ctxLive r.ctx then s.landReply n r core id p.payload else s.freeSlot n
    | .reclaim _ => s.freeSlot n))

/-- AT_REPLY: the old value is written at RESULT_PTR. -/
def execAtReply (s : State) : Host.Outcome State Fault Refusal :=
  .next (s.unlessTripped fun s => s.onReply 0x21 [0x13] (fun s p n r =>
    match r.owner with
    | .dma core id =>
      let bs := p.payload.take r.len
      let s := s.freeSlot n
      if !s.ctxLive r.ctx then s
      else if s.toReplyArea r.ctx r.dest then (s.saveReply r.ctx n core r.dest bs).finishReq core id
      else
        match localPhys core r.dest r.len with
        | some a => ((s.presentDma core [(0, a, bs.length)] true false).writePhys a bs).finishReq core id
        | none => s.finishReq core id
    | .reclaim _ => s.freeSlot n))

/-- WR_STATUS: it is sent only when a write failed. -/
def execWrStatus (s : State) : Host.Outcome State Fault Refusal :=
  .next (s.unlessTripped fun s => s.onReply 0x22 [0x11, 0x12] (fun s _ n _ => s.freeSlot n))

/-- REPLY_TIMEOUT: a read or atomic unanswered 4 ms after its request was acknowledged (R320). The draining of a teardown raises no further fault and its atomics
are counted (R420, R421). -/
def execReplyTimeout (slot : Fin 65536) (s : State) : Host.Outcome State Fault Refusal :=
  .next (s.unlessTripped fun s => match tabFind s.memop.slots slot with
    | none => s
    | some r =>
      match r.acked with
      | none => s
      | some t =>
        if (r.kind = 0x10 ∨ r.kind = 0x13) ∧ 4000000 ≤ s.now - t then
          let s := ((s.freeSlot slot).count (offMemReplyTimeout r.ctx) 1).mgmtEvent 0x23 (some r.ctx) r.peer 0
          (s.slotFault r clsDead r.peer).noteLost r.ctx (r.kind == 0x13).toNat 0
        else s)

end Sys2Proof.Machine
end

