-- ==== Sys2Proof/Machine/Vats.lean ====
section
/-!
DEFINITION. The buffer pool manager (spec/09_vats.md): pools and their lists (R259 to R262), the grant rule (R266 to R269), freeing and teardown
(R270 to R272; a vat's bytes are not cleared, R263), watermark events (R273), and the writes of pool registers and quotas (R261, R265).
-/
namespace Sys2Proof.Machine

/-! ### Pools -/

def State.pool (s : State) (k : Nat) : VatPool := s.vats.pools.getD k (VatPool.fresh 0 0)
def State.setPool (s : State) (k : Nat) (p : VatPool) : State := { s with vats := { s.vats with pools := s.vats.pools.set k p } }

/-- F_k: the free vats of a pool. -/
def VatPool.freeCount (p : VatPool) : Nat := p.sram.size + p.ovf.size
def State.vatF (s : State) (k : Nat) : Nat := (s.pool k).freeCount

/-- SRAM buffers of a pool. -/
def State.sramVats (s : State) (k : Nat) : Nat := s.regN (offPoolBytes k) / vatSize k

/-- The class a request of n bytes fits (R260). -/
def fitClass (n : Nat) : Nat := ((List.range 6).find? (fun k => n ≤ vatSize k)).getD 5

/-- VAT_HELD of requester (c, e) in class k. -/
def State.vatHeld (s : State) (c e k : Nat) : Nat :=
  (s.vats.held.filter (fun h => h.ctx == c && h.eng == e && h.vat.k == k)).length

/-! ### Watermarks (R273, R489) -/

/-- Report that F_k stands at or below a threshold, once per crossing. -/
def State.crossing (s : State) (k thr bit code : Nat) (armed : Bool) (setArm : VatPool → Bool → VatPool) : State :=
  let f := s.vatF k
  if f ≤ thr then
    if armed then ((s.setPool k (setArm (s.pool k) false)).orReg (offVatStatus k) (BitVec.ofNat 64 (2 ^ bit))).eventBoth code none k f else s
  else s.setPool k (setArm (s.pool k) true)

/-- F_k has changed: its minimum and its three thresholds. -/
def State.freeChanged (s : State) (k : Nat) : State :=
  let f := s.vatF k
  let s := if f < s.regN (offVatFreeMin k) then s.setRegN (offVatFreeMin k) f else s
  let s := s.crossing k (s.regN (offVatLow k)) 0 0x01 (s.pool k).armLow (fun p b => { p with armLow := b })
  let s := s.crossing k (s.regN (offVatCrit k)) 1 0x02 (s.pool k).armCrit (fun p b => { p with armCrit := b })
  s.crossing k 0 2 0x03 (s.pool k).armEmpty (fun p b => { p with armEmpty := b })

/-! ### Overflow vats in DRAM -/

/-- The pieces of n bytes of an overflow vat from off on. -/
def State.vatPieces (s : State) (v : VatId) (off n : Nat) : List Piece :=
  (s.flatPieces (s.regN (offOvfBase v.k) + v.idx * vatSize v.k + off) n).getD []

/-- Whether a damaged word is one of a vat's bytes off to off + n - 1. -/
def VatWord.inside (w : VatWord) (v : VatId) (off n : Nat) : Bool := w.k == v.k && w.idx == v.idx && rangesMeet (8 * w.word) 8 off n

/-- Whether bytes of a vat hold a word beyond correction. -/
def State.vatPoisoned (s : State) (v : VatId) (off n : Nat) : Bool :=
  if v.ovf then (s.vatPieces v off n).any (fun p => s.dramPoison.any (fun w => rangesMeet (32 * w) 32 p.2.1 p.2.2))
  else s.vats.hurt.any (fun w => w.wide && w.inside v off n)

/-- A block reads bytes of a vat: the error rules of its part apply (R144, R164), and true says that they hold a word beyond correction (R272). A corrected word of the Table SRAM is
counted in TABLE_SRAM_CE. -/
def State.vatRead (s : State) (v : VatId) (off n : Nat) : State × Bool :=
  let s :=
    if v.ovf then (s.vatPieces v off n).foldl (fun s p => (s.checkDram p.2.1 p.2.2).1) s
    else
      let soft := s.vats.hurt.filter (fun w => !w.wide && w.inside v off n)
      ({ s with vats := { s.vats with hurt := s.vats.hurt.filter (fun w => !soft.contains w) } }).count offTableSramCe soft.length
  (s, s.vatPoisoned v off n)

/-- A word of a vat in the Table SRAM is damaged (R144). -/
def State.vatUpset (s : State) (k idx word : Nat) (wide : Bool) : State :=
  if 6 ≤ k || vatSize k ≤ 8 * word then s
  else { s with vats := { s.vats with hurt := s.vats.hurt.filter (fun w => !(w.k == k && w.idx == idx && w.word == word && !w.wide)) ++ [⟨k, idx, word, wide⟩] } }

/-- The flat address of the first poisoned word among the first n bytes of a vat that a block reads, or 0 for one of the Table SRAM (R141, R272). -/
def State.vatPoisonAt (s : State) (v : VatId) (n : Nat) : State × Option Nat :=
  match s.vatRead v 0 n with
  | (s, false) => (s, none)
  | (s, true) =>
    (s, some (((s.vatPieces v 0 n).filterMap (fun p =>
      (s.dramPoison.find? (fun w => rangesMeet (32 * w) 32 p.2.1 p.2.2)).map (fun w => if 32 * w < p.2.1 then p.1 else p.1 + (32 * w - p.2.1)))).head?.getD 0))

/-- The first poisoned word, as `vatPoisonAt` has it, in the ranges (first byte, length) of a vat that a block reads: what it has written there, and nothing else (R263). -/
def State.vatPoisonIn (s : State) (v : VatId) (l : List (Nat × Nat)) : State × Option Nat :=
  l.foldl (fun r e =>
    let d := r.1.vatRead v e.1 e.2
    let hit (p : Piece) : Option Nat := (s.dramPoison.find? (fun w => rangesMeet (32 * w) 32 p.2.1 p.2.2)).map (fun w => if 32 * w < p.2.1 then p.1 else p.1 + (32 * w - p.2.1))
    (d.1, match r.2 with
      | some f => some f
      | none => if d.2 then some (((s.vatPieces v e.1 e.2).filterMap hit).head?.getD 0) else none)) (s, none)

/-- A block writes bytes of a vat: into DRAM for an overflow vat. What a block keeps in a vat also stands in its own record, and the Table SRAM's bytes there alone (log 26). A damaged word written
whole is sound again. -/
def State.vatWritten (s : State) (v : VatId) (off : Nat) (bs : List Byte) : State :=
  if v.ovf then s.writePieces (s.vatPieces v off bs.length) bs
  else { s with vats := { s.vats with hurt := s.vats.hurt.filter (fun w => !(w.k == v.k && w.idx == v.idx && rangeIn (8 * w.word) 8 off bs.length)) } }

/-- The next word of a free vat (R262): the index of the next free vat of its part, or all ones at the end of the list. -/
def nextWord (next : Option Nat) : List Byte := leBytes 8 (next.getD (2 ^ 64 - 1))

/-! ### Grants (R262, R266, R267) -/

/-- allowed(r, j) of R266; engine class 7 is management. -/
def State.vatAllowed (s : State) (c e j : Nat) : Bool :=
  let f := s.vatF j
  let held := s.vatHeld c e j
  let quota := s.regN (offVatQuota c e j)
  if f = 0 then false
  else if e = 7 then true
  else if quota ≤ held then false
  else if f ≤ s.regN (offVatCrit j) then false
  else if f ≤ s.regN (offVatLow j) && quota < 2 * held then false
  else true

/-- The class a request is granted from, if it is. The management requester is not promoted: VAT_PROMOTE has a bit for each engine class of a context alone (R269). -/
def State.grantClass (s : State) (c e k : Nat) : Option Nat :=
  if s.vatAllowed c e k then some k
  else if s.vatF k = 0 && decide (e < 4) && bitN (s.regN (offVatPromote c)) e then ((List.range 6).filter (k < ·)).find? (s.vatAllowed c e)
  else none

/-- Vats are lost to a pool (R272) (log 64). -/
def State.loseVats (s : State) (k n : Nat) : State :=
  (s.setPool k { s.pool k with lost := (s.pool k).lost + n }).count (offVatRetired k) n

/-- The list of a part of a pool. -/
def VatPool.part (p : VatPool) (ovf : Bool) : FreeList := if ovf then p.ovf else p.sram
def VatPool.setPart (p : VatPool) (ovf : Bool) (f : FreeList) : VatPool := if ovf then { p with ovf := f } else { p with sram := f }

/-- Take the top of a part's list, whose next word becomes the list's head. A poisoned next word ends the list before its vat: that vat and those behind it are lost to the pool (R272). -/
def State.takePart (s : State) (k : Nat) (ovf : Bool) : Option VatId × State :=
  match ((s.pool k).part ovf).top with
  | none => (none, s)
  | some i =>
    match s.vatRead ⟨k, ovf, i⟩ 0 8 with
    | (s, true) =>
      let p := s.pool k
      let n := (p.part ovf).size
      (none, (((s.setPool k (p.setPart ovf ⟨[], 0, 0⟩)).loseVats k n).eventBoth 0x05 none k n).freeChanged k)
    | (s, false) =>
      let p := s.pool k
      let s := s.setPool k (p.setPart ovf (p.part ovf).pop)
      (some ⟨k, ovf, i⟩, (if ovf then s.count (offVatOvfAllocs k) 1 else s).freeChanged k)

/-- Take a vat of a pool: from the SRAM list while it is not empty, else from the overflow list (R262). -/
def State.takeVat (s : State) (k : Nat) : Option VatId × State := s.takePart k (s.pool k).sram.top.isNone

/-- Grant a request from class j: its holder is recorded and the counters move (R270, Table 9.4). -/
def State.grantVat (s : State) (c e k j : Nat) (tag : VatTag) : Option VatHold × State :=
  match s.takeVat j with
  | (none, s) => (none, s)
  | (some v, s) =>
    let h : VatHold := ⟨v, c, e, tag⟩
    let s := { s with vats := { s.vats with held := s.vats.held ++ [h] } }
    let s := s.count (offVatAllocs j) 1
    let s := if k < j then s.count (offVatPromoted j) 1 else s
    let n := s.vatHeld c e j
    let s := if e < 4 ∧ s.regN (offVatHeldMax c e j) < n then s.setRegN (offVatHeldMax c e j) n else s
    (some h, s)

/-- Grant a request if R266 allows it; one whose list ends at a poisoned next word is judged again, at most once for each part of each pool. -/
def State.grantTry (s : State) (c e k : Nat) (tag : VatTag) (fuel : Nat) : Option VatHold × State :=
  match fuel with
  | 0 => (none, s)
  | n + 1 =>
    match s.grantClass c e k with
    | none => (none, s)
    | some j =>
      match s.grantVat c e k j tag with
      | (some h, s) => (some h, s)
      | (none, s) => s.grantTry c e k tag n

/-- Judge the waiting requests of a list in order; one still not allowed keeps its place. -/
def State.serveList (s : State) (l : List VatReq) : State :=
  match l with
  | [] => s
  | r :: rest =>
    match s.grantTry r.ctx r.eng r.k r.tag 13 with
    | (none, s) => s.serveList rest
    | (some _, s) => ({ s with vats := { s.vats with waiting := s.vats.waiting.erase r } }).serveList rest

/-- Re-apply R266 to the waiting requests: management first (R267). -/
def State.serveVats (s : State) : State :=
  s.serveList (s.vats.waiting.filter (·.eng == 7) ++ s.vats.waiting.filter (·.eng != 7))

/-- The vat that requester (c, e) holds under a tag. -/
def State.vatFor (s : State) (c e : Nat) (tag : VatTag) : Option VatHold :=
  s.vats.held.find? (fun h => h.ctx == c && h.eng == e && h.tag == tag)

/-- Ask for a vat of n bytes under a tag: one held or granted now, or none while the request waits. -/
def State.askVat (s : State) (c e n : Nat) (tag : VatTag) : Option VatHold × State :=
  match s.vatFor c e tag with
  | some h => (some h, s)
  | none =>
    let k := fitClass n
    let r : VatReq := ⟨c, e, k, tag⟩
    if s.vats.waiting.contains r then (none, s)
    else
      match s.grantTry c e k tag 13 with
      | (some h, s) => (some h, s)
      | (none, s) =>
        let s := { s with vats := { s.vats with waiting := s.vats.waiting ++ [r] } }
        (none, if e < 4 then s.count (offVatWaits c e) 1 else s)

/-! ### Freeing and teardown (R270 to R272) -/

/-- Put a vat back on the list of its part, its next word naming the old top; or retire it when it holds a poisoned word. -/
def State.putVat (s : State) (v : VatId) : State :=
  if s.vatPoisoned v 0 (vatSize v.k) then s.loseVats v.k 1
  else
    let s := s.count (offVatFrees v.k) 1
    let s := s.vatWritten v 0 (nextWord ((s.pool v.k).part v.ovf).top)
    let p := s.pool v.k
    (s.setPool v.k (p.setPart v.ovf ((p.part v.ovf).push v.idx))).freeChanged v.k

/-- Free a vat. One that its block does not hold changes no list and is reported. -/
def State.freeVat (s : State) (h : VatHold) : State :=
  if s.vats.held.contains h then (({ s with vats := { s.vats with held := s.vats.held.erase h } }).putVat h.vat).serveVats
  else s.mgmtEvent 0x04 none h.vat.k h.vat.idx

/-- Insert by class, then index. -/
def insertVat (h : VatHold) (l : List VatHold) : List VatHold :=
  match l with
  | [] => [h]
  | g :: r => if h.vat.k < g.vat.k ∨ (h.vat.k = g.vat.k ∧ h.vat.idx < g.vat.idx) then h :: g :: r else g :: insertVat h r

/-- A torn-down context's requests are discarded and its vats returned, in ascending class and index order (R271). -/
def State.dropVats (s : State) (c : Nat) : State :=
  let mine := (s.vats.held.filter (·.ctx == c)).foldl (fun a h => insertVat h a) []
  let s := { s with vats := { s.vats with
    waiting := s.vats.waiting.filter (·.ctx != c)
    held := s.vats.held.filter (·.ctx != c) } }
  (mine.foldl (fun s h => s.putVat h.vat) s).serveVats

/-- Drop a waiting request that its block no longer makes. -/
def State.dropRequest (s : State) (c e : Nat) (tag : VatTag) : State :=
  { s with vats := { s.vats with waiting := s.vats.waiting.filter (fun r => !(r.ctx == c && r.eng == e && r.tag == tag)) } }

/-! ### The management requester (R264): firmware itself, of no context -/

/-- No context: the place of one in the management requester's requests. -/
def noCtx : Nat := 64
def engMgmt : Nat := 7
def fwTag (i : Nat) : VatTag := ⟨7, i, 0, 0⟩

/-- Firmware asks for a vat of n bytes. -/
def State.fwAsk (s : State) (i n : Nat) : State := if s.firmware && 0 < n && n ≤ 262144 then (s.askVat noCtx engMgmt n (fwTag i)).2 else s

/-- Firmware frees a vat (class, part and index): one that it does not hold changes no list and raises VAT_BAD_FREE (R270). -/
def State.fwFree (s : State) (v : Nat × Bool × Nat) : State :=
  if !s.firmware then s
  else
    let id : VatId := ⟨v.1, v.2.1, v.2.2⟩
    match s.vats.held.find? (fun h => h.ctx == noCtx && h.eng == engMgmt && h.vat == id) with
    | some h => s.freeVat h
    | none => s.freeVat ⟨id, noCtx, engMgmt, fwTag 0⟩

/-! ### Pool registers and quotas (R261, R265) -/

/-- The address and writable bits of a pool register (Table 18.9). -/
def poolReg (k : Nat) (f : PoolField) : Nat × Nat :=
  match f with
  | .bytes => (offPoolBytes k, 2 ^ 28 - 1)
  | .ovfBase => (offOvfBase k, 2 ^ 64 - 1)
  | .ovfCount => (offOvfCount k, 2 ^ 21 - 1)
  | .low => (offVatLow k, 2 ^ 21 - 1)
  | .crit => (offVatCrit k, 2 ^ 21 - 1)

/-- The limits of R261 over all six pools as the registers stand. -/
def State.poolsLegal (s : State) : Bool :=
  (List.range 6).all (fun k =>
    let b := s.regN (offPoolBytes k)
    let base := s.regN (offOvfBase k)
    let n := s.regN (offOvfCount k)
    let total := s.sramVats k + n
    b % 262144 == 0 && n ≤ 1048576 && base % vatSize k == 0 && (match addrForm base with | .native .. => true | _ => false) &&
    (s.flatPieces base (n * vatSize k)).isSome &&
    s.regN (offVatCrit k) ≤ s.regN (offVatLow k) && decide (s.regN (offVatLow k) < total)) &&
  (((List.range 6).map (fun k => s.regN (offPoolBytes k))).foldl (· + ·) 0 ≤ 192 * 2 ^ 20)

/-- Write the next words of a list of vats 0 to n - 1 in rising order. -/
def State.linkVats (s : State) (k : Nat) (ovf : Bool) (n : Nat) : State :=
  (List.range n).foldl (fun s i => s.vatWritten ⟨k, ovf, i⟩ 0 (nextWord (if i + 1 < n then some (i + 1) else none))) s

/-- Build every list afresh (R262). -/
def State.buildPools (s : State) : State :=
  let s := { s with vats := { s.vats with hurt := s.vats.hurt.filter (·.word != 0) } }
  let s := (List.range 6).foldl (fun s k => s.linkVats k true (s.regN (offOvfCount k))) s
  let s := { s with vats := { s.vats with
    pools := (List.range 6).map (fun k =>
      let p := s.pool k
      { VatPool.fresh (s.sramVats k) (s.regN (offOvfCount k)) with armLow := p.armLow, armCrit := p.armCrit, armEmpty := p.armEmpty }) } }
  (List.range 6).foldl State.freeChanged s

/-- VAT_POOL_CONFIG: accepted only while every vat is free and no request waits (R261), and ignored in recovery mode (R490). -/
def execVatPoolConfig (k : Fin 6) (f : PoolField) (value : W64) (s : State) : Host.Outcome State Fault Refusal :=
  .next (
    let (a, mask) := poolReg k f
    if !s.pf0Open then s
    else
    let s' := s.setRegN a (value.toNat &&& mask)
    if s.vats.held.isEmpty && s.vats.waiting.isEmpty && s'.poolsLegal then s'.buildPools else s.refuse 0 a)

/-- VAT_QUOTA_WRITE: a quota of 0 to 1,048,576; the waiting requests are judged again (R265, R267). -/
def execVatQuotaWrite (c : Ctx) (e : Fin 4) (k : Fin 6) (value : W64) (s : State) : Host.Outcome State Fault Refusal :=
  .next (
    let v := value.toNat % 2 ^ 21
    let a := offVatQuota c e k
    if !s.pf0Open then s
    else if v ≤ 1048576 then (s.setRegN a v).serveVats else s.refuse 0 a)

end Sys2Proof.Machine
end

