-- ==== Sys2Proof/Machine/Rings.lean ====
section
/-!
DEFINITION. Submission and completion rings (spec/14_host_interface.md): doorbells (R389, R390), the reading of descriptors (R391), how a descriptor is taken
from the head of its ring (R392 to R394, R410, R415), interrupt moderation (R397), and NOP and RING.BARRIER (R394, R401).
-/
namespace Sys2Proof.Machine

/-! ### Reading descriptors (R391) -/

/-- Most non-posted requests outstanding for the endpoint (Table 14.1). -/
def maxReads : Nat := 1024

/-- Count a context's bytes over PCIe, if it is lent (Table 15.10). -/
def State.acctHost (s : State) (c n : Nat) : State :=
  match s.ctx? c with
  | some x => if x.lent then s.count (offAcctCtr c 4) n else s
  | none => s

/-- Bytes of a read. -/
def ReadUse.len (u : ReadUse) : Nat :=
  match u with
  | .descriptors _ _ n => 64 * n
  | .copy _ _ n => n
  | .weights _ _ _ n => n
  | .image _ n => n

/-- Requests that a read of n bytes takes. -/
def State.readRequests (s : State) (n : Nat) : Nat := ceilDiv n s.host.link.maxRead

/-- Whether the endpoint may have another read of n bytes outstanding (Table 14.1). -/
def State.readRoom (s : State) (n : Nat) : Bool :=
  (s.host.reads.map (fun r => s.readRequests r.2.use.len)).foldl (· + ·) 0 + s.readRequests n ≤ maxReads

/-- Send the requests of a read, each of at most Max Read Request Size, with the function's Requester ID. -/
def State.sendRead (s : State) (fn addr len id : Nat) : State :=
  let m := s.host.link.maxRead
  (List.range (s.readRequests len)).foldl (fun (s : State) i => s.emit fn (.read fn (addr + m * i) (min m (len - m * i)) id)) s

/-- Issue a read of host memory. -/
def State.hostRead (s : State) (fn addr len : Nat) (u : ReadUse) : State :=
  let id := s.host.nextRead
  ({ s with host := { s.host with reads := tabInsert s.host.reads id ⟨fn, u⟩, nextRead := id + 1 } }).sendRead fn addr len id

/-- Send the requests of a read whose bytes come with the command that makes it (log 104). -/
def State.hostFetch (s : State) (fn addr len : Nat) : State :=
  ({ s with host := { s.host with nextRead := s.host.nextRead + 1 } }).sendRead fn addr len s.host.nextRead

/-- Send those requests and go on, when the endpoint may have one of them outstanding (Table 14.1): each follows as the one before it completes. Otherwise the command waits (log 104). -/
def State.withFetch (s : State) (addr len : Nat) (k : State → State) : State :=
  if s.readRoom (min len s.host.link.maxRead) then k (s.hostFetch 0 addr len) else s

/-- Issue the next reads of a ring's descriptors up to its tail: at most 16 a read, none across the end of the ring. -/
def State.fetchDescs (s : State) (fn i fuel : Nat) : State :=
  match fuel with
  | 0 => s
  | k + 1 =>
    let r := s.ring fn i
    let left := (r.tail - r.readTo).toNat
    let size := s.sqSize fn i
    let slot := r.readTo.toNat % size
    let n := min left (min 16 (size - slot))
    if left = 0 ∨ !s.readRoom (64 * n) ∨ s.fnStopped fn ∨ !s.sqEnabled fn i then s
    else
      let s := s.setRing fn i { r with readTo := r.readTo + BitVec.ofNat 32 n }
      (s.hostRead fn (s.regN (fnReg fn (offSqBase i)) + 64 * slot) (64 * n) (.descriptors i r.readTo n)).fetchDescs fn i k

/-- Go on reading for every ring: room has come among the outstanding reads. -/
def State.fetchAll (s : State) : State :=
  s.host.rings.foldl (fun s e => s.fetchDescs (e.1 / 8) (e.1 % 8) 4096) s

/-- The bytes of a descriptor read have come: they join the ring by count. -/
def State.landDescs (s : State) (fn i : Nat) (count : W32) (n : Nat) (bs : List Byte) : State :=
  let r := s.ring fn i
  let new := (List.range n).map (fun j => (count + BitVec.ofNat 32 j, (bs.drop (64 * j)).take 64))
  let share := (List.range 4).map (fun k => s.regN (offEpochShare k))
  s.setRing fn i { r with fetched := r.fetched ++ new, shares := r.shares ++ new.map (fun x => (x.1, share)) }

/-- EPOCH_SHARE of an entry as it stood when the descriptor at the head of a ring was fetched (R497) (log 133). -/
def State.shareAtFetch (s : State) (d : DescRef) (k : Nat) : Nat :=
  let r := s.ring d.fn d.ring
  match r.shares.find? (fun x => x.1 == r.head) with
  | some x => x.2.getD k 0
  | none => s.regN (offEpochShare k)

/-! ### Doorbells (R389, R390) -/

/-- SQ_TAIL: a valid value becomes T and its descriptors are read; an invalid one faults the context; one to a disabled ring is counted. -/
def execSqTail (fn : Fn) (ring : Ring) (v : W32) (s : State) : Host.Outcome State Fault Refusal :=
  .next (
    if !s.hears fn then s
    else if !s.sqEnabled fn ring then s.count (fnReg fn offDbIgnored) 1
    else
      let r := s.ring fn ring
      if (v - r.tail).toNat ≤ (r.head + BitVec.ofNat 32 (s.sqSize fn ring) - r.tail).toNat then
        (s.setRing fn ring { r with tail := v }).fetchDescs fn ring 4096
      else s.fault fn clsBadDesc 0)

/-- CQ_HEAD: a valid value becomes Hc, and backlogged records move to the rings (R398). -/
def execCqHead (fn : Fn) (ring : Ring) (v : W32) (s : State) : Host.Outcome State Fault Refusal :=
  .next (
    if !s.hears fn then s
    else if !s.cqEnabled fn ring then s.count (fnReg fn offDbIgnored) 1
    else
      let r := s.ring fn ring
      if (v - r.cqHead).toNat ≤ (r.cqTail - r.cqHead).toNat then
        let s := s.setRing fn ring { r with cqHead := v }
        s.drainBacklog fn (s.backlogOf fn)
      else s.fault fn clsBadDesc 0)

/-- EVQ_HEAD: an invalid value is ignored and counted in BAR_BAD_ACCESS. With every event taken none is pending, and ALERT_N rises (R465) (log 136). -/
def execEvqHead (v : W32) (s : State) : Host.Outcome State Fault Refusal :=
  .next (
    if !s.hears 0 then s
    else if !s.evqEnabled then s.count (fnReg 0 offDbIgnored) 1
    else
      let q := s.host.evq
      if (v - q.cqHead).toNat ≤ (q.cqTail - q.cqHead).toNat then
        let s := { s with host := { s.host with evq := { q with cqHead := v } } }
        let s := s.drainEvents s.host.evBacklog
        if s.host.evq.cqHead = s.host.evq.cqTail ∧ s.host.evBacklog.isEmpty then { s with power := { s.power with alertN := true } } else s
      else s.badAccess 0)

/-- CQ_MOD_TIMER: TIME microseconds have passed since the first record after the ring's last message (R397). -/
def execCqModTimer (fn : Fn) (ring : Ring) (s : State) : Host.Outcome State Fault Refusal :=
  .next (s.unlessTripped fun s =>
    let r := s.ring fn ring
    let vec := s.regN (fnReg fn (offCqVector ring))
    let time := bitsN (s.regN (fnReg fn (offCqMod ring))) 25 16
    match r.modFirst with
    | some t =>
      if bitN vec 8 && time != 0 && time * 1000 ≤ s.now - t then
        (s.setRing fn ring { r with modCount := 0, modFirst := none }).sendMsix fn (vec % 64)
      else s
    | none => s)

/-! ### Accepting a descriptor (R392 to R394) -/

/-- The opcodes of Table 14.8 and chapters 15 and 16. -/
def knownOp (op : Nat) : Bool :=
  op == 0x01 || (0x10 ≤ op && op ≤ 0x12) || (0x40 ≤ op && op ≤ 0x43) || op == 0x58 || op == 0x60 || op == 0x61 || (0x70 ≤ op && op ≤ 0x72) ||
  (0x80 ≤ op && op ≤ 0x86) || (0x88 ≤ op && op ≤ 0x8A)

/-- Whether an opcode is accepted on PF0 whether or not context 0 exists (R410). -/
def pf0Always (op : Nat) : Bool := op == 0x01 || op == 0x11 || op == 0x12 || (0x80 ≤ op && op ≤ 0x9F)

/-- Statuses of Table 15.12 that ring rules name. -/
def stNoCtx : Nat := 0x80
def stBadField : Nat := 0x8A

/-- The descriptor at the head of a ring, when it is ready: the ring is enabled, the function has not stopped and holds no backlog, and
descriptors are being accepted, which they are only after every DRAM wipe (R157). -/
def State.readyDesc (s : State) (fn i : Nat) : Option (List Byte) :=
  if s.hears fn && s.sqEnabled fn i && !s.fnStopped fn && (s.backlogOf fn).isEmpty && !s.host.noAccept && s.press.wiping.isEmpty then
    let r := s.ring fn i
    (r.fetched.find? (fun x => x.1 == r.head)).map (·.2)
  else none

/-- Whether a ring's turn has come: no ring with a ready descriptor lies before it, among the functions from the one whose turn it is and among a function's rings from the one whose turn it is
(R393) (log 121). -/
def State.hasTurn (s : State) (fn i : Nat) : Bool :=
  let ft := s.host.fnTurn
  let rt := tabGet 0 s.host.ringTurn fn
  s.host.rings.all (fun e =>
    let g := e.1 / 8
    let j := e.1 % 8
    (s.readyDesc g j).isNone || (if g = fn then (i + 8 - rt) % 8 ≤ (j + 8 - rt) % 8 else (fn + 64 - ft) % 64 ≤ (g + 64 - ft) % 64))

/-- The descriptor at the head of a ring, when the Table may take it: it is ready, and its ring's turn has come. -/
def State.headDesc (s : State) (fn i : Nat) : Option (List Byte) := if s.hasTurn fn i then s.readyDesc fn i else none

/-- The Table has looked at a ring: the turn passes to the function's next ring and to the next function, whether the descriptor was taken or is held. -/
def State.passTurn (s : State) (fn i : Nat) : State :=
  { s with host := { s.host with fnTurn := (fn + 1) % 64, ringTurn := tabSet 0 s.host.ringTurn fn ((i + 1) % 8) } }

/-- Accept the head descriptor: H advances and SQ_HEAD is written. -/
def State.accept (s : State) (d : DescRef) : State :=
  let r := s.ring d.fn d.ring
  let h := r.head + 1
  let s := s.setRing d.fn d.ring { r with head := h, fetched := r.fetched.filter (fun x => x.1 != r.head), shares := r.shares.filter (fun x => x.1 != r.head), open_ := r.open_ + 1 }
  s.hostWrite d.fn (s.regN (fnReg d.fn offWbBase) + 8 * d.ring) (leBytes 8 h.toNat)

/-- Accept a descriptor and complete it at once. -/
def State.finish (s : State) (d : DescRef) (status : Nat) (body : List Byte) : State := (s.accept d).complete d status body

/-- A descriptor faults its context with "bad descriptor"; the teardown record carries its TAG (Table 15.5). On PF0 without context 0 there is no context to
fault, and it completes with BAD_FIELD (log 28). -/
def State.descBad (s : State) (d : DescRef) : State :=
  if (s.ctx? d.fn).isNone then s.finish d stBadField [] else s.beginTeardown d.fn clsBadDesc reasonFault d.tag d.op.toNat

/-- A descriptor faults its context. -/
def State.descFault (s : State) (d : DescRef) (cls detail : Nat) : State := s.beginTeardown d.fn cls reasonFault d.tag detail

/-- Take the head descriptor of a ring if it has the opcode `op`, or one that is reserved: the rules of R394, R410 and R415 come first, and `k` is the
opcode's own. A descriptor of a context whose teardown has begun waits (log 28). -/
def State.onDesc (s : State) (fn i op : Nat) (k : State → DescRef → List Byte → State) : State :=
  match s.headDesc fn i with
  | none => s
  | some b =>
    let o := fieldN b 0 1
    let d : DescRef := ⟨fn, i, BitVec.ofNat 8 o, BitVec.ofNat 32 (fieldN b 4 4)⟩
    let pf0 := fn == 0 && pf0Always o
    if knownOp o && o != op then s
    else
    let s := s.passTurn fn i
    if (s.ctx? fn).isNone && !pf0 then s.finish d stNoCtx []
    else if o != op then
      if fn == 0 && 0x80 ≤ o && o ≤ 0x9F then s.finish d stBadField [] else s.descBad d
    else if 0x80 ≤ o && fn != 0 then s.descBad d
    else if !s.ctxLive fn && !pf0 then s
    else k s d b

/-- NOP: completes OK at acceptance. Its bytes other than OPCODE and TAG are reserved (R7). -/
def execNop (fn : Fn) (ring : Ring) (s : State) : Host.Outcome State Fault Refusal :=
  .next (s.onDesc fn ring 0x01 (fun s d b =>
    if fieldZero b 1 3 && fieldZero b 8 56 then s.finish d 0 [] else s.descBad d))

/-- RING.BARRIER: accepted when every earlier descriptor of its ring has completed (R401). -/
def execRingBarrier (fn : Fn) (ring : Ring) (s : State) : Host.Outcome State Fault Refusal :=
  .next (s.onDesc fn ring 0x11 (fun s d b =>
    if fieldZero b 1 3 && fieldZero b 8 56 then
      if (s.ring fn ring).open_ = 0 then s.finish d 0 [] else s
    else s.descBad d))

end Sys2Proof.Machine
end

