-- ==== Sys2Proof/Machine/Weights.lean ====
section
/-!
DEFINITION. Wheels, epochs and adapters (spec/13_weights.md): manifests (R352, R353), loads and their three sources (R354 to R362), the epoch table and its
references (R363 to R366), adapter slots (R368 to R370), binding tables (R367) what a teardown does to them (R371), events that meet (R373) and the counters (R374).
-/
namespace Sys2Proof.Machine

/-! ### Tables -/

def State.load? (s : State) (id : Nat) : Option Load := tabFind s.whl.loads id
def State.setLoad (s : State) (id : Nat) (l : Load) : State := { s with whl := { s.whl with loads := tabInsert s.whl.loads id l } }
def State.modLoad (s : State) (id : Nat) (f : Load → Load) : State :=
  match s.load? id with
  | some l => s.setLoad id (f l)
  | none => s
def State.modWheel (s : State) (id w : Nat) (f : Wheel → Wheel) : State := s.modLoad id (fun l => { l with wheels := l.wheels.modify w f })

def State.epochEntry (s : State) (i : Nat) : EpochEntry := s.whl.epochs.getD i .free
def State.setEpoch (s : State) (i : Nat) (e : EpochEntry) : State := { s with whl := { s.whl with epochs := s.whl.epochs.set i e } }
def State.adapter (s : State) (a : Nat) : AdapterEntry := tabGet .free s.whl.adapters a
def State.setAdapter (s : State) (a : Nat) (e : AdapterEntry) : State := { s with whl := { s.whl with adapters := tabSet .free s.whl.adapters a e } }

/-- The entry of a resident epoch number. -/
def State.epochIdx (s : State) (n : Nat) : Option Nat :=
  (List.range 4).find? (fun i => let e := s.epochEntry i; e.st != 0 && e.epoch == n && n != 0)

/-- The admission epoch of a context; 0 for none. -/
def State.admissionOf (s : State) (c : Nat) : Nat := tabGet 0 s.whl.admission c

/-- References other than the load's to an epoch number: admission epochs and sequence slots (R364). -/
def State.epochUsers (s : State) (n : Nat) : Nat :=
  (s.whl.admission.filter (fun a => a.2 == n)).length + (s.seq.slots.filter (fun x => x.2.epochRef && x.2.epoch == n)).length

/-- The reference count of an epoch entry (R364). -/
def State.epochCount (s : State) (i : Nat) : Nat := let e := s.epochEntry i; e.loadRef.toNat + s.epochUsers e.epoch

/-- The count of an adapter slot (R369). -/
def State.adapterCount (s : State) (a : Nat) : Nat :=
  (s.adapter a).loadRef.toNat + (s.seq.slots.filter (fun x => x.2.adapterRef && x.2.adapter == a)).length

/-- Whether a new number is taken: by an entry, or by a load that waits for one. -/
def State.numberResident (s : State) (n : Nat) : Bool :=
  (s.epochIdx n).isSome || s.whl.loads.any (fun l => l.2.kind == 0 && l.2.target == n && (l.2.phase == .waiting || l.2.phase == .failed))

/-! ### Binding tables (R367) -/

/-- Write a binding entry of a context: base, state and model tag, or zero. -/
def State.bindWrite (s : State) (c kind n base st : Nat) (tag : W32) : State :=
  let p := s.regN (offWeightBindPtr c)
  if p = 0 then s
  else s.writeNative (p + (if kind = 0 then 16 * n else 4096 + 16 * n))
    (if st = 0 then zeroBytes 16 else leBytes 8 base ++ leBytes 1 st ++ zeroBytes 3 ++ leBytes 4 tag.toNat)

/-- Write an epoch's entry to its owner, to every context its share register names and to those that have it already. -/
def State.bindEpoch (s : State) (i : Nat) : State :=
  let e := s.epochEntry i
  match s.load? e.load with
  | none => s
  | some l =>
    let share := (List.range 64).filter (fun c => c == e.owner || bitN (s.regN (offEpochShare i)) c || e.named.contains c)
    let st := if e.st = 3 then 1 else 2
    share.foldl (fun s c => s.bindWrite c 0 e.epoch l.base st l.modelTag) (s.setEpoch i { e with named := share })

/-- Write a Ready epoch's entry to one context that declares it. -/
def State.bindFor (s : State) (i c : Nat) : State :=
  let e := s.epochEntry i
  match s.load? e.load with
  | none => s
  | some l => (s.setEpoch i { e with named := setAdd e.named c }).bindWrite c 0 e.epoch l.base 1 l.modelTag

/-! ### Sending pieces -/

/-- Bytes of piece p of a wheel. -/
def pieceLen (w : Wheel) (p : Nat) : Nat := min 2048 (w.bytes - 2048 * p)
def pieceCount (w : Wheel) : Nat := ceilDiv w.bytes 2048

/-- The flat pieces of part of a region. -/
def State.regionPieces (s : State) (l : Load) (off n : Nat) : List Piece := (s.flatPieces (l.base + off) n).getD []

/-- The DST of a multicast (R292): chassis, line index and mode (0 row, 1 column, 2 chassis). -/
def mcastDst (chassis line mode : Nat) : Nat := 64 * chassis + 8 * line + 2 * mode

/-- A wheel packet with a manifest id. -/
def State.whlPacket (s : State) (typ dst sctx dctx man : Nat) (op : List (Nat × Nat × Nat)) (bs : List Byte) : Packet :=
  s.mkPacket typ 2 dst sctx dctx ((0x10, 8, man) :: op) bs

/-! ### Pulling (R358) -/

def wheelTag (load wheel piece : Nat) : VatTag := ⟨2, load, wheel, piece⟩
def hostWheelTag (load wheel piece : Nat) : VatTag := ⟨3, 2 * load + 1, wheel, piece⟩

/-- Pieces of a wheel that are missing and in no pull. -/
def Load.missing (l : Load) (w : Nat) : List Nat :=
  match l.wheels[w]? with
  | none => []
  | some x => (List.range (pieceCount x)).filter (fun p => !x.got.contains p && !l.pulls.any (fun q => q.2.wheel == w && q.2.pieces.contains p))

/-- The first run of at most 64 consecutive numbers of a rising list. -/
def firstRun (l : List Nat) (n : Nat) : List Nat :=
  match l, n with
  | [], _ => []
  | a :: _, 0 => [a]
  | [a], _ => [a]
  | a :: b :: r, k + 1 => if b = a + 1 then a :: firstRun (b :: r) k else [a]

/-- Whether a load pulls a wheel: the whole load does, or the wheel is fetched again after a digest mismatch (Table 13.7). -/
def Load.pullsWheel (l : Load) (x : Wheel) : Bool := l.owns x && !x.held && (l.pulling || x.refetch)

/-- The first own wheel with pieces to pull, and the run to ask for. -/
def Load.nextRun (l : Load) : Option (Nat × List Nat) :=
  ((List.range l.wheels.length).filter (fun w => match l.wheels[w]? with | some x => l.pullsWheel x | none => false)).findSome? (fun w =>
    match firstRun (l.missing w) 63 with
    | [] => none
    | r => some (w, r))

/-- Take the vats of a pull's pieces: whether all are held. -/
def State.pullVats (s : State) (l : Load) (id wheel : Nat) (ps : List Nat) : Bool × State :=
  match ps with
  | [] => (true, s)
  | p :: r =>
    match s.askVat l.ctx 2 2048 (wheelTag id wheel p) with
    | (some _, s) => s.pullVats l id wheel r
    | (none, s) => (false, s)

/-- Send a pull whose vats are held, to its holder entry. -/
def State.sendPull (s : State) (id pid : Nat) (l : Load) (q : Pull) : State :=
  match l.holders[q.holder]? with
  | none => s
  | some (g, c) =>
    let s := s.setLoad id { l with pulls := tabInsert l.pulls pid { q with sent := true, last := s.now } }
    s.sendSeq (s.whlPacket 0x50 g l.ctx c l.manId [(0x18, 2, q.wheel), (0x1A, 2, q.pieces.length), (0x1C, 4, q.first)] []) none

/-- Return the vat of a piece that is pulled no longer, or drop the request for it. -/
def State.dropPullVat (s : State) (c id w p : Nat) : State :=
  match s.vatFor c 2 (wheelTag id w p) with
  | some h => s.freeVat h
  | none => s.dropRequest c 2 (wheelTag id w p)

/-- Bring a pull that is not sent to what is still missing: its first run, of consecutive pieces; what follows a gap becomes a pull of its own. Gone when nothing is missing. -/
def State.trimPull (s : State) (id pid : Nat) (l : Load) (q : Pull) : State × Option Pull :=
  let got := ((l.wheels[q.wheel]?).map (·.got)).getD []
  let s := (q.pieces.filter got.contains).foldl (fun s p => s.dropPullVat l.ctx id q.wheel p) s
  let want := q.pieces.filter (fun p => !got.contains p)
  match firstRun want 63 with
  | [] => (s.setLoad id { l with pulls := tabErase l.pulls pid }, none)
  | run =>
    let q' := { q with pieces := run, first := run.headD 0 }
    let rest := want.drop run.length
    let pulls := tabInsert l.pulls pid q'
    if rest.isEmpty then (s.setLoad id { l with pulls := pulls }, some q')
    else (s.setLoad id { l with pulls := tabInsert pulls l.nextPull { q with pieces := rest, first := rest.headD 0 }, nextPull := l.nextPull + 1 }, some q')

/-- Send pulls while fewer than 8 are outstanding and vats come; while a round wait runs the load sends none. -/
def State.pumpPulls (s : State) (id fuel : Nat) : State :=
  match fuel with
  | 0 => s
  | k + 1 =>
    match s.load? id with
    | none => s
    | some l =>
      if l.phase ≠ .loading ∨ !l.wheels.any l.pullsWheel ∨ l.holders.isEmpty ∨ !s.ctxLive l.ctx ∨ l.wheels.any (·.roundAt.isSome) then s
      else
        match l.pulls.find? (fun q => !q.2.sent) with
        | some (pid, q) =>
          match s.trimPull id pid l q with
          | (s, none) => s.pumpPulls id k
          | (s, some q) =>
            if 8 ≤ (l.pulls.filter (fun x => x.2.sent)).length then s
            else
              match s.pullVats l id q.wheel q.pieces with
              | (true, s) => (s.sendPull id pid ((s.load? id).getD l) q).pumpPulls id k
              | (false, s) => s
        | none =>
          if 8 ≤ l.pulls.length then s
          else
            match l.nextRun with
            | none => s
            | some (w, run) =>
              let h := ((l.wheels[w]?).map (·.next)).getD 0
              (s.setLoad id { l with
                pulls := tabInsert l.pulls l.nextPull ⟨w, h, run.headD 0, run, false, s.now⟩
                nextPull := l.nextPull + 1 }).pumpPulls id k

/-- Whether a piece is being read from the host. -/
def State.readingPiece (s : State) (id w off : Nat) : Bool := s.host.reads.any (fun r => r.2.use == .weights id w off (match r.2.use with | .weights _ _ _ n => n | _ => 0))

/-- The first piece of an own wheel that the host has not been asked for. -/
def State.nextHostPiece (s : State) (id : Nat) (l : Load) : Option (Nat × Nat × Wheel) :=
  (l.wheels.zipIdx.filter (fun x => l.owns x.1 && !x.1.held)).findSome? (fun x =>
    ((List.range (pieceCount x.1)).find? (fun p => !x.1.got.contains p && !s.readingPiece id x.2 (2048 * p))).map (fun p => (x.2, p, x.1)))

/-- Read pieces from the host while staging vats come (R357). -/
def State.pumpHost (s : State) (id fuel : Nat) : State :=
  match fuel with
  | 0 => s
  | k + 1 =>
    match s.load? id with
    | none => s
    | some l =>
      if l.phase ≠ .loading ∨ !s.ctxLive l.ctx then s
      else
        match s.nextHostPiece id l with
        | none => s
        | some (w, p, x) =>
          if !s.readRoom (pieceLen x p) then s
          else match s.askVat l.ctx 3 (pieceLen x p) (hostWheelTag id w p) with
          | (none, s) => s
          | (some _, s) => (s.hostRead l.ctx (l.hostAddr + x.offset + 2048 * p) (pieceLen x p) (.weights id w (2048 * p) (pieceLen x p))).pumpHost id k

/-- Let a load go on fetching. -/
def State.pumpLoad (s : State) (id : Nat) : State :=
  match s.load? id with
  | none => s
  | some l => if l.mode = 1 ∨ l.mode = 3 then s.pumpHost id 1024 else s.pumpPulls id (2 * l.pulls.length + 32)

/-- Bytes pass through a vat, which is then freed; a poisoned word read there faults the holder's context, and they go no further (R272). -/
def State.throughVat (s : State) (c : Nat) (h : VatHold) (bs : List Byte) (k : State → State) : State :=
  match (s.vatWritten h.vat 0 bs).vatPoisonAt h.vat bs.length with
  | (s, some f) => (s.freeVat h).fault c clsUncorr f
  | (s, none) => k (s.freeVat h)

/-- Return a load's vats and drop its requests for more. -/
def State.dropLoadVats (s : State) (id : Nat) : State :=
  let mine (t : VatTag) : Bool := (t.kind == 2 && t.a == id) || (t.kind == 3 && t.a == 2 * id + 1)
  let s := { s with
    vats := { s.vats with waiting := s.vats.waiting.filter (fun r => !mine r.tag) }
    host := { s.host with reads := s.host.reads.filter (fun r => match r.2.use with | .weights l _ _ _ => l != id | _ => true) } }
  (s.vats.held.filter (fun h => mine h.tag)).foldl (fun s h => s.freeVat h) s

/-! ### Completion (R355, R372) -/

/-- Bytes 0x08 to 0x17 of a weight record. -/
def whlBody (target held pulled : Nat) : List Byte := leBytes 4 target ++ leBytes 4 held ++ leBytes 8 pulled

def Load.heldOwn (l : Load) : Nat := (l.wheels.filter (fun w => l.owns w && w.held)).length

/-- Complete a load's descriptor; none for a torn-down context. -/
def State.loadRecord (s : State) (l : Load) (status : Nat) : State :=
  if s.ctxLive l.ctx then s.complete l.desc status (whlBody l.target l.heldOwn l.pulled) else s

/-- A load is complete: its epoch or adapter is Ready, the binding entries are written, then the counter and the record. -/
def State.loadDone (s : State) (id : Nat) : State :=
  match s.load? id with
  | none => s
  | some l =>
    let s := (s.dropLoadVats id).setLoad id { l with phase := .resident, pulls := [] }
    let s :=
      if l.kind = 0 then
        match s.epochIdx l.target with
        | some i => (s.setEpoch i { s.epochEntry i with st := 3 }).bindEpoch i
        | none => s
      else (s.setAdapter l.target { s.adapter l.target with st := 2 }).bindWrite l.ctx 1 l.target l.base 1 l.modelTag
    let s := if l.donePtr = 0 then s else s.bumpCounter 0x70 l.ctx l.donePtr
    s.loadRecord l 0

/-! ### Multicast by a seed (R360) -/

/-- Multicast every piece of every wheel along the row, then WHL_END. A poisoned word ends the seed's context (log 68). -/
def State.seedMcast (s : State) (l : Load) : State :=
  match s.fab.pos with
  | none => s
  | some (ch, r, c) =>
    let dst := mcastDst ch r 0
    let toWhom := rowOthers ch r c
    let step (s : State) (w p : Nat) (x : Wheel) : State :=
      if !s.ctxLive l.ctx then s
      else
        match s.readFor l.ctx (s.regionPieces l (x.offset + 2048 * p) (pieceLen x p)) with
        | (s, .bytes bs) =>
          let pkt := { s.whlPacket 0x52 dst l.ctx l.ctx l.manId [(0x18, 2, w), (0x1C, 4, p)] bs with mcast := true }
          (s.sendMcast pkt).count (offWhlCtr l.ctx 3) (bs.length * toWhom.length)
        | (s, .poisoned f) => s.fault l.ctx clsUncorr f
        | (s, .coreFailed) => s
    let s := l.wheels.zipIdx.foldl (fun s x => (List.range (pieceCount x.1)).foldl (fun s p => step s x.2 p x.1) s) s
    if s.ctxLive l.ctx then
      s.sendMcast { s.whlPacket 0x53 dst l.ctx l.ctx l.manId [(0x18, 4, l.wheels.length)] [] with mcast := true }
    else s

/-- Look whether a load has all it needs. -/
def State.checkLoad (s : State) (id : Nat) : State :=
  match s.load? id with
  | none => s
  | some l =>
    if l.phase = .loading ∧ l.wheels.all (fun w => w.held || !l.owns w) then
      let s := if l.mode = 3 then s.seedMcast l else s
      if s.ctxLive l.ctx then s.loadDone id else s
    else s

/-! ### Freeing (R364, R370) -/

/-- A load begins to fetch: the epoch or adapter is Loading. A MODE 2 load that holds WHL_END pulls at once; its idle time counts from acceptance or from the last WHL_MCAST (R362). -/
def State.startLoad (s : State) (id : Nat) : State :=
  ((s.modLoad id (fun l => { l with phase := .loading, lastWrite := s.now, pulling := l.mode == 0 || l.gotEnd })).pumpLoad id).checkLoad id

/-- Free an epoch entry: its region, share mappings and binding entries go, and a load that waits for the entry takes it (R364, R366) (log 67). -/
def State.freeEpoch (s : State) (i : Nat) : State :=
  let e := s.epochEntry i
  let s := e.named.foldl (fun s c => s.bindWrite c 0 e.epoch 0 0 0) s
  let s := { s with whl := { s.whl with loads := tabErase s.whl.loads e.load } }.setRegN (offEpochShare i) 0
  match e.draining.bind s.load? with
  | none => s.setEpoch i .free
  | some l =>
    let id := e.draining.getD 0
    if l.phase = .failed then
      if s.epochUsers l.target = 0 then { s with whl := { s.whl with loads := tabErase s.whl.loads id } }.setEpoch i .free
      else s.setEpoch i ⟨l.target, if s.ctxLive l.ctx then 2 else 4, l.ctx, false, id, none, []⟩
    else (s.setEpoch i ⟨l.target, 2, l.ctx, true, id, none, []⟩).startLoad id

/-- Free an adapter slot. -/
def State.freeAdapter (s : State) (a : Nat) : State :=
  let e := s.adapter a
  let s := s.bindWrite e.owner 1 a 0 0 0
  ({ s with whl := { s.whl with loads := tabErase s.whl.loads e.load } }).setAdapter a .free

/-- Free what has no reference left; while a boundary runs nothing is freed until it completes (log 70). -/
def State.freeWeights (s : State) : State :=
  if s.seq.boundary.isSome then s
  else
    let s := (List.range 4).foldl (fun s i =>
      if (s.epochEntry i).st ≠ 0 ∧ s.epochCount i = 0 then s.freeEpoch i else s) s
    s.whl.adapters.foldl (fun s a => if (s.adapter a.1).st ≠ 0 ∧ s.adapterCount a.1 = 0 then s.freeAdapter a.1 else s) s

/-- A load fails or is abandoned: its vats return, its load reference goes, and its entry is freed once nothing else refers to it. -/
def State.loadFail (s : State) (id status : Nat) : State :=
  match s.load? id with
  | none => s
  | some l =>
    let s := (s.dropLoadVats id).setLoad id { l with phase := .failed, pulls := [] }
    let s :=
      if l.kind = 0 then
        match (List.range 4).find? (fun i => (s.epochEntry i).load == id && (s.epochEntry i).st != 0) with
        | some i => s.setEpoch i { s.epochEntry i with loadRef := false }
        | none => s
      else s.setAdapter l.target { s.adapter l.target with loadRef := false }
    (s.loadRecord l status).freeWeights

/-! ### Writing pieces and checking digests (R354) -/

/-- A wheel is whole: its bytes, read back, are held or fetched again. A word that cannot be read back is a mismatch (log 69). -/
def State.checkWheel (s : State) (id w : Nat) : State :=
  match s.load? id with
  | none => s
  | some l =>
    match l.wheels[w]? with
    | none => s
    | some x =>
      if x.got.length < pieceCount x then s
      else
        let r := s.readRaw l.ctx (s.regionPieces l x.offset x.bytes)
        let s := r.1
        let ok := match r.2 with | .bytes bs => sha256 bs == x.digest | _ => false
        if ok then (s.modWheel id w (fun x => { x with held := true })).checkLoad id
        else
          let s := s.count (offWhlCtr l.ctx 5) 1
          if 3 ≤ x.attempt then s.loadFail id 0x51
          else
            s.modWheel id w (fun x => { x with got := [], attempt := x.attempt + 1, refetch := l.mode == 2, refused := [], next := if l.holders.isEmpty then 0 else (x.next + 1) % l.holders.length })

/-- Write a piece that is missing into the region; `src` says which counter counts it (0 host, 1 pulled, 2 multicast). -/
def State.writePiece (s : State) (id w p src : Nat) (bs : List Byte) : State :=
  match s.load? id with
  | none => s
  | some l =>
    match l.wheels[w]? with
    | none => s
    | some x =>
      let s := s.writeFor l.ctx (s.regionPieces l (x.offset + 2048 * p) bs.length) bs
      let s := s.count (offWhlCtr l.ctx src) bs.length
      let s := s.modLoad id (fun l => { l with lastWrite := s.now, pulled := if src = 1 then l.pulled + bs.length else l.pulled })
      (s.modWheel id w (fun x => { x with got := setAdd x.got p })).checkWheel id w

/-- Whether piece p of wheel w is wanted: the load fetches, the wheel is its own and not held, and the piece has its length and is missing. -/
def Load.wants (l : Load) (w p len : Nat) : Bool :=
  l.phase == .loading &&
  match l.wheels[w]? with
  | some x => l.owns x && !x.held && p < pieceCount x && len == pieceLen x p && !x.got.contains p
  | none => false

/-- The loads of a context with a manifest id in one of some phases. -/
def State.loadsFor (s : State) (c man : Nat) (ok : Load → Bool) : List (Nat × Load) :=
  s.whl.loads.filter (fun l => l.2.ctx == c && l.2.manId == man && ok l.2)

/-- The first load of a context with a manifest id in one of some phases. -/
def State.loadFor (s : State) (c man : Nat) (ok : Load → Bool) : Option (Nat × Load) :=
  s.whl.loads.find? (fun l => l.2.ctx == c && l.2.manId == man && ok l.2)

/-! ### Manifests (R352, R353) -/

/-- No range of a list meets a later one. -/
def noOverlap (l : List (Nat × Nat)) : Bool :=
  match l with
  | [] => true
  | a :: r => r.all (fun b => !rangesMeet a.1 a.2 b.1 b.2) && noOverlap r

/-- The wheels of a manifest. -/
def manWheels (m : List Byte) (n : Nat) : List Wheel :=
  (List.range n).map (fun w =>
    let e := (m.drop (64 + 64 * w)).take 64
    ⟨fieldN e 0 2, fieldN e 8 8, fieldN e 0x10 8, e.drop 0x20, [], false, 0, [], 0, none, false⟩)

/-- The format and ranges of Tables 13.1 and 13.2. -/
def manOk (m : List Byte) : Bool :=
  let n := fieldN m 4 4
  let bytes := fieldN m 8 8
  let ws := manWheels m n
  fieldN m 0 2 == 1 && fieldN m 2 1 ≤ 1 && fieldN m 3 1 < 4 && 1 ≤ n && n ≤ 65535 && 1 ≤ bytes && bytes ≤ 2 ^ 40 && fieldZero m 0x14 4 &&
  fieldZero m 0x20 32 && ((List.range n).all (fun w =>
    let e := (m.drop (64 + 64 * w)).take 64
    fieldZero e 2 6 && fieldZero e 0x18 8)) &&
  ws.all (fun w => w.offset % 64 == 0 && 1 ≤ w.bytes && w.bytes ≤ 2 ^ 36 && w.offset + w.bytes ≤ bytes) &&
  noOverlap (ws.map (fun w => (w.offset, w.bytes)))

/-- Whether a manifest verifies under the context's key (R353). -/
def State.manVerifies (s : State) (c : Nat) (m : List Byte) : Bool :=
  let k := tabGet [] s.sec.rind.ctxKeys (8 * c + fieldN m 3 1)
  let n := m.length - 64
  manOk m && ecdsaVerify k (m.take n) (m.drop n)

/-- What the check of a manifest reads in the rind, and its scratch. -/
def State.manReads (s : State) (c : Nat) (m : List Byte) : State :=
  if tabHas s.sec.rind.ctxKeys (8 * c + fieldN m 3 1) then (s.readCtxKey c (fieldN m 3 1)).rindScratch m else s

/-! ### WHL.LOAD (R355 to R357, R363, R366, R368) -/

/-- The entries of a member or holder table (R233). -/
def memberEntries (bs : List Byte) (n : Nat) : List (Nat × Nat) :=
  (List.range n).map (fun i => let v := fieldN bs (4 * i) 4; (v % 2 ^ 15, v / 2 ^ 15 % 64))

/-- The range of the context's adapter slots (R368). -/
def State.adapterIn (s : State) (c a : Nat) : Bool := s.regN (offAdpBase c) ≤ a && a < s.regN (offAdpBase c) + s.regN (offAdpCount c)

def isNative (a : Nat) : Bool := match addrForm a with | .native .. => true | _ => false
def isFlat (a : Nat) : Bool := match addrForm a with | .native .. | .legacy .. => true | _ => false

/-- The fields of Table 13.3 that do not depend on the manifest's KIND. -/
def State.loadFields (s : State) (c : Nat) (b : List Byte) : Bool :=
  let lf := fieldN b 1 1
  let mode := lf % 4
  let h := fieldN b 0x0C 2
  let hp := fieldN b 0x20 8
  let done := fieldN b 0x30 8
  lf < 8 && (bitN lf 2 || fieldZero b 3 1) && fieldN b 0x0A 2 ≤ 65534 && h ≤ 64 && (mode != 0 || 1 ≤ h) && fieldN b 0x0E 2 ≤ 1000 &&
  fieldN b 0x10 8 % 64 == 0 && isNative (fieldN b 0x10 8) && fieldN b 0x18 8 % 65536 == 0 && isNative (fieldN b 0x18 8) &&
  (if h = 0 then hp == 0 else isFlat hp && s.packageAccess c hp (4 * h) false != .bad) &&
  (done == 0 || (done % 8 == 0 && isFlat done && s.packageAccess c done 8 true != .bad)) && fieldZero b 0x38 8

/-- The fields that depend on KIND (log 65). -/
def State.loadKindFields (s : State) (c kind : Nat) (b : List Byte) : Bool :=
  let e := fieldN b 2 1
  let a := fieldN b 8 2
  if kind = 0 then 1 ≤ e && a == 0 else e == 0 && a < 4096 && s.adapterIn c a && !bitN (fieldN b 1 1) 2

/-- The statuses that refuse a load for its target or region, in the order of Table 13.6. -/
def State.loadRefusal (s : State) (c kind : Nat) (b : List Byte) (base bytes : Nat) : Option Nat :=
  let drain := bitN (fieldN b 1 1) 2
  let e := fieldN b 2 1
  let old := fieldN b 3 1
  if kind = 0 && s.numberResident e then some 0x53
  else if kind = 0 && !drain && !s.whl.epochs.any (fun x => x.st == 0) then some 0x54
  else
    let size := ceilDiv bytes 65536 * 65536
    let regionOk : Bool :=
      if drain then
        match s.epochIdx old with
        | some i =>
          let x := s.epochEntry i
          x.owner == c && (x.st == 3 || x.st == 4) && x.draining.isNone && ((s.load? x.load).map (·.base)) == some base
        | none => false
      else !s.meetsWeights base size
    if !regionOk then some 0x55
    else if kind = 1 && (s.adapter (fieldN b 8 2)).st != 0 then some 0x56
    else none

/-- Accept a load: it takes its entry or slot, or waits for the old epoch's (R363, R366). -/
def State.acceptLoad (s : State) (d : DescRef) (b m : List Byte) (holders : List (Nat × Nat)) : State :=
  let c := d.fn
  let lf := fieldN b 1 1
  let mode := lf % 4
  let kind := fieldN m 2 1
  let target := if kind = 0 then fieldN b 2 1 else fieldN b 8 2
  let id := s.whl.nextLoad
  let my := fieldN b 0x0A 2
  let first := if holders.isEmpty then 0 else my % holders.length
  let idle := fieldN b 0x0E 2
  let s := s.accept d
  let l : Load := ⟨c, d, mode, kind, target, .waiting, fieldN (sha256 m) 0 8, BitVec.ofNat 32 (fieldN m 0x10 4), fieldN b 0x18 8, fieldN m 8 8,
    (manWheels m (fieldN m 4 4)).map (fun w => { w with next := first }), my, holders, fieldN b 0x28 8, fieldN b 0x30 8,
    if idle = 0 then 20 else idle, false, [], 0, s.now, s.now, false, 0⟩
  let s := { (s.setLoad id l) with whl := { (s.setLoad id l).whl with nextLoad := id + 1 } }
  if kind = 1 then (s.setAdapter target ⟨1, c, true, id⟩).startLoad id
  else if bitN lf 2 then
    let old := fieldN b 3 1
    match s.epochIdx old with
    | none => s
    | some i =>
      let s := s.setEpoch i { s.epochEntry i with st := 4, loadRef := false, draining := some id }
      let s := s.bindEpoch i
      let s := { s with whl := { s.whl with admission := (s.whl.admission.map (fun (a : Nat × Nat) => if a.2 = old then (a.1, target) else a)).filter (fun a => a.2 != 0) } }
      s.freeWeights
  else
    match (List.range 4).find? (fun i => (s.epochEntry i).st == 0) with
    | none => s
    | some i => (s.setEpoch i ⟨target, 2, c, true, id, none, []⟩).startLoad id

/-- Go on with a load's target, region and holders once its manifest has verified. -/
def State.loadChecked (s : State) (d : DescRef) (b m : List Byte) : State :=
  let c := d.fn
  let kind := fieldN m 2 1
  let base := fieldN b 0x18 8
  let bytes := fieldN m 8 8
  let size := ceilDiv bytes 65536 * 65536
  match s.ctx? c with
  | none => s
  | some x =>
    if !mapAllows x.map (fun _ => true) base size || (s.flatPieces base size).isNone then s.descBad d
    else
      match s.loadRefusal c kind b base bytes with
      | some st => s.finish d st (whlBody (if kind = 0 then fieldN b 2 1 else fieldN b 8 2) 0 0)
      | none =>
        let h := fieldN b 0x0C 2
        match s.packageAccess c (fieldN b 0x20 8) (4 * h) false with
        | .pieces l =>
          match s.readFor c l with
          | (s, .bytes bs) =>
            s.acceptLoad d b m (memberEntries bs h)
          | (s, .poisoned f) => s.descFault d clsUncorr f
          | (s, .coreFailed) => s
        | _ => s.acceptLoad d b m []

/-- Read n bytes of a context's memory for a descriptor; unmapped memory and poison fault it. -/
def State.descRead (s : State) (d : DescRef) (a n : Nat) (k : State → List Byte → State) : State :=
  match s.packageAccess d.fn a n false with
  | .pieces l =>
    match s.readFor d.fn l with
    | (s, .bytes bs) => k s bs
    | (s, .poisoned f) => s.descFault d clsUncorr f
    | (s, .coreFailed) => s
  | _ => s.descBad d

/-- WHL.LOAD: fields, rind, manifest, then target and region; an accepted load begins to fetch its own wheels. -/
def execWhlLoad (fn : Fn) (ring : Ring) (s : State) : Host.Outcome State Fault Refusal :=
  .next (s.onDesc fn ring 0x70 (fun s d b =>
    let c := d.fn
    if !s.loadFields c b then s.descBad d
    else
      let man := fieldN b 0x10 8
      s.descRead d man 64 (fun s head =>
        let kind := fieldN head 2 1
        let n := fieldN head 4 4
        let target := if kind = 1 then fieldN b 8 2 else fieldN b 2 1
        if kind ≤ 1 && !s.loadKindFields c kind b then s.descBad d
        else if s.sec.rindWiped || s.sec.rindBusy then s.finish d 0x58 (whlBody target 0 0)
        else if n = 0 ∨ 65535 < n then s.finish d 0x50 (whlBody target 0 0)
        else s.descRead d man (128 + 64 * n) (fun s m =>
          let s := s.manReads c m
          if s.manVerifies c m then s.loadChecked d b m else s.finish d 0x50 (whlBody target 0 0)))))

/-! ### EPOCH.DECLARE and WEIGHT.RELEASE (R365, R366, R370) -/

/-- EPOCH.DECLARE: while a boundary of the context runs it waits (R203). -/
def execEpochDeclare (fn : Fn) (ring : Ring) (s : State) : Host.Outcome State Fault Refusal :=
  .next (s.onDesc fn ring 0x71 (fun s d b =>
    let c := d.fn
    let n := fieldN b 2 1
    if !(fieldZero b 1 1 && fieldZero b 3 1 && fieldZero b 8 56) then s.descBad d
    else if s.seq.boundary = some c then s
    else
      let set (s : State) : State :=
        ({ s with whl := { s.whl with admission := tabSet 0 s.whl.admission c n } }.freeWeights).finish d 0 (whlBody n 0 0)
      if n = 0 then set s
      else
        match s.epochIdx n with
        | none => s.finish d 0x05 (whlBody n 0 0)
        | some i =>
          let e := s.epochEntry i
          if e.st = 3 ∧ (e.owner = c ∨ bitN (s.shareAtFetch d i) c) then
            set (s.bindFor i c)
          else s.finish d 0x05 (whlBody n 0 0)))

/-- Drop an epoch's load reference. -/
def State.releaseEpoch (s : State) (i : Nat) : State :=
  let e := s.epochEntry i
  if e.st = 3 then ((s.setEpoch i { e with st := 4, loadRef := false }).bindEpoch i).freeWeights
  else if e.st = 2 ∧ e.loadRef then s.loadFail e.load 0x59
  else s

/-- WEIGHT.RELEASE by the owner: of an epoch or an adapter; a load in progress, or one that waits for its entry, is abandoned (log 66). -/
def execWeightRelease (fn : Fn) (ring : Ring) (s : State) : Host.Outcome State Fault Refusal :=
  .next (s.onDesc fn ring 0x72 (fun s d b =>
    let c := d.fn
    let kind := fieldN b 1 1
    let n := fieldN b 2 1
    let a := fieldN b 8 2
    if !(kind ≤ 1 && fieldZero b 3 1 && a < 4096 && fieldZero b 0x0A 54) then s.descBad d
    else if kind = 0 then
      let s' := s.accept d
      match s.epochIdx n, s.whl.loads.find? (fun l => l.2.kind == 0 && l.2.target == n && l.2.phase == .waiting) with
      | some i, _ =>
        if (s.epochEntry i).owner = c then (s'.releaseEpoch i).complete d 0 (whlBody n 0 0) else s'.complete d 0x57 (whlBody n 0 0)
      | none, some (id, l) =>
        if l.ctx = c then (s'.loadFail id 0x59).complete d 0 (whlBody n 0 0) else s'.complete d 0x57 (whlBody n 0 0)
      | none, none => s'.complete d 0x57 (whlBody n 0 0)
    else
      let s' := s.accept d
      let e := s.adapter a
      if e.st = 0 ∨ e.owner ≠ c then s'.complete d 0x57 (whlBody a 0 0)
      else
        let s' := if e.st = 1 ∧ e.loadRef then (s'.setAdapter a { e with st := 3 }).loadFail e.load 0x59
          else if e.st = 2 then ((s'.setAdapter a { e with st := 3, loadRef := false }).bindWrite c 1 a (((s.load? e.load).map (·.base)).getD 0) 2
            (((s.load? e.load).map (·.modelTag)).getD 0)).freeWeights
          else s'
        s'.complete d 0 (whlBody a 0 0)))

/-! ### Serving pulls (R359) -/

def whlManifest (p : Packet) : Nat := pktOp p 0x10 8
def whlWheel (p : Packet) : Nat := pktOp p 0x18 2
def whlPiece (p : Packet) : Nat := pktOp p 0x1C 4

/-- Read some pieces of a wheel for a peer; none when a word is poisoned. -/
def State.readPiecesOf (s : State) (l : Load) (x : Wheel) (ps : List Nat) : State × Option (List (Nat × List Byte)) :=
  match ps with
  | [] => (s, some [])
  | p :: r =>
    match s.readFor l.ctx (s.regionPieces l (x.offset + 2048 * p) (pieceLen x p)) with
    | (s, .bytes bs) =>
      match s.readPiecesOf l x r with
      | (s, some rest) => (s, some ((p, bs) :: rest))
      | y => y
    | (s, _) => (s, none)

/-- WHL_PULL: a holder sends the pieces, or a NACK with the reason. -/
def execWhlPull (s : State) : Host.Outcome State Fault Refusal :=
  .next (s.unlessTripped fun s => match s.takeInbox 0x50 with
    | none => s
    | some (p, s) =>
      let c := p.dctx.toNat
      let g := p.src.toNat
      let back := p.sctx.toNat
      let nack (s : State) (why : Nat) : State :=
        s.sendSeq (s.whlPacket 0x54 g c back (whlManifest p) [(0x18, 2, whlWheel p), (0x1A, 1, why), (0x1C, 4, whlPiece p)] []) none
      let up (l : Load) : Bool := l.phase == .loading || l.phase == .resident
      match s.loadFor c (whlManifest p) up, s.loadFor c (whlManifest p) (fun l => up l && (l.wheels[whlWheel p]?).any (·.held)) with
      | none, _ => nack s 1
      | some _, none => nack s 0
      | some _, some (_, l) =>
        match l.wheels[whlWheel p]? with
        | none => nack s 0
        | some x =>
          if s.peerCtx c g ≠ some back then nack s 2
          else
            let ps := ((List.range (pktOp p 0x1A 2)).map (whlPiece p + ·)).filter (· < pieceCount x)
            match s.readPiecesOf l x ps with
            | (s, none) => nack s 3
            | (s, some ds) => ds.foldl (fun s d =>
                (s.sendSeq (s.whlPacket 0x51 g c back (whlManifest p) [(0x18, 2, whlWheel p), (0x1C, 4, d.1)] d.2) none).count (offWhlCtr c 3) d.2.length) s)

/-! ### What comes back to a puller (R358) -/

/-- A pulled piece passes through its vat, which is then freed. -/
def State.passPullVat (s : State) (c id w p : Nat) (bs : List Byte) (k : State → State) : State :=
  match s.vatFor c 2 (wheelTag id w p) with
  | some h => s.throughVat c h bs k
  | none => k (s.dropRequest c 2 (wheelTag id w p))

/-- A pulled piece has come for a load: it is written if it is missing, and a pull that names it expects it no longer. -/
def State.landData (s : State) (id w n : Nat) (bs : List Byte) : State :=
  match s.load? id with
  | none => s
  | some l =>
    let pulls := (l.pulls.map (fun q => if q.2.wheel = w ∧ q.2.pieces.contains n then (q.1, { q.2 with pieces := setDel q.2.pieces n, last := s.now }) else q)).filter
      (fun q => !q.2.pieces.isEmpty)
    (s.setLoad id { l with pulls := pulls }).passPullVat l.ctx id w n bs (fun s => (if l.wants w n bs.length then s.writePiece id w n 1 bs else s).pumpLoad id)

/-- WHL_DATA: a piece that is missing is written, and one that has come another way is discarded; every load of the manifest in the context takes it. -/
def execWhlData (s : State) : Host.Outcome State Fault Refusal :=
  .next (s.unlessTripped fun s => match s.takeInbox 0x51 with
    | none => s
    | some (p, s) =>
      let c := p.dctx.toNat
      let w := whlWheel p
      let n := whlPiece p
      let takes (l : Load) : Bool := l.phase == .loading && (l.wants w n p.payload.length || l.pulls.any (fun q => q.2.wheel == w && q.2.pieces.contains n))
      (s.loadsFor c (whlManifest p) takes).foldl (fun s e => s.landData e.1 w n p.payload) s)

/-- A pull's holder has refused or not answered: its remaining pieces go to the next entry, or, when every entry has refused the wheel in this round, the load
waits for a new one. -/
def State.movePull (s : State) (id pid : Nat) (l : Load) (q : Pull) : State :=
  match l.wheels[q.wheel]? with
  | none => s
  | some x =>
    let refused := setAdd x.refused q.holder
    if l.holders.length ≤ refused.length then
      (s.setLoad id { l with pulls := tabErase l.pulls pid }).modWheel id q.wheel (fun x => { x with refused := refused, roundAt := some (x.roundAt.getD s.now) })
    else
      let h := (q.holder + 1) % l.holders.length
      let q := { q with holder := h, sent := false, first := q.pieces.headD q.first }
      ((s.setLoad id { l with pulls := tabInsert l.pulls pid q }).modWheel id q.wheel (fun x => { x with refused := refused, next := h })).pumpLoad id

/-- WHL_NACK. -/
def execWhlNack (s : State) : Host.Outcome State Fault Refusal :=
  .next (s.unlessTripped fun s => match s.takeInbox 0x54 with
    | none => s
    | some (p, s) =>
      let c := p.dctx.toNat
      let s := s.count (offWhlCtr c 6) 1
      let hit (e : Nat × Load) : Option (Nat × Load × Nat × Pull) :=
        (e.2.pulls.find? (fun q => q.2.sent && q.2.wheel == whlWheel p && q.2.first == whlPiece p && (e.2.holders[q.2.holder]?.map (·.1)) == some p.src.toNat)).map
          (fun x => (e.1, e.2, x))
      match (s.loadsFor c (whlManifest p) (fun l => l.phase == .loading)).findSome? hit with
      | none => s
      | some (id, l, pid, q) => s.movePull id pid l q)

/-- PULL_TIMEOUT: no WHL_DATA of a pull for 10 ms. -/
def execPullTimeout (load pull : Nat) (s : State) : Host.Outcome State Fault Refusal :=
  .next (s.unlessTripped fun s => match s.load? load with
    | none => s
    | some l =>
      match tabFind l.pulls pull with
      | none => s
      | some q => if q.sent ∧ 10000000 ≤ s.now - q.last then s.movePull load pull l q else s)

/-- PULL_ROUND_WAIT: 1 ms after every entry refused a wheel a new round starts at the first entry. -/
def execPullRoundWait (load wheel : Nat) (s : State) : Host.Outcome State Fault Refusal :=
  .next (s.unlessTripped fun s => match s.load? load with
    | none => s
    | some l =>
      match (l.wheels[wheel]?).bind (·.roundAt) with
      | none => s
      | some t =>
        if 1000000 ≤ s.now - t then
          (s.modWheel load wheel (fun x => { x with refused := [], roundAt := none, next := if l.holders.isEmpty then 0 else l.myPart % l.holders.length })).pumpLoad load
        else s)

/-! ### Multicast received (R361, R362) -/

/-- Whether a package of this row other than this one sent a packet: it may be the seed. -/
def State.fromRow (s : State) (g : Nat) : Bool :=
  match s.fab.pos with
  | some (ch, r, _) => g / 8 == 8 * ch + r && !s.isSelf g
  | none => false

/-- Forward a seed's packet along this package's column, when a MODE 2 load of its context stands here: whether the packet may go on, and the state. -/
def State.relay (s : State) (p : Packet) : Bool × State :=
  let c := p.dctx.toNat
  match s.fab.pos, s.loadFor c (whlManifest p) (fun l => l.mode == 2 && l.phase != .failed) with
  | some (ch, r, col), some (lid, _) =>
    if !s.fromRow p.src.toNat then (true, s)
    else
      let tag : VatTag := ⟨2, lid, whlWheel p, whlPiece p + 2 ^ 32⟩
      match s.askVat c 2 2048 tag with
      | (none, s) => (false, s)
      | (some h, s) =>
        let dst := BitVec.ofNat 15 (mcastDst ch col 1)
        let q := { p with src := BitVec.ofNat 15 s.self, dst := dst, final := dst, mcast := true, retx := false, phase := 0, vc := 4, seq := 0, srcBoot := s.boot16 }
        let toWhom := columnOthers ch r col
        (true, s.throughVat c h p.payload (fun s => (s.sendMcast q).count (offWhlCtr c 4) (p.payload.length * toWhom.length)))
  | _, _ => (true, s)

/-- A multicast piece has come for a MODE 2 load: its idle time starts again, and the piece is written if it is missing. A load that waits for its entry cannot write it (log 119). -/
def State.landMcast (s : State) (id w n : Nat) (bs : List Byte) : State :=
  let s := s.modLoad id (fun l => { l with lastMcast := s.now })
  match s.load? id with
  | some l => if l.wants w n bs.length then (s.writePiece id w n 2 bs).pumpLoad id else s
  | none => s

/-- WHL_MCAST: relayed first, then written if a load wants the piece; with no load of the manifest that can take it it is discarded and counted. -/
def execWhlMcast (s : State) : Host.Outcome State Fault Refusal :=
  .next (s.unlessTripped fun s => match s.peekInbox 0x52 with
    | none => s
    | some p =>
      match s.relay p with
      | (false, s) => s
      | (true, s) =>
        let s := s.setInbox (s.fab.inbox.erase p)
        let c := p.dctx.toNat
        let ls := s.loadsFor c (whlManifest p) (fun l => l.mode == 2 && l.phase != .failed)
        let s := if ls.all (fun e => e.2.phase == .waiting) then s.count offMcastDrop 1 else s
        ls.foldl (fun s e => s.landMcast e.1 (whlWheel p) (whlPiece p) p.payload) s)

/-- WHL_END: relayed first, and behind every piece of its stream; a load of the manifest pulls what it still misses, one that waits for its entry when it begins. -/
def execWhlEnd (s : State) : Host.Outcome State Fault Refusal :=
  .next (s.unlessTripped fun s => match s.peekBehind 0x53 0x52 with
    | none => s
    | some p =>
      match s.relay p with
      | (false, s) => s
      | (true, s) =>
        let s := s.setInbox (s.fab.inbox.erase p)
        (s.loadsFor p.dctx.toNat (whlManifest p) (fun l => l.mode == 2 && (l.phase == .loading || l.phase == .waiting))).foldl (fun (s : State) e =>
          (s.modLoad e.1 (fun l => { l with gotEnd := true, pulling := l.phase == .loading })).pumpLoad e.1) s)

/-- MCAST_IDLE: the idle time has passed without a WHL_MCAST of the manifest. -/
def execMcastIdle (load : Nat) (s : State) : Host.Outcome State Fault Refusal :=
  .next (s.unlessTripped fun s => match s.load? load with
    | none => s
    | some l =>
      if l.mode = 2 ∧ l.phase = .loading ∧ !l.pulling ∧ l.idleMs * 1000000 ≤ s.now - l.lastMcast then
        (s.modLoad load (fun l => { l with pulling := true })).pumpLoad load
      else s)

/-- WHL_WATCHDOG: no piece written for the watchdog time fails a load that is not Pending. -/
def execWhlWatchdog (load : Nat) (s : State) : Host.Outcome State Fault Refusal :=
  .next (s.unlessTripped fun s => match s.load? load with
    | none => s
    | some l => if l.phase = .loading ∧ s.regN offWhlWatchdog * 1000000 ≤ s.now - l.lastWrite then s.loadFail load 0x52 else s)

/-- A piece read from the host has come, or its read has failed (the piece is then read again, log 29). -/
def State.landHostPiece (s : State) (id w off : Nat) (bs : Option (List Byte)) : State :=
  match s.load? id with
  | none => s
  | some l =>
    let p := off / 2048
    let go (s : State) : State :=
      match bs with
      | some bs =>
        let s := s.acctHost l.ctx bs.length
        (if l.wants w p bs.length then s.writePiece id w p 0 bs else s).pumpLoad id
      | none => s.pumpLoad id
    match s.vatFor l.ctx 3 (hostWheelTag id w p), bs with
    | some h, some b => s.throughVat l.ctx h b go
    | some h, none => go (s.freeVat h)
    | none, _ => go s

/-! ### Teardown (R371) -/

/-- A torn-down context's loads are abandoned, its load and admission references dropped, its epochs Retiring and its adapters Unloading. -/
def State.dropWeights (s : State) (c : Nat) : State :=
  let s := { s with whl := { s.whl with admission := tabErase s.whl.admission c } }
  let s := (s.whl.loads.filter (fun l => l.2.ctx == c && (l.2.phase == .loading || l.2.phase == .waiting))).foldl (fun s l => s.loadFail l.1 0x59) s
  let s := (List.range 4).foldl (fun s i =>
    let e := s.epochEntry i
    if e.st ≠ 0 ∧ e.owner = c then (s.setEpoch i { e with st := 4, loadRef := false }).bindEpoch i else s) s
  let s := s.whl.adapters.foldl (fun s a => if a.2.owner = c ∧ a.2.st ≠ 0 then s.setAdapter a.1 { s.adapter a.1 with st := 3, loadRef := false } else s) s
  s.freeWeights

/-- The binding table of a context that has ended is written no longer. -/
def State.dropBindings (s : State) (c : Nat) : State :=
  (List.range 4).foldl (fun s i => let e := s.epochEntry i; if e.named.contains c then s.setEpoch i { e with named := setDel e.named c } else s) s

end Sys2Proof.Machine
end

