-- ==== Sys2Proof/Machine/Sequences.lean ====
section
/-!
DEFINITION. Sequences and continuous batching (spec/07_sequences.md): sequence descriptors (R213 to R217), the step boundary and its five phases (R203 to
R208, R182), rebinding (R209), records (R210, R218), launches and the end of a step (R217, R124, R139), and the retire-only boundary of a teardown (R211).
-/
namespace Sys2Proof.Machine

/-! ### Slots -/

def State.seqCtx (s : State) (c : Nat) : SeqCtx := tabGet SeqCtx.reset s.seq.ctxs c
def State.setSeqCtx (s : State) (c : Nat) (x : SeqCtx) : State := { s with seq := { s.seq with ctxs := tabSet SeqCtx.reset s.seq.ctxs c x } }
def State.modSlot (s : State) (x : Nat) (f : Slot → Slot) : State := s.setSlot x (f (s.slot x))

/-- Whether a slot lies in a context's range (R199). -/
def State.slotIn (s : State) (c x : Nat) : Bool := s.regN (offSlotBase c) ≤ x && x < s.regN (offSlotBase c) + s.regN (offSlotCount c)

/-- The slots of a context that are not Free, ascending. -/
def State.slotsFor (s : State) (c : Nat) : List Nat := (s.seq.slots.filter (fun e => e.2.ctx == c && e.2.st != 0)).map (·.1)

/-- Its Running slots. -/
def State.running (s : State) (c : Nat) : List Nat := (s.slotsFor c).filter (fun x => (s.slot x).st == 2)

/-- Pages a context owns (R200). -/
def State.ownedPages (s : State) (c : Nat) : Nat := ((s.slotsFor c).map (fun x => (s.slot x).chain.length)).foldl (· + ·) 0

/-- pages(n) of R201. -/
def Slot.pages (v : Slot) (n : Nat) : Nat := ceilDiv n (max 1 v.tp) * v.group

def maxPages : Nat := 1048576

/-- Whether n pages can be taken (R200). -/
def State.canTake (s : State) (c n : Nat) : Bool := n ≤ s.freePages && s.ownedPages c + n ≤ s.regN (offPageQuota c)

/-- A slot's record as eight words (Table 7.1). -/
def Slot.record (v : Slot) : Nat :=
  if v = .free then 0
  else
    v.st + v.leave.toNat * 2 ^ 3 + v.keep.toNat * 2 ^ 4 + v.inQueue.toNat * 2 ^ 5 + v.suspReq.toNat * 2 ^ 6 + v.ctx * 2 ^ 8 + v.epoch * 2 ^ 16 +
    v.adapterEn.toNat * 2 ^ 24 + v.adapter * 2 ^ 25 + v.chain.headD 0 * 2 ^ 40 + v.length % 2 ^ 32 * 2 ^ 64 + v.maxLen * 2 ^ 96 +
    v.chain.getLastD 0 * 2 ^ 128 + v.chain.length * 2 ^ 152 + v.placeDiv * 2 ^ 176 + v.tp * 2 ^ 192 + v.advance * 2 ^ 208 + v.group * 2 ^ 224 +
    v.admitSeq * 2 ^ 256 + v.queuedAt * 2 ^ 320 + v.tag.toNat * 2 ^ 384 + v.suspensions * 2 ^ 416

/-! ### Records (R218) -/

/-- Statuses of Table 7.9. -/
def sqOk : Nat := 0
def sqBusy : Nat := 1
def sqCancelled : Nat := 2
def sqNotActive : Nat := 3
def sqNoAdapter : Nat := 4
def sqNoEpoch : Nat := 5
def sqTrapped : Nat := 6
def sqRetired : Nat := 0x10
def sqStopped : Nat := 0x11
def sqLengthDone : Nat := 0x12
def sqStateLimit : Nat := 0x13
def sqKept : Nat := 0x20
def sqReleased : Nat := 0x21

/-- A sequence record (Table 7.8). -/
def State.seqRecord (s : State) (op status slot tag step length pages : Nat) : List Byte :=
  leBytes 1 op ++ leBytes 1 status ++ leBytes 2 slot ++ leBytes 4 tag ++ leBytes 4 step ++ leBytes 4 length ++ leBytes 4 pages ++ zeroBytes 4 ++ leBytes 8 s.now

/-- Complete a sequence descriptor. -/
def State.seqComplete (s : State) (d : DescRef) (status slot step length pages : Nat) : State :=
  let r := s.ring d.fn d.ring
  let s := s.setRing d.fn d.ring { r with open_ := r.open_ - 1 }
  s.postRecord d.fn d.ring (s.seqRecord d.op.toNat status slot d.tag.toNat step length pages)

/-- Accept a sequence descriptor that completes at once; no step number applies. Its record is posted between boundaries of its context (R210). -/
def State.seqFinishAs (s : State) (d : DescRef) (status x : Nat) (v : Slot) : State :=
  let s := s.accept d
  if s.seq.boundary = some d.fn then
    let q := s.seqCtx d.fn
    s.setSeqCtx d.fn { q with owed := q.owed ++ [⟨d, status, x, v.length, v.chain.length⟩] }
  else s.seqComplete d status x 0 v.length v.chain.length

def State.seqFinish (s : State) (d : DescRef) (status x : Nat) : State := s.seqFinishAs d status x (s.slot x)

/-- Post the records that have waited for the end of a context's boundary, in acceptance order. -/
def State.postOwed (s : State) (c : Nat) : State :=
  let q := s.seqCtx c
  q.owed.foldl (fun s r => if s.ctxLive c then s.seqComplete r.desc r.status r.slot 0 r.length r.pages else s) (s.setSeqCtx c { q with owed := [] })

/-- A descriptor whose outcome another descriptor's record reports: it is open no longer (log 130). -/
def State.closeQuietly (s : State) (d : DescRef) : State :=
  let r := s.ring d.fn d.ring
  s.setRing d.fn d.ring { r with open_ := r.open_ - 1 }

/-- A record to be posted at a boundary: the descriptor it completes, or none for a device event about the slot. -/
structure SeqRec where
  slot   : Nat
  desc   : Option DescRef
  status : Nat
  ring   : Nat
  tag    : W32
  length : Nat
  pages  : Nat
deriving DecidableEq, Repr

/-- Post a boundary's record of context c. -/
def State.postSeq (s : State) (c step : Nat) (r : SeqRec) : State :=
  match r.desc with
  | some d => s.seqComplete d r.status r.slot step r.length r.pages
  | none => s.postRecord c r.ring (s.seqRecord 0x4F r.status r.slot r.tag.toNat step r.length r.pages)

/-! ### Acceptance (R213 to R217) -/

/-! A sequence descriptor is accepted whether or not a boundary of its context runs: the boundary has read what it uses, so what the descriptor sets takes effect at the next
one (R203). -/

/-- The fields of a SEQ.ADMIT without RESUME (Table 7.5). ADAPTER may be other than 0 with ADAPTER_EN clear (log 130). -/
def admitFields (b : List Byte) : Bool :=
  fieldN b 1 1 < 8 && fieldZero b 2 2 && fieldN b 0x0A 2 < 4096 && 1 ≤ fieldN b 0x0E 2 && 1 ≤ fieldN b 0x10 2 && 1 ≤ fieldN b 0x12 2 &&
  fieldN b 0x14 4 ≤ fieldN b 0x18 4 && 1 ≤ fieldN b 0x18 4 && fieldZero b 0x1C 36

/-- The fields of a SEQ.ADMIT with RESUME, but for INIT_LEN. -/
def resumeFields (b : List Byte) : Bool := fieldN b 1 1 == 1 && fieldZero b 2 2 && fieldZero b 0x0A 10 && fieldZero b 0x18 4 && fieldZero b 0x1C 36

/-- A new join (R214). -/
def State.admitNew (s : State) (d : DescRef) (b : List Byte) (x : Nat) : State :=
  let c := d.fn
  if (s.slot x).st ≠ 0 then s.seqFinish d sqBusy x
  else
    let f := fieldN b 1 1
    let v : Slot := { Slot.free with
      st := 1
      keep := bitN f 1
      inQueue := true
      ctx := c
      adapterEn := bitN f 2
      adapter := fieldN b 0x0A 2
      advance := fieldN b 0x0C 2
      group := fieldN b 0x0E 2
      tp := fieldN b 0x10 2
      placeDiv := fieldN b 0x12 2
      maxLen := fieldN b 0x18 4
      queuedAt := s.now
      tag := d.tag
      ring := d.ring }
    let s := (s.accept d).setSlot x v
    let q := s.seqCtx c
    s.setSeqCtx c { q with queue := q.queue ++ [⟨x, d, false, fieldN b 0x14 4⟩] }

/-- A resume (R214). A Suspended slot with no page released its pages. -/
def State.admitResume (s : State) (d : DescRef) (b : List Byte) (x : Nat) : State :=
  let c := d.fn
  let v := s.slot x
  let n := fieldN b 0x14 4
  if v.st ≠ 3 ∨ v.inQueue then s.seqFinish d sqNotActive x
  else if (if v.released then v.maxLen < n else n ≠ 0) then s.descBad d
  else
    let s := (s.accept d).setSlot x { v with inQueue := true, tag := d.tag, queuedAt := s.now, ring := d.ring }
    let q := s.seqCtx c
    s.setSeqCtx c { q with queue := q.queue ++ [⟨x, d, true, n⟩] }

/-- SEQ.ADMIT. -/
def execSeqAdmit (fn : Fn) (ring : Ring) (s : State) : Host.Outcome State Fault Refusal :=
  .next (s.onDesc fn ring 0x40 (fun s d b =>
    let x := fieldN b 8 2
    let resume := bitN (fieldN b 1 1) 0
    if !(if resume then resumeFields b else admitFields b) || 2 ^ 14 ≤ x || !s.slotIn d.fn x then s.descBad d
    else if resume then s.admitResume d b x
    else s.admitNew d b x))

/-- Take a slot's entry out of its context's join queue; its SEQ.ADMIT is open no longer. -/
def State.leaveQueue (s : State) (c x : Nat) : State :=
  let q := s.seqCtx c
  let gone := q.queue.filter (·.slot == x)
  gone.foldl (fun s e => s.closeQuietly e.desc) (s.setSeqCtx c { q with queue := q.queue.filter (·.slot != x) })

/-- SEQ.RETIRE (R215). -/
def execSeqRetire (fn : Fn) (ring : Ring) (s : State) : Host.Outcome State Fault Refusal :=
  .next (s.onDesc fn ring 0x41 (fun s d b =>
    let x := fieldN b 8 2
    let c := d.fn
    if !(fieldZero b 1 3 && fieldZero b 0x0A 54 && decide (x < 2 ^ 14) && s.slotIn c x) then s.descBad d
    else
      let v := s.slot x
      if v.st = 1 then ((s.leaveQueue c x).setSlot x .free).seqFinishAs d sqCancelled x v
      else if (v.st = 2 ∨ v.st = 3) ∧ !v.leave then ((s.leaveQueue c x).accept d).setSlot x { v with leave := true, inQueue := false, retire := some d }
      else s.seqFinish d sqNotActive x))

/-- SEQ.MODIFY (R216): taken at the next modify phase. A suspension it requests is pending from now on (Table 7.1, SUSP_REQ); the modify phase settles whether it
stands (log 10). -/
def execSeqModify (fn : Fn) (ring : Ring) (s : State) : Host.Outcome State Fault Refusal :=
  .next (s.onDesc fn ring 0x42 (fun s d b =>
    let x := fieldN b 8 2
    let c := d.fn
    if !(fieldN b 1 1 < 128 && fieldZero b 2 2 && fieldN b 0x0C 2 < 4096 && fieldZero b 0x0F 49 && decide (x < 2 ^ 14) && s.slotIn c x) then s.descBad d
    else
      let v := s.slot x
      if v.st = 2 ∨ v.st = 3 then
        let s := (s.accept d).setSlot x { v with suspReq := v.suspReq || bitN (fieldN b 1 1) 1 }
        let q := s.seqCtx c
        s.setSeqCtx c { q with modifies := q.modifies ++ [(d, b)] }
      else s.seqFinish d sqNotActive x))

/-- The address of the launch's descriptor copy in every launched cluster's store (R217). -/
def copyOff : Nat := 0x3FFFC0

/-- Bytes of the stop bitmap of a context. -/
def State.stopBytes (s : State) (c : Nat) : Nat := ceilDiv (s.regN (offSlotCount c)) 8

/-- The fields of a SEQ.STEP (Table 7.7). -/
def State.stepFields (s : State) (c : Nat) (b : List Byte) : Bool :=
  let entry := fieldN b 0x10 8
  let bp := fieldN b 0x18 8
  let sp := fieldN b 0x28 8
  let room := 16 * s.regN (offSlotCount c)
  let cl := fieldN b 0x0C 2
  fieldN b 1 1 < 2 && 1 ≤ cl && cl ≤ ((s.ctx? c).map (·.count)).getD 0 && fieldZero b 0x0E 2 && entry % 4 == 0 && (localPhys 0 entry 4).isSome &&
  bp % 16 == 0 && isFlat bp && s.packageAccess c bp room true != .bad && fieldZero b 0x20 8 &&
  (sp == 0 || (isFlat sp && s.packageAccess c sp (s.stopBytes c) true != .bad && s.packageAccess c sp (s.stopBytes c) false != .bad)) && fieldZero b 0x38 8

/-- SEQ.STEP: accepted in order; its boundary runs when it is due (R203). -/
def execSeqStep (fn : Fn) (ring : Ring) (s : State) : Host.Outcome State Fault Refusal :=
  .next (s.onDesc fn ring 0x43 (fun s d b =>
    let c := d.fn
    if !s.stepFields c b then s.descBad d
    else
      let s := s.accept d
      let q := s.seqCtx c
      let n := s.seq.nextOrder
      let s := { s with seq := { s.seq with nextOrder := n + 1 } }
      s.setSeqCtx c { q with steps := q.steps ++ [⟨d, b, n⟩] }))

/-! ### Phase 1: modify (R205, R209) -/

/-- Apply one SEQ.MODIFY whole, or refuse its rebind: its record. -/
def State.applyModify (s : State) (c step : Nat) (m : DescRef × List Byte) : State :=
  let b := m.2
  let f := fieldN b 1 1
  let x := fieldN b 8 2
  let v := s.slot x
  let e := fieldN b 0x0E 1
  let a := fieldN b 0x0C 2
  let epochBad := bitN f 4 && e != 0 && !((s.epochIdx e).any (fun i => (s.epochEntry i).st == 3))
  let adapterBad := bitN f 5 && bitN f 6 && (s.adapter a).st != 2
  let done (s : State) (status : Nat) : State :=
    let v := s.slot x
    if s.ctxLive c then s.seqComplete m.1 status x step v.length v.chain.length else s
  if epochBad then done s sqNoEpoch
  else if adapterBad then done s sqNoAdapter
  else
    let v := if bitN f 0 then { v with advance := fieldN b 0x0A 2 } else v
    let v := if bitN f 2 then { v with keep := bitN f 3 } else v
    let v := if bitN f 4 then { v with epoch := e, epochRef := e != 0 } else v
    let v := if bitN f 5 then { v with adapterEn := bitN f 6, adapter := if bitN f 6 then a else 0, adapterRef := bitN f 6 } else v
    let v := if bitN f 1 && v.st == 2 then { v with suspReq := true } else v
    done (s.setSlot x v) sqOk

/-! ### Leaving the batch (R205, R206) -/

/-- Retire a slot: it leaves the join queue if it was in it, its pages are freed and its references dropped; it is Retiring until the boundary ends. The record gives its values when the boundary
began, in `v0`. -/
def State.retireSlot (s : State) (x status : Nat) (v0 : Slot) : State × SeqRec :=
  let v := s.slot x
  let s := (s.leaveQueue v.ctx x).freeEntries v.chain
  (s.setSlot x { v with st := 4, chain := [], inQueue := false, suspReq := false, epochRef := false, adapterRef := false },
   ⟨x, if status = sqRetired then v.retire else none, status, v.ring, v.tag, v0.length, v0.chain.length⟩)

/-- Cut a chain to its first n entries: the rest are freed in chain order and the last kept links to itself. -/
def State.cutChain (s : State) (x : Nat) (chain : List Nat) (n : Nat) : List Nat × State :=
  let keep := chain.take n
  let s := s.freeEntries (chain.drop n)
  match keep.getLast? with
  | some t =>
    if n < chain.length then
      let w := s.ledgerWord t
      (keep, s.setLedgerWord t (ledgerMk (ledgerFrame w) (ledgerStack w) x t true))
    else (keep, s)
  | none => (keep, s)

/-- Suspend a Running slot under its KEEP policy. -/
def State.suspendSlot (s : State) (x : Nat) (v0 : Slot) : State × SeqRec :=
  let v := s.slot x
  let n := min (v.suspensions + 1) (2 ^ 32 - 1)
  if v.keep then
    let (ch, s) := s.cutChain x v.chain v0.chain.length
    (s.setSlot x { v with st := 3, suspReq := false, suspensions := n, chain := ch, length := v0.length, released := false },
     ⟨x, none, sqKept, v.ring, v.tag, v0.length, v0.chain.length⟩)
  else
    let s := s.freeEntries v.chain
    (s.setSlot x { v with st := 3, suspReq := false, suspensions := n, chain := [], length := 0, released := true },
     ⟨x, none, sqReleased, v.ring, v.tag, v0.length, v0.chain.length⟩)

/-- What a boundary gathers: its retirement and suspension records. -/
structure Gather where
  retired   : List SeqRec
  suspended : List SeqRec
deriving DecidableEq, Repr

/-! ### Phase 2: retire -/

/-- Why a slot retires in the retire phase, if it does. A slot with MAX_LEN 0xFFFF_FFFF does not, however far its LENGTH goes (log 130). -/
def retireCause (v : Slot) (stop : Bool) : Option Nat :=
  if (v.st = 2 ∨ v.st = 3) ∧ v.leave then some sqRetired
  else if v.st = 2 ∧ stop then some sqStopped
  else if v.st = 2 ∧ v.maxLen ≠ 2 ^ 32 - 1 ∧ v.maxLen < v.length + v.advance then some sqLengthDone
  else none

/-- The retire phase; `bits` is the stop bitmap. -/
def State.retirePhase (s : State) (c : Nat) (bits : List Byte) (v0 : Nat → Slot) : State × Gather :=
  let base := s.regN (offSlotBase c)
  let stopOf (x : Nat) : Bool := bitN ((bits.getD ((x - base) / 8) 0).toNat) ((x - base) % 8)
  let (s, g) := (s.slotsFor c).foldl (fun (a : State × Gather) x =>
    match retireCause (a.1.slot x) (stopOf x) with
    | none => a
    | some st =>
      let r := a.1.retireSlot x st (v0 x)
      (r.1, { a.2 with retired := a.2.retired ++ [r.2] })) (s, ⟨[], []⟩)
  (s.running c).foldl (fun (a : State × Gather) x =>
    if (a.1.slot x).suspReq then
      let r := a.1.suspendSlot x (v0 x)
      (r.1, { a.2 with suspended := a.2.suspended ++ [r.2] })
    else a) (s, g)

/-! ### Phase 3: grow (R205, R206) -/

/-- The newest Running slot of a context. -/
def State.victim (s : State) (c : Nat) : Option Nat :=
  (s.running c).foldl (fun v x =>
    match v with
    | none => some x
    | some y => if (s.slot y).admitSeq < (s.slot x).admitSeq then some x else some y) none

/-- Grow one slot, suspending victims until it fits or is itself the victim. -/
def State.growSlot (s : State) (c x fuel : Nat) (v0 : Nat → Slot) (g : Gather) : State × Gather :=
  match fuel with
  | 0 => (s, g)
  | k + 1 =>
    let v := s.slot x
    let want := v.pages (v.length + v.advance)
    let need := want - v.chain.length
    if maxPages < want then
      let r := s.retireSlot x sqStateLimit (v0 x)
      (r.1, { g with retired := g.retired ++ [r.2] })
    else if need = 0 ∨ s.canTake c need then
      let (ch, s) := s.allocPages x v.placeDiv v.chain need
      (s.setSlot x { v with chain := ch, length := v.length + v.advance }, g)
    else
      match s.victim c with
      | none => (s, g)
      | some y =>
        let r := s.suspendSlot y (v0 y)
        let g := { g with suspended := g.suspended ++ [r.2] }
        if y = x then (r.1, g) else r.1.growSlot c x k v0 g

/-- The grow phase. -/
def State.growPhase (s : State) (c : Nat) (v0 : Nat → Slot) (g : Gather) : State × Gather :=
  let l := s.running c
  l.foldl (fun (a : State × Gather) x => if (a.1.slot x).st = 2 then a.1.growSlot c x (l.length + 1) v0 a.2 else a) (s, g)

/-! ### Phase 4: admit (R207) -/

/-- An admission or refusal, with its flags for the batch list. -/
structure Admit where
  rec_   : SeqRec
  slot   : Nat
  resumed : Bool
  first  : Bool     -- FIRST_TOK is 0: a new join or a released resume
deriving DecidableEq, Repr

/-- Whether a context's admission epoch is still to come: its queue is held at the head (Table 13.5). -/
def State.epochPending (s : State) (c : Nat) : Bool :=
  let n := s.admissionOf c
  n != 0 && (match s.epochIdx n with | some i => (s.epochEntry i).st == 2 || (s.epochEntry i).st == 1 | none => true)

/-- Serve the join queue from its head. -/
def State.admitPhase (s : State) (c batchMax : Nat) (q : List JoinEntry) (acc : List Admit) : State × List Admit :=
  match q with
  | [] => (s, acc)
  | e :: rest =>
    let x := e.slot
    let v := s.slot x
    let released := v.released
    let pop (s : State) : State := let y := s.seqCtx c; s.setSeqCtx c { y with queue := y.queue.drop 1 }
    let len := if e.resume && !released then v.length + v.advance else e.initLen
    let want := v.pages len
    let mk (status length pages : Nat) : SeqRec := ⟨x, some e.desc, status, e.desc.ring, e.desc.tag, length, pages⟩
    if v.adapterEn && (s.adapter v.adapter).st != 2 then
      let s := if e.resume then s.setSlot x { v with inQueue := false } else s.setSlot x .free
      (pop s).admitPhase c batchMax rest (acc ++ [⟨if e.resume then mk sqNoAdapter v.length v.chain.length else mk sqNoAdapter 0 0, x, e.resume, false⟩])
    else if maxPages < want then
      if e.resume then
        let r := (pop s).retireSlot x sqStateLimit v
        r.1.admitPhase c batchMax rest (acc ++ [⟨mk sqStateLimit v.length v.chain.length, x, true, false⟩])
      else (pop (s.setSlot x .free)).admitPhase c batchMax rest (acc ++ [⟨mk sqStateLimit 0 0, x, false, false⟩])
    else if s.epochPending c || batchMax ≤ (s.running c).length || !s.canTake c (want - v.chain.length) then (s, acc)
    else
      let (ch, s) := s.allocPages x v.placeDiv v.chain (want - v.chain.length)
      let y := s.seqCtx c
      let ep := s.admissionOf c
      let v := { v with st := 2, inQueue := false, released := false, chain := ch, length := len, admitSeq := y.nextAdmit }
      let v := if e.resume then v else { v with epoch := ep, epochRef := ep != 0, adapterRef := v.adapterEn }
      let s := (pop (s.setSlot x v))
      let y := s.seqCtx c
      let s := s.setSeqCtx c { y with nextAdmit := y.nextAdmit + 1 }
      s.admitPhase c batchMax rest (acc ++ [⟨mk sqOk len ch.length, x, e.resume, !e.resume || released⟩])

/-! ### Phase 5: freeze (R208) -/

/-- An entry of the batch list (Table 7.3) (log 9). -/
def batchEntry (x : Nat) (v : Slot) (a : Option Admit) : List Byte :=
  let fl := (match a with | some a => if a.resumed then 3 else 1 | none => 0) + (if v.adapterEn then 4 else 0)
  let first := match a with | some a => if a.first then 0 else v.length - v.advance | none => v.length - v.advance
  leBytes 2 x ++ leBytes 1 fl ++ leBytes 1 v.epoch ++ leBytes 2 v.adapter ++ zeroBytes 2 ++ leBytes 4 first ++ leBytes 4 v.length

/-- Write bytes for a boundary at a pointer of its SEQ.STEP; a pointer the map no longer allows faults the context. -/
def State.stepWrite (s : State) (c a : Nat) (bs : List Byte) : State :=
  if bs.isEmpty then s
  else
    match s.packageAccess c a bs.length true with
    | .pieces l => s.writeFor c l bs
    | _ => s.fault c clsBadDesc 0x43

/-- Read the stop bitmap of a step and write it as zero. -/
def State.takeStops (s : State) (c : Nat) (b : List Byte) : State × List Byte :=
  let p := fieldN b 0x28 8
  let n := s.stopBytes c
  if p = 0 ∨ n = 0 then (s, [])
  else
    match s.packageAccess c p n false with
    | .pieces l =>
      match s.readFor c l with
      | (s, .bytes bs) => (s.stepWrite c p (zeroBytes n), bs)
      | (s, .poisoned f) => (s.fault c clsUncorr f, [])
      | (s, .coreFailed) => (s, [])
    | _ => (s.fault c clsBadDesc 0x43, [])

/-- Insert a record by slot. -/
def insertRec (r : SeqRec) (l : List SeqRec) : List SeqRec :=
  match l with
  | [] => [r]
  | q :: t => if r.slot < q.slot then r :: q :: t else q :: insertRec r t

/-! ### The boundary (R182, R203, R205, R210) -/

/-- Whether a context's boundary is due: a SEQ.STEP is accepted, the previous step has completed, and the context is Active (R203, R423). -/
def State.due (s : State) (c : Nat) : Bool :=
  let q := s.seqCtx c
  !q.steps.isEmpty && q.inStep.isNone && s.ctxPhase? c == some .active

/-- The order of a context's oldest step. -/
def State.stepOrder (s : State) (c : Nat) : Nat := ((s.seqCtx c).steps.head?.map (·.order)).getD 0

/-- Whether every Press has completed the attention commands of a context that it accepted (R182). A sequence-state request is served in one step, so none is under way. -/
def State.pressesQuiet (s : State) (c : Nat) : Bool := s.press.queues.all (fun e => e.2.all (fun q => q.ctx != c || fieldN q.bytes 0 1 != 0x31))

/-- Run the phases of a boundary and post its records. -/
def State.runBoundary (s : State) (c : Nat) (r : StepReq) : State :=
  let v0 := s.slot
  let step := fieldN r.bytes 8 4
  let q := s.seqCtx c
  let s := { s with seq := { s.seq with boundary := some c } }
  let s := s.setSeqCtx c { q with steps := q.steps.drop 1, inStep := some r, modifies := [], launched := false, trapped := false }
  let s := s.retireMarkedFree
  let s := (s.slotsFor c).foldl (fun s x => s.modSlot x (fun v => { v with suspReq := false })) s
  let s := q.modifies.foldl (fun s m => s.applyModify c step m) s
  let (s, bits) := s.takeStops c r.bytes
  let (s, g) := s.retirePhase c bits v0
  let s := s.takePending
  let (s, g) := s.growPhase c v0 g
  let (s, adm) := s.admitPhase c (fieldN r.bytes 2 2) (s.seqCtx c).queue []
  let run := s.running c
  let s := s.stepWrite c (fieldN r.bytes 0x18 8) (run.flatMap (fun x => batchEntry x (s.slot x) (adm.find? (fun a => a.slot == x && a.rec_.status == sqOk))))
  let s := { s with seq := { s.seq with batch := run.length } }
  let serving := !((s.ctx? c).map (·.lent)).getD true
  let s := if serving then s.count (offAcctCtr c 9) g.suspended.length else s
  let post (s : State) (l : List SeqRec) : State := l.foldl (fun s r => if s.ctxLive c then s.postSeq c step r else s) s
  let s := post s (g.retired.foldl (fun a r => insertRec r a) [])
  let s := post s g.suspended
  (post s (adm.map (·.rec_))).reportFailure

/-- STEP_BOUNDARY: the boundary of a due context runs when none other does and no due one was accepted earlier. -/
def execStepBoundary (c : Ctx) (s : State) : Host.Outcome State Fault Refusal :=
  .next (s.unlessTripped fun s =>
    if s.seq.boundary.isNone && s.due c && s.pressesQuiet c &&
        (List.range 64).all (fun k => k == c.val || !s.due k || s.stepOrder c < s.stepOrder k) then
      match (s.seqCtx c).steps with
      | r :: _ => s.runBoundary c r
      | [] => s
    else s)

/-! ### Launch and the end of a step (R124, R217) -/

/-- A core starts a launch: what R124 sets, and no matrix status has been returned since (R106); everything else is kept. -/
def CoreState.launch (k : CoreState) (entry step part : Nat) : CoreState :=
  let k := { k with
    sregs := []
    preds := 0
    vl := 0
    pc := BitVec.ofNat 64 entry
    step := BitVec.ofNat 32 step
    run := .running
    wait := .none
    lastMx := 0
    orMx := 0
    part := part }
  (k.setSreg 1 (BitVec.ofNat 64 (storeBase + copyOff))).setSreg 2 (BitVec.ofNat 64 part)

/-- Post a step's completion (Table 7.8) (log 48). -/
def State.stepDone (s : State) (c : Nat) : State :=
  let q := s.seqCtx c
  match q.inStep with
  | none => s
  | some r =>
    let status := if q.trapped then sqTrapped else sqOk
    (s.setSeqCtx c { q with inStep := none, launched := false, trapped := false }).seqComplete r.desc status 0xFFFF (fieldN r.bytes 8 4) (s.running c).length (s.ownedPages c)

/-- The clusters a step launches. -/
def State.launchClusters (s : State) (c : Nat) (b : List Byte) : List Nat := (((s.ctx? c).map (·.clusters)).getD []).take (fieldN b 0x0C 2)

/-- Launch a step's cores: the copy of its descriptor in each store, then every core at ENTRY. -/
def State.launch_ (s : State) (c : Nat) (r : StepReq) (batch : Nat) : State :=
  let b := r.bytes
  let copy := putField b 0x20 4 batch
  let cl := s.launchClusters c b
  let all := ((s.ctx? c).map (·.clusters)).getD []
  let idle := s.cores.map (fun e => if all.contains (coreCluster e.1) then (e.1, { e.2 with run := RunState.idle }) else e)
  let s := { s with cores := idle.filter (fun e => decide (e.2 ≠ CoreState.reset)) }
  let s := cl.foldl (fun s k => s.writePhys (storePhys k copyOff) copy) s
  let s := (cl.zipIdx).foldl (fun s k => (List.range 128).foldl (fun s i =>
    s.modCore (k.1 * 128 + i) (fun x => x.launch (fieldN b 0x10 8) (fieldN b 8 4) (128 * k.2 + i))) s) s
  let q := s.seqCtx c
  s.setSeqCtx c { q with launched := true, held := none }

/-- The launch that waited for a context's resume. -/
def State.launchHeld (s : State) (c : Nat) : State :=
  let q := s.seqCtx c
  match q.held, q.inStep with
  | some n, some r => s.launch_ c r n
  | _, _ => s

/-! ### Teardown (R211) -/

/-- The retire-only boundary of a torn-down context: Queued slots become Free, every other retires and frees its pages. -/
def State.retireOnly (s : State) (c : Nat) : State :=
  let s := s.retireMarkedFree
  let s := (s.slotsFor c).foldl (fun s x => (s.freeEntries (s.slot x).chain).setSlot x .free) s
  let s := s.setSeqCtx c .reset
  ({ s with seq := { s.seq with tornDown := setDel s.seq.tornDown c } }).takePending.reportFailure

/-- Run the retire-only boundaries that wait, when no boundary runs. -/
def State.runRetireOnly (s : State) : State :=
  if s.seq.boundary.isSome then s else (s.seq.tornDown.foldl State.retireOnly s).freeWeights

/-- The sequence side of a context's teardown: its steps and queue are abandoned, and its retire-only boundary runs or waits. -/
def State.dropSequences (s : State) (c : Nat) : State :=
  let q := s.seqCtx c
  let s := s.setSeqCtx c { q with steps := [], queue := [], modifies := [] }
  ({ s with seq := { s.seq with tornDown := setAdd s.seq.tornDown c } }).runRetireOnly

/-- BOUNDARY_COMPLETE: Retiring slots become Free, weights without references are freed, and the step's cores launch, once their clusters are wiped
(R159) (log 71). A context that is being pre-empted, or is Suspended or Resuming, has its cores launched when it is Active again. -/
def execBoundaryComplete (s : State) : Host.Outcome State Fault Refusal :=
  .next (s.unlessTripped fun s => match s.seq.boundary with
    | none => s
    | some c =>
      let q := s.seqCtx c
      let live := s.ctxLive c
      let only := match q.inStep with | some r => bitN (fieldN r.bytes 1 1) 0 | none => true
      let cl := match q.inStep with | some r => s.launchClusters c r.bytes | none => []
      if live && !only && cl.any (fun k => (s.cluster k).wiping) then s
      else
        let s := (s.slotsFor c).foldl (fun s x => if (s.slot x).st = 4 then s.setSlot x .free else s) s
        let s := { s with seq := { s.seq with boundary := none } }
        let s := if live then
            match q.inStep with
            | some r =>
              if only then s.stepDone c
              else if s.ctxPhase? c = some .active then s.launch_ c r s.seq.batch
              else s.setSeqCtx c { q with held := some s.seq.batch }
            | none => s
          else s
        (s.postOwed c).freeWeights.runRetireOnly.reportFailure)

/-- Whether every core of a context's launch has finished or trapped. -/
def State.launchOver (s : State) (c : Nat) : Bool :=
  let cl := ((s.ctx? c).map (·.clusters)).getD []
  !s.cores.any (fun e => cl.contains (coreCluster e.1) && (e.2.run == .running || e.2.run == .stopped))

/-- TRAP: code 0 ends the core's part of the launch; another code stops the core and posts a program trap (R139, R395). When every launched core has done either, the
step completes. -/
def execTrap (core : Core) (rsvd : Bool) (imm : Imm) (s : State) : Host.Outcome State Fault Refusal :=
  .next (s.coreStep core (!rsvd) (fun s =>
    match s.coreCtx core with
    | none => s
    | some c =>
      let step := (s.core core).step.toNat
      let s := s.modCore core (fun k => { k with run := if imm = 0 then .finished else .trapped })
      let q := s.seqCtx c
      let s := if imm = 0 then s
        else
          let s := s.setSeqCtx c { q with trapped := true }
          match q.inStep with
          | some r => s.postRecord c r.desc.ring (s.recordBytes 0x4E 0 r.desc.tag (leBytes 4 step ++ leBytes 4 imm.toNat ++ leBytes 8 (s.coreId core)))
          | none => s
      if q.launched && s.launchOver c then s.stepDone c else s))

end Sys2Proof.Machine
end

