-- ==== Sys2Proof/Machine/Deal.lean ====
section
/-!
DEFINITION. What the Dealer computes (spec/08_dealer.md): the fields of DEAL.TRICK and its layer record (R253, R254), scoring (R223, R224; padding changes no bit, R98, R99), selection and
weights (R225 to R229), hand records (R230), placement (R231, R232), and combine weights (R246, R247).
-/
namespace Sys2Proof.Machine

/-! ### Commands (Tables 8.6 and 8.7) -/

def opTrick : Nat := 0x51
def opReturn : Nat := 0x52

/-- The fields of DEAL.TRICK. -/
structure TrickCmd where
  spill    : Bool
  renorm   : Bool
  inherit_ : Bool
  replay   : Bool
  cfmt     : Nat
  id       : W32
  t        : Nat
  ldx      : Nat
  tsX      : W32
  payData  : Nat
  payScale : Nat
  payLd    : Nat
  members  : Nat
  outBytes : Nat
  layer    : Nat
  x        : Nat
  pay      : Nat
  hand     : Nat
  ret      : Nat
  member   : Nat
  ready    : Nat
  done     : Nat
  stat     : Nat
deriving DecidableEq, Repr

def trickCmd (b : List Byte) : TrickCmd where
  spill := bitN (fieldN b 1 1) 0 && !bitN (fieldN b 1 1) 3
  renorm := bitN (fieldN b 1 1) 1
  inherit_ := bitN (fieldN b 1 1) 2
  replay := bitN (fieldN b 1 1) 3
  cfmt := fieldN b 2 1
  id := BitVec.ofNat 32 (fieldN b 4 4)
  t := fieldN b 8 4
  ldx := fieldN b 0x0C 4
  tsX := BitVec.ofNat 32 (fieldN b 0x10 4)
  payData := fieldN b 0x14 4
  payScale := fieldN b 0x18 2
  payLd := fieldN b 0x1C 4
  members := fieldN b 0x20 4
  outBytes := fieldN b 0x24 4
  layer := fieldN b 0x28 8
  x := fieldN b 0x30 8
  pay := fieldN b 0x38 8
  hand := fieldN b 0x40 8
  ret := fieldN b 0x48 8
  member := fieldN b 0x50 8
  ready := fieldN b 0x58 8
  done := fieldN b 0x60 8
  stat := fieldN b 0x68 8

/-- Bytes of an element of CFMT or GFMT. -/
def elemSize (fmt : Nat) : Nat := match fmt with | 8 => 2 | 9 => 4 | _ => 1

/-- Bytes of a payload row. -/
def TrickCmd.rowBytes (a : TrickCmd) : Nat := a.payData + a.payScale

/-- The field rules of Table 8.6, R237 and R254. -/
def trickFields (b : List Byte) : Bool :=
  let a := trickCmd b
  let cs := elemSize a.cfmt
  b.length == 128 && fieldN b 0 1 == 0x51 && fieldN b 1 1 < 16 && (a.cfmt == 8 || a.cfmt == 9) && fieldZero b 3 1 && a.t ≤ 1048576 &&
  1 ≤ a.payData && a.payData ≤ 262144 && a.payScale ≤ 4096 && a.rowBytes ≤ 262144 && fieldZero b 0x1A 2 && a.rowBytes ≤ a.payLd &&
  1 ≤ a.members && a.members ≤ 24640 && a.outBytes % cs == 0 && 2 ≤ a.outBytes && a.outBytes ≤ 262144 && a.layer % 64 == 0 &&
  a.hand % 256 == 0 && a.ret % cs == 0 && a.member % 4 == 0 && a.ready % 8 == 0 && a.done % 8 == 0 && a.stat % 64 == 0 && fieldZero b 0x70 16

/-- The fields of a layer record. -/
structure Layer where
  sigmoid : Bool
  biasEn  : Bool
  norm    : Bool
  groupEn : Bool
  gfmt    : Nat
  k       : Nat
  a       : Nat
  gtop    : Nat
  e       : Nat
  hdim    : Nat
  ng      : Nat
  tg      : Nat
  dirBase : Nat
  scale   : W32
  tsG     : W32
  gateDir : Nat
  bias    : Nat
deriving DecidableEq, Repr

def layerRec (b : List Byte) : Layer where
  sigmoid := bitN (fieldN b 0 1) 0
  biasEn := bitN (fieldN b 0 1) 1
  norm := bitN (fieldN b 0 1) 2
  groupEn := bitN (fieldN b 0 1) 3
  gfmt := fieldN b 1 1
  k := fieldN b 2 1 % 32
  a := fieldN b 2 1 / 32
  gtop := fieldN b 3 1
  e := fieldN b 4 4
  hdim := fieldN b 8 2
  ng := fieldN b 0x0A 2
  tg := fieldN b 0x0C 2
  dirBase := fieldN b 0x10 4
  scale := BitVec.ofNat 32 (fieldN b 0x14 4)
  tsG := BitVec.ofNat 32 (fieldN b 0x18 4)
  gateDir := fieldN b 0x20 8
  bias := fieldN b 0x28 8

/-- The field rules of Table 8.7 and R254, with the alignment of X_PTR and LDX that GFMT sets. -/
def layerFields (b : List Byte) (x ldx : Nat) : Bool :=
  let l := layerRec b
  let g := elemSize l.gfmt
  fieldN b 0 1 < 16 && (l.gfmt == 1 || l.gfmt == 2 || l.gfmt == 8) && 1 ≤ l.k && l.k ≤ 16 && l.a ≤ 4 && 1 ≤ l.e && l.e ≤ 65535 && 1 ≤ l.hdim &&
  l.k + l.a ≤ l.e && fieldZero b 0x0E 2 && l.dirBase ≤ 65535 && l.dirBase + l.e ≤ 65536 && fieldZero b 0x1C 4 && l.gateDir % 64 == 0 &&
  (!l.biasEn || l.bias % 4 == 0) && fieldZero b 0x30 16 && x % g == 0 && ldx % g == 0 &&
  (if l.groupEn then
    (l.gtop == 1 || l.gtop == 2) && 1 ≤ l.ng && l.ng ≤ 256 && 1 ≤ l.tg && l.tg ≤ l.ng && l.e % l.ng == 0 && l.k + l.a ≤ l.tg * (l.e / l.ng)
  else l.gtop == 0 && l.ng == 0 && l.tg == 0)

/-! ### Scoring (R223, R224) -/

/-- The elements of a row of n elements in format GFMT. -/
def gateElems (gfmt n : Nat) (bs : List Byte) : List FNum :=
  (elemsOf (8 * elemSize gfmt) n (leNat bs)).map (decodeElem ((efmtOf gfmt).getD (.int 8)))

/-- Steps of 16 along k. -/
def Layer.kSteps (l : Layer) : Nat := ceilDiv l.hdim 16
/-- The tile directory entries of the gate, in the order of their addresses. -/
def Layer.tileRefs (l : Layer) : List Nat := (List.range (ceilDiv l.e 16 * l.kSteps)).map (fun i => l.gateDir + 64 * i)

/-- Column e of the gate matrix, from its tiles as elements in cell order. -/
def Layer.column (l : Layer) (tiles : List (List FNum)) (e : Nat) : List FNum :=
  (List.range l.hdim).map (fun k => (tiles.getD (e / 16 * l.kSteps + k / 16) []).getD (k % 16 * 16 + e % 16) fzero)

/-- A logit and whether its readout saturated. -/
def Layer.logit (l : Layer) (tsX : W32) (row col : List FNum) : Nat × Bool :=
  let prods := (row.zip col).map (fun x => fmul x.1 x.2)
  let p := (List.range l.kSteps).foldl (fun (p : Pair) i =>
    (pairContrib false p (contribution [blockSum ((prods.drop (16 * i)).take 16)])).1) Pair.zero
  let r := readPair p tsX l.tsG 0 false none
  (r.code, r.headroom)

/-! ### Selection (R225 to R229) -/

def f32div (a b : Nat) : Nat := encodeIeee fmtFP32 (fdiv (decodeFp fmtFP32 a) (decodeFp fmtFP32 b))
def f32neg (a : Nat) : Nat := encodeIeee fmtFP32 (decodeFp fmtFP32 a).neg
def f32isNan (a : Nat) : Bool := (decodeFp fmtFP32 a).isNan
/-- Whether an FP32 code is positive and finite. -/
def f32posFin (a : Nat) : Bool := let x := decodeFp fmtFP32 a; x.isFin && flt fzero x

def f32One : Nat := 0x3F800000

/-- The largest of a list of logits, none of them NaN. -/
def f32max (l : List Nat) : Nat :=
  l.foldl (fun m x => if flt (decodeFp fmtFP32 m) (decodeFp fmtFP32 x) then x else m) f32NegInf

/-- The probabilities of R225. -/
def Layer.probs (l : Layer) (z : List Nat) : List Nat :=
  if l.sigmoid then z.map (fun x => f32div f32One (f32add f32One (f32exp (f32neg x))))
  else if z.any f32isNan then z.map (fun _ => f32Nan)
  else
    let mx := f32max z
    let es := z.map (fun x => f32exp (f32sub x mx))
    let s := es.foldl f32add 0
    es.map (fun e => f32div e s)

/-- The best of a list of (id, key) in ascending id: the largest key that is not NaN, the lower id among equals (R226). -/
def bestKey (l : List (Nat × Nat)) : Option (Nat × Nat) :=
  l.foldl (fun b x =>
    if f32isNan x.2 then b
    else match b with
      | none => some x
      | some y => if flt (decodeFp fmtFP32 y.2) (decodeFp fmtFP32 x.2) then some x else b) none

/-- The n highest-ranked of a list, in rank order. -/
def topKeys (n : Nat) (l : List (Nat × Nat)) : List (Nat × Nat) :=
  match n with
  | 0 => []
  | m + 1 => match bestKey l with
    | none => []
    | some x => x :: topKeys m (l.filter (fun y => y.1 != x.1))

/-- The score of a group of candidates: its GTOP highest keys added highest first, NaN for a group with none (R227). -/
def groupScore (gtop : Nat) (g : List (Nat × Nat)) : Nat :=
  match topKeys gtop g with
  | [] => f32Nan
  | x :: r => r.foldl (fun a y => f32add a y.2) x.2

/-- The candidates of R227. -/
def Layer.candidates (l : Layer) (keys : List (Nat × Nat)) : List (Nat × Nat) :=
  if l.groupEn then
    let w := l.e / l.ng
    let scores := (List.range l.ng).map (fun g => (g, groupScore l.gtop ((keys.drop (g * w)).take w)))
    let top := (topKeys l.tg scores).map (·.1)
    let rest := ((scores.filter (fun x => f32isNan x.2)).map (·.1)).take (l.tg - top.length)
    let chosen := top ++ rest
    keys.filter (fun x => chosen.contains (x.1 / w))
  else keys

/-- The weights of the cards of a hand, from their probabilities in card order (R229). -/
def Layer.weights (l : Layer) (ps : List Nat) : List Nat :=
  let s := (ps.take l.k).foldl f32add 0
  let ws := if l.norm && f32posFin s then ps.map (fun w => f32div w s) else ps
  ws.map (fun w => f32mul w l.scale.toNat)

/-- Deal a hand from a token's logits (R226 to R229); its cards are not placed yet. -/
def Layer.dealHand (l : Layer) (bias : List Nat) (z : List Nat) : Hand :=
  let p := l.probs z
  let sel := if l.biasEn then (p.zip bias).map (fun x => f32add x.1 x.2) else p
  let keys := (List.range l.e).zip sel
  let picks := (topKeys (l.k + l.a) (l.candidates keys)).map (·.1)
  let ws := l.weights (picks.map (fun e => p.getD e 0))
  { cards := (List.range (l.k + l.a)).map (fun i => match picks[i]? with
      | some e => some ⟨e, BitVec.ofNat 32 (ws.getD i 0), none, 0, none, none⟩
      | none => none)
    nan := decide (picks.length < l.k + l.a)
    zero := false }

/-! ### Hand records (R230, Tables 8.2 and 8.3) -/

def Hand.card? (h : Hand) (i : Nat) : Option Card := (h.cards[i]?).join
/-- Cards dispatched and not refused. -/
def Card.accepted (c : Card) : Bool := c.sub != 0 && c.whey.isNone
/-- The set of bit places i + lo where card i has a property. -/
def Hand.bits (h : Hand) (lo : Nat) (p : Card → Bool) : Nat :=
  (List.range 20).foldl (fun a i => match h.card? i with | some c => if p c then a + 2 ^ (lo + i) else a | none => a) 0
/-- Whether some card of a hand has a property. -/
def Hand.any (h : Hand) (p : Card → Bool) : Bool := h.cards.any (fun c => c.any p)

/-- The header of a hand: as phase A writes it, or with its outcome in phase G. -/
def Hand.header (h : Hand) (k : Nat) (final : Bool) : Nat :=
  let kp := ((h.cards.take k).filter (·.isSome)).length
  let ap := ((h.cards.drop k).filter (·.isSome)).length
  let base := kp + 2 ^ 5 * ap + (if h.nan then 2 ^ 49 else 0)
  if final then
    base + h.bits 8 Card.accepted + h.bits 28 (fun c => c.whey.isSome) + (if h.any Card.accepted then 0 else 2 ^ 48) + (if h.zero then 2 ^ 50 else 0) +
    (if h.any (fun c => c.whey == some true) then 2 ^ 51 else 0) + (if h.any (fun c => c.sub == 2) then 2 ^ 52 else 0)
  else base

/-- IDS and SEL_W of a hand record. -/
def Hand.idBytes (h : Hand) : List Byte :=
  (List.range 20).flatMap (fun i => leBytes 2 (match h.card? i with | some c => c.expert | none => 0xFFFF))
def Hand.selBytes (h : Hand) : List Byte :=
  (List.range 20).flatMap (fun i => leBytes 4 (match h.card? i with | some c => c.weight.toNat | none => 0))

/-- A hand as a replay reads it back: only its accepted cards can be dispatched (R252). -/
def readHand (n : Nat) (b : List Byte) : Hand :=
  let h := fieldN b 0 8
  { cards := (List.range n).map (fun i =>
      let e := fieldN b (8 + 2 * i) 2
      if bitN h (8 + i) then some ⟨e, BitVec.ofNat 32 (fieldN b (0x30 + 4 * i) 4), none, 0, none, none⟩ else none)
    nan := bitN h 49
    zero := bitN h 50 }

/-! ### Combine weights (R246, Table 8.5) -/

/-- The weight a card enters the combination with: its own, or under INHERIT that of the whey card it replaced. -/
def Hand.weightOf (h : Hand) (inherit_ : Bool) (c : Card) : Nat :=
  match inherit_, c.repl with
  | true, some j => ((h.card? j).map (fun x => x.weight.toNat)).getD c.weight.toNat
  | _, _ => c.weight.toNat

/-- The combine weights of a hand's cards 0 to 19, and RENORM_ZERO. -/
def Hand.combine (h : Hand) (renorm inherit_ : Bool) : List Nat × Bool :=
  let ws := (List.range 20).map (fun i => match h.card? i with
    | some c => if c.accepted then some (h.weightOf inherit_ c) else none
    | none => none)
  let s := (ws.filterMap id).foldl f32add 0
  if !renorm then (ws.map (·.getD 0), false)
  else if (ws.filterMap id).isEmpty then (ws.map (fun _ => 0), false)
  else if f32posFin s then (ws.map (fun w => match w with | some x => f32div x s | none => 0), false)
  else (ws.map (fun _ => 0), true)

/-! ### Placement (R231, R232) -/

/-- Replica i of a directory entry: the global package and expert slot of its home. -/
def dirHome (e : BitVec 128) (i : Nat) : Nat × Nat :=
  let v := bitsN e.toNat (27 * i + 26) (27 * i)
  (bitsN v 8 0 * 64 + bitsN v 14 9, bitsN v 26 15)
def dirReps (e : BitVec 128) : Nat := bitsN e.toNat 109 108 + 1
def dirValid (e : BitVec 128) : Bool := bitN e.toNat 110

def State.dirEntry (s : State) (i : Nat) : BitVec 128 := tabGet 0 s.deal.dir i

/-- The replica index that a source uses for a token among n (R232). -/
def replicaOf (src token n : Nat) : Nat :=
  ((srMix ((BitVec.ofNat 64 src <<< 32) ^^^ BitVec.ofNat 64 token)) >>> 32).toNat % n

/-- The home of an expert for a token of this source; none when the expert is absent or its home lies in no member (R232, R234). -/
def State.place (s : State) (l : Layer) (members : List (Nat × Nat)) (expert token : Nat) : Option (Nat × Nat) :=
  let e := s.dirEntry (l.dirBase + expert)
  if dirValid e then
    let h := dirHome e (replicaOf s.self token (dirReps e))
    if members.any (fun m => m.1 == h.1) then some h else none
  else none

end Sys2Proof.Machine
end

