-- ==== Sys2Proof/Machine/Dealer.lean ====
section
/-!
DEFINITION. The Dealer (spec/08_dealer.md): a trick's phases at a member (R221), its rows and notices on the fabric (R235 to R238, R299 to R304), capacity
(R241 to R245), curd packing (R249 to R251), return and combination (R246 to R248), replay (R252), the expert directory (R255), and the faults of Table 8.15 (R258).
-/
namespace Sys2Proof.Machine

/-! ### Tricks -/

def State.trick? (s : State) (c : Nat) (id : W32) : Option Trick := s.deal.tricks.find? (fun t => t.ctx == c && t.id == id)

/-- Put a trick in place of the one of its context and id, or add it. -/
def State.putTrick (s : State) (t : Trick) : State :=
  let l := s.deal.tricks
  let l := if l.any (fun x => x.ctx == t.ctx && x.id == t.id) then l.map (fun x => if x.ctx == t.ctx && x.id == t.id then t else x) else l ++ [t]
  { s with deal := { s.deal with tricks := l } }

/-- The entry that holds what comes for a trick before its DEAL.TRICK is accepted (R237). -/
def Trick.early (c : Nat) (id : W32) : Trick where
  ctx := c
  id := id
  live := false
  order := 0
  cmd := []
  layer := []
  members := []
  hands := []
  rows := []
  notices := []
  back := []
  records := []
  table := []
  admits := []
  refused := []
  arrived := 0
  sent := 0
  spilled := 0
  phaseC := false
  cap1 := false
  cap2 := false
  phaseE := false
  returned := false
  waitFrom := none
  stallFrom := none
  waited := 0

def State.trickOf (s : State) (c : Nat) (id : W32) : Trick := (s.trick? c id).getD (Trick.early c id)

/-- Change a live trick. -/
def State.modTrick (s : State) (c : Nat) (id : W32) (f : Trick → Trick) : State :=
  match s.trick? c id with
  | some t => s.putTrick (f t)
  | none => s

/-- Tricks of a context in flight on this package. -/
def State.inFlight (s : State) (c : Nat) : Nat := (s.deal.tricks.filter (fun t => t.live && t.ctx == c)).length

/-- Whether a context's cluster windows can be read: it holds its clusters, or their rows are saved (R423, log 16). -/
def State.windowsRead (s : State) (c : Nat) : Bool :=
  match s.ctx? c with
  | some x => x.clusters.length == x.count || x.saved.isSome
  | none => false

/-- The own last notice of a phase has gone out: the barrier it belongs to begins to wait (R240, Table 8.9). -/
def Trick.startWait (t : Trick) (now : Nat) : Trick := { t with waitFrom := some now, stallFrom := some now }
def Trick.endWait (t : Trick) : Trick := { t with waitFrom := none, stallFrom := none }

/-- The context a package takes part with: the lowest one, should a member table list more than one context of a package (log 30). -/
def memberCtx (members : List (Nat × Nat)) (g : Nat) : Nat :=
  ((members.filter (fun m => m.1 == g)).map (·.2)).foldl min 63

/-! ### Reads of the Dealer -/

/-- Read several ranges in order. -/
def State.engineReadAll (s : State) (op c : Nat) (l : List (Nat × Nat)) (acc : List (List Byte)) (k : State → List (List Byte) → State) : State :=
  match l with
  | [] => k s acc.reverse
  | (a, n) :: r => s.engineRead op c a n (fun s bs => s.engineReadAll op c r (bs :: acc) k)

/-- Add 1 at a counter once the writes that come before it have been made (R425). -/
def State.bumpAfter (s : State) (op c a : Nat) : State :=
  match s.ctx? c with
  | some x => if x.heldWrites.isEmpty then s.bumpCounter op c a else s.setCtx c { x with heldWrites := x.heldWrites ++ [(a, [])] }
  | none => s

/-! ### Rows on the fabric (R235, R299, R301) -/

/-- The tag of a row: who sent it first, whose it is at its end, and what it is. -/
structure RowTag where
  orig  : Nat
  octx  : Nat
  final : Nat
  fctx  : Nat
  id    : W32
  token : Nat
  card  : Nat
  sub   : Nat
  ret   : Bool
  slot  : Nat
deriving DecidableEq, Repr

def RowTag.tokCard (t : RowTag) : Nat := t.token + t.card * 2 ^ 20 + (t.sub - 1) * 2 ^ 25 + t.ret.toNat * 2 ^ 26

/-- The tag of a TRICK_ROW packet (log 72). -/
def rowTag (p : Packet) : RowTag :=
  let tc := pktOp p 0x14 4
  ⟨pktOp p 0x18 2 % 2 ^ 15, pktOp p 0x1A 1 % 64, p.final.toNat, p.dctx.toNat, BitVec.ofNat 32 (pktOp p 0x10 4), bitsN tc 19 0, bitsN tc 24 20,
    (bitN tc 25).toNat + 1, bitN tc 26, pktOp p 0x1E 2 % 2 ^ 12⟩
def rowOffset (p : Packet) : Nat := pktOp p 0x1B 3 % 2 ^ 19

/-- The package a row for package q is handed to from here: q itself in this chassis, else the gateway that R291 selects; while no link leads there, the
primary gateway, where it waits. -/
def State.rowHop (s : State) (q : Nat) : Nat :=
  match s.fab.pos with
  | none => q
  | some (ch, _, _) =>
    if q / 64 = ch then q
    else
      match s.target q ch with
      | some tg => 64 * ch + tg.pkg
      | none => let w := s.gwEntry (q / 64); if gwValid w then 64 * ch + gwPkg w else q

/-- Send one piece of a row. -/
def State.sendPiece (s : State) (t : RowTag) (off : Nat) (bs : List Byte) : State :=
  s.sendSeq { s.mkPacket 0x30 2 (s.rowHop t.final) t.octx t.fctx
    [(0x10, 4, t.id.toNat), (0x14, 4, t.tokCard), (0x18, 2, t.orig), (0x1A, 1, t.octx), (0x1B, 3, off), (0x1E, 2, t.slot)] bs
    with final := BitVec.ofNat 15 t.final } none

/-- Bytes of a piece: 2,048, or what a bundle has room for when the row leaves the chassis (R299, R302; log 31). -/
def State.pieceMax (s : State) (q : Nat) : Nat := if q / 64 = s.self / 64 then 2048 else 2024

/-- Send a row in pieces. -/
def State.sendRow (s : State) (t : RowTag) (bs : List Byte) : State :=
  let m := s.pieceMax t.final
  (List.range (ceilDiv bs.length m)).foldl (fun s i => s.sendPiece t (m * i) ((bs.drop (m * i)).take m)) s

/-! ### Notices (R236, R238, R303) -/

def nkCount : Nat := 0
def nkWhey : Nat := 1
def nkCombine : Nat := 2

/-- A whey entry: token, card, and whether the reason is "absent". -/
def wheyEntry (token card : Nat) (absent : Bool) : List Byte := leBytes 8 (token + card * 2 ^ 20 + absent.toNat * 2 ^ 25)

/-- Send a notice to a member, in as many parts as its entries need. -/
def State.sendNotice (s : State) (c : Nat) (id : W32) (m : Nat × Nat) (kind sub count : Nat) (entries : List Byte) : State :=
  let parts := max 1 (ceilDiv entries.length 2048)
  (List.range parts).foldl (fun s i =>
    s.sendSeq (s.mkPacket 0x32 2 m.1 c m.2
      [(0x10, 4, id.toNat), (0x14, 1, kind + 4 * (sub - 1)), (0x16, 2, i), (0x18, 2, parts), (0x1C, 4, count)]
      ((entries.drop (2048 * i)).take 2048)) none) s

def NoticeIn.complete (n : NoticeIn) : Bool := n.got.length == n.parts
def NoticeIn.entries (n : NoticeIn) : List Byte := n.got.flatMap (·.2)

/-- The notice of a kind and sub-trick from a member, once complete. -/
def Trick.notice (t : Trick) (m : Nat × Nat) (kind sub : Nat) : Option NoticeIn :=
  t.notices.find? (fun n => n.src == m.1 && n.sctx == m.2 && n.kind == kind && n.sub == sub && n.complete)

/-- Whether a notice has come from every member, and the sum of their counts. -/
def Trick.noticed (t : Trick) (kind sub : Nat) : Option Nat :=
  if t.members.all (fun m => (t.notice m kind sub).isSome) then
    some ((t.members.map (fun m => ((t.notice m kind sub).map (·.count)).getD 0)).foldl (· + ·) 0)
  else none

/-- Bytes of a staged row that have come, and whether all have. -/
def StagedRow.bytes (r : StagedRow) : List Byte := r.got.flatMap (·.2)
def StagedRow.complete (r : StagedRow) (n : Nat) : Bool := n ≤ r.bytes.length

/-- The barrier of a sub-trick (R236). -/
def Trick.barrier (t : Trick) (sub : Nat) : Bool :=
  let n := (trickCmd t.cmd).rowBytes
  match t.noticed nkCount sub with
  | some k => k == (t.rows.filter (fun r => r.sub == sub && r.complete n)).length
  | none => false

/-! ### Dispatch (R235, R236) -/

/-- A card to be dispatched: token, card, and its home. -/
abbrev Dispatch := Nat × Nat × Nat × Nat

/-- Send the rows of a sub-trick and its count notices. The rows are read first, one read for a token. -/
def State.dispatch (s : State) (t : Trick) (sub : Nat) (todo : List Dispatch) (k : State → State) : State :=
  let a := trickCmd t.cmd
  let toks := (todo.map (·.1)).eraseDups
  s.engineReadAll opTrick t.ctx (toks.map (fun i => (a.pay + i * a.payLd, a.rowBytes))) [] (fun s rows =>
    let row (i : Nat) : List Byte := ((toks.zip rows).find? (fun x => x.1 == i)).elim [] (·.2)
    let s := todo.foldl (fun (s : State) d =>
      s.sendRow ⟨s.self, t.ctx, d.2.2.1, memberCtx t.members d.2.2.1, t.id, d.1, d.2.1, sub, false, d.2.2.2⟩ (row d.1)) s
    let s := t.members.foldl (fun (s : State) m =>
      s.sendNotice t.ctx t.id m nkCount sub (if memberCtx t.members m.1 = m.2 then (todo.filter (fun d => d.2.2.1 == m.1)).length else 0) []) s
    k (s.count (offDealCtr t.ctx 1) todo.length))

/-- The cards of a hand that go out in a sub-trick. -/
def Hand.outgoing (h : Hand) (token sub : Nat) : List Dispatch :=
  (List.range h.cards.length).filterMap (fun i => match h.card? i with
    | some c => if c.sub = sub then c.home.map (fun x => (token, i, x)) else none
    | none => none)

def handsOutgoing (hs : List Hand) (sub : Nat) : List Dispatch := (hs.zip (List.range hs.length)).flatMap (fun x => x.1.outgoing x.2 sub)

/-! ### Phase A -/

/-- Place the cards of a token's hand: every card's replica is chosen now, and the cards of rank below `k` are dispatched or are whey at the source
(R232, R234). -/
def State.placeHand (s : State) (l : Layer) (members : List (Nat × Nat)) (k token : Nat) (h : Hand) : Hand :=
  { h with cards := (h.cards.zip (List.range h.cards.length)).map (fun x => x.1.map (fun c =>
      let home := s.place l members c.expert token
      if x.2 < k then { c with home := home, sub := home.isSome.toNat, whey := if home.isNone then some true else none }
      else { c with home := home })) }

/-- Read the gate, the tokens and the biases, and deal the hands; the number of headroom events goes with them (R223 to R229). -/
def State.scoreAll (s : State) (c : Nat) (a : TrickCmd) (l : Layer) (k : State → List Hand → State) : State :=
  if a.t = 0 then k s []
  else
    let es := elemSize l.gfmt
    s.engineReadAll opTrick c (l.tileRefs.map (fun d => (d, 64))) [] (fun s dirs =>
      if dirs.any (fun d => bitN (fieldN d 0x12 1) 0 || fieldN d 0x10 2 != 0 || fieldN d 0 8 % 32 != 0) then s.fault c clsBadDesc opTrick
      else s.engineReadAll opTrick c (dirs.map (fun d => (fieldN d 0 8, 256 * es))) [] (fun s tiles =>
        s.engineReadAll opTrick c ((List.range a.t).map (fun i => (a.x + i * a.ldx, l.hdim * es))) [] (fun s rows =>
          s.engineRead opTrick c l.bias (if l.biasEn then 4 * l.e else 0) (fun s bias =>
            let te := tiles.map (gateElems l.gfmt 256)
            let cols := (List.range l.e).map (l.column te)
            let zs := rows.map (fun r => let x := gateElems l.gfmt l.hdim r; cols.map (l.logit a.tsX x))
            let hr := (zs.map (fun z => (z.filter (·.2)).length)).foldl (· + ·) 0
            let bs := (List.range l.e).map (fun e => fieldN bias (4 * e) 4)
            k (if hr = 0 then s else s.countR53 c hr 0) (zs.map (fun z => l.dealHand bs (z.map (·.1))))))))

/-- Write the hand records of phase A. CW is written in phase G; what it holds until then is free (log 32). -/
def State.writeHands (s : State) (c : Nat) (a : TrickCmd) (k : Nat) (hs : List Hand) : State :=
  (hs.zip (List.range hs.length)).foldl (fun (s : State) x =>
    if s.ctxLive c then
      let (cw, s) := s.freeBytes 80
      s.engineWrite opTrick c (a.hand + 256 * x.2) (leBytes 8 (x.1.header k false) ++ x.1.idBytes ++ x.1.selBytes ++ cw ++ zeroBytes 48)
    else s) s

/-- The end of phase A: dispatch, and the wait for barrier 1 begins. -/
def State.dispatchFirst (s : State) (t : Trick) (hs : List Hand) : State :=
  let t := { t with hands := hs }
  let out := handsOutgoing hs 1
  if s.ctxLive t.ctx then
    s.dispatch t 1 out (fun s => s.putTrick ({ t with sent := out.length }.startWait s.now))
  else s

/-- Phase A of an accepted trick (R221, R252). -/
def State.phaseA (s : State) (t : Trick) : State :=
  let a := trickCmd t.cmd
  let l := layerRec t.layer
  let c := t.ctx
  if a.replay then
    s.engineReadAll opTrick c ((List.range a.t).map (fun i => (a.hand + 256 * i, 256))) [] (fun s recs =>
      let hs := recs.map (readHand (l.k + l.a))
      s.dispatchFirst t ((hs.zip (List.range hs.length)).map (fun x => s.placeHand l t.members (l.k + l.a) x.2 x.1)))
  else
    s.scoreAll c a l (fun s hs =>
      let hs := (hs.zip (List.range hs.length)).map (fun x => s.placeHand l t.members l.k x.2 x.1)
      let cards := (hs.map (fun h => (h.cards.filter (·.isSome)).length)).foldl (· + ·) 0
      let s := (s.writeHands c a l.k hs).count (offDealCtr c 0) cards
      s.dispatchFirst t hs)

/-- The members of a member table (R233); reserved bits are not looked at (R7) (log 73). -/
def memberTable (n : Nat) (b : List Byte) : List (Nat × Nat) :=
  (List.range n).map (fun i => let v := fieldN b (4 * i) 4; (bitsN v 14 0, bitsN v 20 15))

/-- Whether a layer's directory entries lie in the context's range (R231). -/
def State.dirInRange (s : State) (c : Nat) (l : Layer) : Bool :=
  let f := s.regN (offDirFirst c)
  f ≤ l.dirBase && l.dirBase + l.e ≤ f + s.regN (offDirCount c)

/-- The oldest command of a context at the Dealer window with an opcode. -/
def State.windowCmd (s : State) (c op : Nat) : Option WindowCmd := s.deal.window.find? (fun w => w.ctx == c && fieldN w.bytes 0 1 == op)

/-- Take a command from the window: the COPY that brought it ends. -/
def State.takeWindow (s : State) (w : WindowCmd) : State :=
  ({ s with deal := { s.deal with window := s.deal.window.erase w } }).finishCommand w.core w.req

/-- DEAL_TRICK: the oldest DEAL.TRICK of a context at the window is accepted, unless 16 are in flight or a DEAL.DIRSET waits (R239, R254, R255), and runs
phase A. -/
def execDealTrick (c : Ctx) (s : State) : Host.Outcome State Fault Refusal :=
  .next (s.unlessTripped fun s => match s.windowCmd c opTrick with
    | none => s
    | some w =>
      let a := trickCmd w.bytes
      if !s.ctxLive c || !s.windowsRead c || 16 ≤ s.inFlight c || s.deal.dirsets.any (fun d => d.1.fn == c.val) then s
      else if !trickFields w.bytes || (s.trick? c a.id).any (·.live) then s.fault c clsBadDesc opTrick
      else
        s.engineRead opTrick c a.layer 64 (fun s layer =>
          if !layerFields layer a.x a.ldx || !s.dirInRange c (layerRec layer) then s.fault c clsBadDesc opTrick
          else
            s.engineRead opTrick c a.member (4 * a.members) (fun s mt =>
              let ms := memberTable a.members mt
              if (ms.filter (fun m => s.isSelf m.1 && m.2 == c.val)).length ≠ 1 ∨ ms.any (fun m => 24640 ≤ m.1) then s.fault c clsBadDesc opTrick
              else
                let t := { s.trickOf c a.id with live := true, order := s.deal.nextOrder, cmd := w.bytes, layer := layer, members := ms.eraseDups }
                let s := (s.takeWindow w).putTrick t
                ({ s with deal := { s.deal with nextOrder := s.deal.nextOrder + 1 } }).phaseA t)))

/-! ### Phases B and D: capacity (R241 to R244) -/

/-- The fields of a slot record (Table 8.11). -/
def slotValid (c : Nat) (b : List Byte) : Bool := bitN (fieldN b 0 2) 0 && fieldN b 2 1 % 64 == c
def slotCapacity (b : List Byte) : Nat := fieldN b 4 4
def slotGroup (b : List Byte) : Nat := fieldN b 8 8
def slotCurd (b : List Byte) : Nat := fieldN b 0x10 8
def slotScales (b : List Byte) : Nat := fieldN b 0x18 8
def slotOut (b : List Byte) : Nat := fieldN b 0x20 8
def slotOutLd (b : List Byte) : Nat := fieldN b 0x28 4
def slotAdm (b : List Byte) : Nat := fieldN b 0x30 8

def Trick.record (t : Trick) (slot : Nat) : List Byte := tabGet [] t.records slot

/-- The expert slots of this package that a layer's directory entries name (R250). -/
def State.dirSlots (s : State) (l : Layer) : List Nat :=
  (List.range l.e).foldl (fun acc i =>
    let e := s.dirEntry (l.dirBase + i)
    if dirValid e then
      (List.range (dirReps e)).foldl (fun acc r => let h := dirHome e r; if h.1 = s.self then setAdd acc h.2 else acc) acc
    else acc) []

/-- Whether row p comes before row q (R242): by card, source package, token; two contexts of one package by their number. -/
def rowBefore (p q : StagedRow) : Bool :=
  decide (p.card < q.card) || (p.card == q.card && (decide (p.src < q.src) || (p.src == q.src && (decide (p.token < q.token) ||
    (p.token == q.token && decide (p.sctx < q.sctx))))))

def insertRow (r : StagedRow) (l : List StagedRow) : List StagedRow :=
  match l with
  | [] => [r]
  | x :: rest => if rowBefore r x then r :: x :: rest else x :: insertRow r rest

/-- The rows of a sub-trick in key order. -/
def Trick.ordered (t : Trick) (sub : Nat) : List StagedRow := (t.rows.filter (·.sub == sub)).foldl (fun l r => insertRow r l) []

/-- How many rows a slot has admitted. -/
def Trick.admitted (t : Trick) (slot : Nat) : Nat := (t.admits.filter (·.slot == slot)).length

/-- Admit or refuse one row. -/
def Trick.judge (t : Trick) (r : StagedRow) : Trick :=
  let b := t.record r.slot
  if (trickCmd t.cmd).replay then { t with admits := t.admits ++ [r] }
  else if !slotValid t.ctx b then { t with refused := t.refused ++ [(r, true)] }
  else if t.admitted r.slot < slotCapacity b then { t with admits := t.admits ++ [r] }
  else { t with refused := t.refused ++ [(r, false)] }

/-- The cells of a context's expert slot table, where flat memory holds it. -/
def State.slotTable (s : State) (c : Nat) : List Host.Cell :=
  match s.flatPieces (s.regN (offDealSlotBase c)) (64 * 4096) with
  | some l => s.mem.filter (fun e => l.any (fun p => p.2.1 ≤ e.1 && e.1 < p.2.1 + p.2.2))
  | none => []

/-- The record of a slot as phase B found it. -/
def State.slotAtB (s : State) (t : Trick) (slot : Nat) (now : List Byte) : List Byte :=
  match s.flatPieces (s.regN (offDealSlotBase t.ctx) + 64 * slot) 64 with
  | some l => l.flatMap (fun p => { s with mem := t.table }.readPhys p.2.1 p.2.2)
  | none => now

/-- Read the slot records a trick needs and has not read. -/
def State.readSlots (s : State) (t : Trick) (slots : List Nat) (k : State → Trick → State) : State :=
  let base := s.regN (offDealSlotBase t.ctx)
  let need := slots.filter (fun x => !tabHas t.records x)
  s.engineReadAll opTrick t.ctx (need.map (fun x => (base + 64 * x, 64))) [] (fun s bs =>
    k s { t with records := (need.zip bs).foldl (fun r x => tabInsert r x.1 x.2) t.records })

/-- Whey entries of the rows of a sub-trick refused to a member. -/
def Trick.wheyFor (t : Trick) (m : Nat × Nat) (sub : Nat) : List Byte :=
  (t.refused.filter (fun x => x.1.src == m.1 && x.1.sctx == m.2 && x.1.sub == sub)).flatMap (fun x => wheyEntry x.1.token x.1.card x.2)

/-- Decide capacity for a sub-trick (phases B and D). A record that no row and no directory entry named before phase D is taken as phase B found it (R241). The vats of refused rows are returned, and with SPILL set the whey of sub-trick 1 is told to every
source. -/
def State.capacity (s : State) (t : Trick) (sub : Nat) : State :=
  let l := layerRec t.layer
  let spill := (trickCmd t.cmd).spill
  let rows := t.ordered sub
  let slots := rows.foldl (fun acc r => setAdd acc r.slot) (if sub = 1 then s.dirSlots l else [])
  let late := if sub = 1 then [] else slots.filter (fun x => !tabHas t.records x)
  let t := if sub = 1 && spill then { t with table := s.slotTable t.ctx } else t
  s.readSlots t slots (fun s t =>
    let t := { t with records := t.records.map (fun e => if late.contains e.1 then (e.1, s.slotAtB t e.1 e.2) else e) }
    let before := t.refused.length
    let t := rows.foldl Trick.judge t
    let out := t.refused.drop before
    let t := { t with
      rows := t.rows.filter (·.sub != sub)
      arrived := t.arrived + rows.length
      cap1 := t.cap1 || sub == 1
      cap2 := t.cap2 || sub == 2 }.endWait
    let s := (out.foldl (fun (s : State) x => s.freeVat x.1.vat) s).count (offDealCtr t.ctx 2) out.length
    if spill && sub == 1 then
      let s := t.members.foldl (fun (s : State) m => s.sendNotice t.ctx t.id m nkWhey 1 0 (t.wheyFor m 1)) s
      s.putTrick (t.startWait s.now)
    else s.putTrick t)

/-! ### Phase C: re-deal (R245) -/

/-- Match a hand's whey cards to its alternates. -/
def Hand.redeal (k : Nat) (h : Hand) : Hand :=
  let whey := (List.range k).filter (fun i => (h.card? i).any (fun c => c.whey.isSome))
  let alts := (List.range (h.cards.length - k)).map (k + ·)
  let pairs := (alts.filter (fun i => (h.card? i).isSome)).zip whey
  { h with cards := (h.cards.zip (List.range h.cards.length)).map (fun x => x.1.map (fun c =>
      match pairs.find? (fun p => p.1 == x.2) with
      | some p => if c.home.isSome then { c with sub := 2, repl := some p.2 } else { c with whey := some true }
      | none => c)) }

/-- Phase C: the alternates go out in sub-trick 2, with its count notices. -/
def State.phaseC (s : State) (t : Trick) : State :=
  let k := (layerRec t.layer).k
  let hs := t.hands.map (Hand.redeal k)
  let out := handsOutgoing hs 2
  let t := { t with hands := hs }
  s.dispatch t 2 out (fun s =>
    s.putTrick ({ t with phaseC := true, sent := t.sent + out.length, spilled := out.length }.endWait.startWait s.now))

/-! ### Phase E: curds (R249 to R251) -/

/-- Write row r of a slot's curd: data, scales and its admission word. -/
def State.writeCurd (s : State) (t : Trick) (b : List Byte) (r : Nat) (x : StagedRow) : State :=
  let a := trickCmd t.cmd
  let c := t.ctx
  let bs := x.bytes
  let s := s.engineWrite opTrick c (slotCurd b + r * a.payData) (bs.take a.payData)
  let s := if a.payScale = 0 then s else s.engineWrite opTrick c (slotScales b + r * a.payScale) ((bs.drop a.payData).take a.payScale)
  s.engineWrite opTrick c (slotAdm b + 8 * r) (leBytes 8 (x.src + x.token * 2 ^ 15 + x.card * 2 ^ 35))

/-- Work one slot in phase E: its curd, and M. -/
def State.packSlot (s : State) (t : Trick) (named : List Nat) (slot : Nat) : State :=
  let b := t.record slot
  let rows := t.admits.filter (·.slot == slot)
  let n := (trickCmd t.cmd).rowBytes
  if rows.isEmpty && !(named.contains slot && slotValid t.ctx b) then s
  else
    let s := (rows.zip (List.range rows.length)).foldl (fun (s : State) x =>
      if s.ctxLive t.ctx then
        match s.vatPoisonAt x.1.vat.vat n with
        | (s, some f) => s.fault t.ctx clsUncorr f
        | (s, none) => s.writeCurd t b x.2 x.1
      else s) s
    if s.ctxLive t.ctx then s.engineWrite opTrick t.ctx (slotGroup b) (leBytes 4 rows.length) else s

/-- The slots with M > 0. -/
def Trick.usedSlots (t : Trick) : List Nat := t.admits.foldl (fun acc r => setAdd acc r.slot) []

def State.phaseE (s : State) (t : Trick) : State :=
  let a := trickCmd t.cmd
  let c := t.ctx
  let named := s.dirSlots (layerRec t.layer)
  let s := (t.records.map (·.1)).foldl (fun (s : State) x => if s.ctxLive c then s.packSlot t named x else s) s
  if s.ctxLive c then
    let used := t.usedSlots.foldl (fun m x => m + 2 ^ x) 0
    let s := if a.stat = 0 then s else s.engineWrite opTrick c (a.stat + 0x40) (leBytes 512 used)
    let s := t.admits.foldl (fun (s : State) r => s.freeVat r.vat) s
    (s.putTrick { t with phaseE := true }).bumpAfter opTrick c a.ready
  else s

/-! ### Phase G: combination (R246, R247, R256) -/

def BackRow.complete (r : BackRow) (n : Nat) : Bool := n ≤ (r.got.map (·.2)).foldl (· + ·) 0

/-- Whether every member has returned its rows and sent its combine notice. -/
def Trick.combineDone (t : Trick) : Bool :=
  match t.noticed nkCombine 1 with
  | some k => k == (t.back.filter (fun r => r.complete (trickCmd t.cmd).outBytes)).length
  | none => false

/-- A count of the statistics record. -/
def stat32 (n : Nat) : List Byte := leBytes 4 (min n 0xFFFFFFFF)

/-- The first 64 bytes of the statistics record (Table 8.9). -/
def State.statBytes (s : State) (t : Trick) (hs : List Hand) : List Byte :=
  let cards (p : Card → Bool) : Nat := (hs.map (fun h => (h.cards.filter (fun c => c.any p)).length)).foldl (· + ·) 0
  let hands (p : Hand → Bool) : Nat := (hs.filter p).length
  stat32 (trickCmd t.cmd).t ++ stat32 t.sent ++ stat32 t.arrived ++ stat32 t.admits.length ++ stat32 t.refused.length ++
  stat32 (cards (fun c => c.whey.isSome)) ++ stat32 t.spilled ++ stat32 (hands (fun h => !h.any Card.accepted)) ++
  stat32 (cards (fun c => c.whey == some true)) ++ stat32 (hands (·.zero)) ++ stat32 (hands (·.nan)) ++ stat32 t.usedSlots.length ++
  leBytes 8 t.waited ++ leBytes 2 s.sec.arithRev.toNat ++ zeroBytes 6

/-- Phase G: combine weights and final headers, but for a replay; statistics; 1 added at DONE_PTR; the trick ends. -/
def State.phaseG (s : State) (t : Trick) : State :=
  let a := trickCmd t.cmd
  let k := (layerRec t.layer).k
  let c := t.ctx
  let work := t.hands.map (fun h => let r := h.combine a.renorm (a.inherit_ && a.spill); (if a.replay then h else { h with zero := r.2 }, r.1))
  let s := if a.replay then s else (work.zip (List.range work.length)).foldl (fun (s : State) x =>
    if s.ctxLive c then
      let s := s.engineWrite opTrick c (a.hand + 256 * x.2) (leBytes 8 (x.1.1.header k true))
      if s.ctxLive c then s.engineWrite opTrick c (a.hand + 256 * x.2 + 0x80) (x.1.2.flatMap (leBytes 4)) else s
    else s) s
  if s.ctxLive c then
    let hs := work.map (·.1)
    let s := if a.stat = 0 then s else s.engineWrite opTrick c a.stat (s.statBytes t hs)
    let s := (s.count (offDealCtr c 3) ((hs.filter (fun h => !h.any Card.accepted)).length)).count (offDealCtr c 4) t.waited
    ({ s with deal := { s.deal with tricks := s.deal.tricks.filter (fun x => !(x.ctx == c && x.id == t.id)) } }).bumpAfter opTrick c a.done
  else s

/-! ### Going on -/

/-- Whether the Dealer may work a trick's phases: the context lives, no write of it is held (R425), and what a re-deal reads can be read. -/
def State.trickRuns (s : State) (c : Nat) : Bool :=
  match s.ctx? c with
  | some x => x.phase != .ending && x.heldWrites.isEmpty
  | none => false

/-- Whether a package address can be read now, if it names a cluster window. -/
def State.notAway (s : State) (c a : Nat) : Bool :=
  match addrForm a with
  | .cluster .. => s.windowsRead c
  | _ => true

/-- Run the next phase of a trick whose barrier is complete, if there is one (Table 8.1). -/
def State.trickPhase (s : State) (t : Trick) : Option State :=
  let a := trickCmd t.cmd
  if !t.live || !s.trickRuns t.ctx then none
  else if !t.cap1 then (if t.barrier 1 then some (s.capacity t 1) else none)
  else if a.spill && !t.phaseC then (if (t.noticed nkWhey 1).isSome && s.notAway t.ctx a.pay then some (s.phaseC t) else none)
  else if a.spill && !t.cap2 then (if t.barrier 2 then some (s.capacity t 2) else none)
  else if !t.phaseE then some (s.phaseE t)
  else if t.returned && t.combineDone then some (s.phaseG t.endWait)
  else none

/-- Run the phases of a trick as far as they go; there are at most seven. -/
def State.trickAdvance (s : State) (c : Nat) (id : W32) (fuel : Nat) : State :=
  match fuel with
  | 0 => s
  | n + 1 =>
    match s.trick? c id with
    | none => s
    | some t =>
      match s.trickPhase t with
      | some s => s.trickAdvance c id n
      | none => s

def State.advanceTrick (s : State) (c : Nat) (id : W32) : State := s.trickAdvance c id 8

/-- Go on with every trick of a context: it is Active again. -/
def State.advanceTricks (s : State) (c : Nat) : State :=
  (s.deal.tricks.filter (fun t => t.ctx == c)).foldl (fun (s : State) t => s.advanceTrick c t.id) s

/-! ### Phase F: DEAL.RETURN (R248, R254) -/

/-- The field rules of DEAL.RETURN. -/
def returnFields (b : List Byte) : Bool := b.length == 64 && fieldN b 0 1 == 0x52 && fieldZero b 1 3 && fieldZero b 8 56

/-- The admitted rows with their places among their slot's admissions. -/
def Trick.placed (t : Trick) : List (StagedRow × Nat) :=
  t.usedSlots.flatMap (fun x => let l := t.admits.filter (·.slot == x); l.zip (List.range l.length))

/-- Phase F: the output rows go back to their sources, then a combine notice to every source. -/
def State.phaseF (s : State) (t : Trick) : State :=
  let a := trickCmd t.cmd
  let rows := t.placed
  s.engineReadAll opReturn t.ctx (rows.map (fun x => let b := t.record x.1.slot; (slotOut b + x.2 * slotOutLd b, a.outBytes))) [] (fun s outs =>
    let s := (rows.zip outs).foldl (fun (s : State) x =>
      let r := x.1.1
      s.sendRow ⟨s.self, t.ctx, r.src, r.sctx, t.id, r.token, r.card, r.sub, true, r.slot⟩ x.2) s
    let s := t.members.foldl (fun (s : State) m =>
      s.sendNotice t.ctx t.id m nkCombine 1 (t.admits.filter (fun r => r.src == m.1 && r.sctx == m.2)).length
        (t.wheyFor m (if a.spill then 2 else 1))) s
    (s.putTrick ({ t with returned := true }.startWait s.now)).advanceTrick t.ctx t.id)

/-- DEAL_RETURN: the oldest DEAL.RETURN of a context at the window. -/
def execDealReturn (c : Ctx) (s : State) : Host.Outcome State Fault Refusal :=
  .next (s.unlessTripped fun s => match s.windowCmd c opReturn with
    | none => s
    | some w =>
      if !s.ctxLive c || !s.windowsRead c then s
      else
        match s.trick? c (BitVec.ofNat 32 (fieldN w.bytes 4 4)) with
        | some t =>
          if returnFields w.bytes && t.live && t.phaseE && !t.returned then (s.takeWindow w).phaseF t else s.fault c clsBadDesc opReturn
        | none => s.fault c clsBadDesc opReturn)

/-! ### Rows arriving (R237, R300) -/

/-- The vat tag of a row. -/
def rowVatTag (t : RowTag) : VatTag := ⟨0, t.id.toNat + t.orig * 2 ^ 32 + t.octx * 2 ^ 48, t.token + t.card * 2 ^ 20, t.sub⟩

/-- Engine class of the Dealer (R264). -/
def engDealer : Nat := 0

/-- The tag of the larger vat that a row moves to. -/
def widerTag (t : VatTag) (k : Nat) : VatTag := { t with c := t.c + 4 * (k + 1) }

/-- Give up what a row has asked for or been granted beside its vat, but for class k. -/
def State.dropWider (s : State) (r : StagedRow) (k : Nat) : State :=
  let base := { r.vat.tag with c := r.vat.tag.c % 4 }
  ((List.range 6).filter (· != k)).foldl (fun s j =>
    let tag := widerTag base j
    if tag = r.vat.tag then s
    else
      let s := s.dropRequest r.vat.ctx r.vat.eng tag
      match s.vatFor r.vat.ctx r.vat.eng tag with
      | some h => s.freeVat h
      | none => s) s

/-- A row's first request is for what is known of its length: PAY_DATA + PAY_SCALE once its trick is accepted. A request for less that still waits becomes one for that, in its place, and a vat
granted to it in between that is too small is freed (log 33). -/
def State.askRow (s : State) (c n : Nat) (tag : VatTag) : Option VatHold × State :=
  let k := fitClass n
  let mine (r : VatReq) : Bool := r.ctx == c && r.eng == engDealer && r.tag == tag
  let s :=
    if s.vats.waiting.any (fun r => mine r && decide (r.k < k)) then
      ({ s with vats := { s.vats with waiting := s.vats.waiting.map (fun r => if mine r then { r with k := k } else r) } }).serveVats
    else s
  let s := match s.vatFor c engDealer tag with
    | some h => if vatSize h.vat.k < n then s.freeVat h else s
    | none => s
  if s.vats.waiting.any mine then (none, s) else s.askVat c engDealer n tag

/-- The vat of a row's piece that ends at byte `fin`: the row's own if it holds the row as far as is known, else the smallest that does, to which the row moves (log 33). -/
def State.rowVat (s : State) (r : StagedRow) (fin : Nat) : Option VatHold × State :=
  if fin ≤ vatSize r.vat.vat.k then (some r.vat, s)
  else
    let tag := widerTag { r.vat.tag with c := r.vat.tag.c % 4 } (fitClass fin)
    if s.vats.waiting.any (fun q => q.ctx == r.vat.ctx && q.eng == r.vat.eng && q.tag == tag) then (none, s)
    else
      match (s.dropWider r (fitClass fin)).askVat r.vat.ctx r.vat.eng fin tag with
      | (none, s) => (none, s)
      | (some h, s) =>
        match s.vatPoisonIn r.vat.vat (r.got.map (fun e => (e.1, e.2.length))) with
        | (s, some f) => (none, s.fault r.vat.ctx clsUncorr f)
        | (s, none) => (some h, (r.got.foldl (fun (s : State) e => s.vatWritten h.vat e.1 e.2) s).freeVat r.vat)

/-- Stage a piece of a row at its owner. Of the two states the first is there when it is staged, and the second goes on without it: none while its vat is not granted. A row that comes before its trick is accepted takes the
smallest class that holds what of it has come (log 33). -/
def State.stageRow (s : State) (p : Packet) : Option State × State :=
  let g := rowTag p
  let c := p.dctx.toNat
  let off := rowOffset p
  let t := s.trickOf c g.id
  let same (r : StagedRow) : Bool := r.src == g.orig && r.sctx == g.octx && r.token == g.token && r.card == g.card && r.sub == g.sub
  let known := if t.live then (trickCmd t.cmd).rowBytes else off + p.payload.length
  match t.rows.find? same with
  | some r =>
    match s.rowVat r (max known (off + p.payload.length)) with
    | (none, s) => (none, s)
    | (some h, s0) =>
      let s := s0.vatWritten h.vat off p.payload
      let t := { t with rows := t.rows.map (fun x => if same x then { x with got := tabInsert x.got off p.payload, vat := h } else x) }
      (some ((s.putTrick t).advanceTrick c g.id), s0)
  | none =>
    match s.askRow c known (rowVatTag g) with
    | (none, s) => (none, s)
    | (some h, s) =>
      let s := s.vatWritten h.vat off p.payload
      let r : StagedRow := ⟨g.orig, g.octx, g.token, g.card, g.sub, g.slot, [(off, p.payload)], h⟩
      (some ((s.putTrick { t with rows := t.rows ++ [r] }).advanceTrick c g.id), s)

/-- A piece of a returned row reaches its source: it is written at once (R248). One that fits no card of a trick in flight is dropped. -/
def State.landReturn (s : State) (p : Packet) : State :=
  let g := rowTag p
  let c := p.dctx.toNat
  let off := rowOffset p
  match s.trick? c g.id with
  | none => s
  | some t =>
    let a := trickCmd t.cmd
    let l := layerRec t.layer
    if !t.live || a.t ≤ g.token || l.k + l.a ≤ g.card || a.outBytes < off + p.payload.length then s
    else
      let s := s.engineWrite opTrick c (a.ret + (g.token * (l.k + l.a) + g.card) * a.outBytes + off) p.payload
      let same (r : BackRow) : Bool := r.token == g.token && r.card == g.card
      let back := if t.back.any same then t.back.map (fun r => if same r then { r with got := tabInsert r.got off p.payload.length } else r)
        else t.back ++ [⟨g.token, g.card, [(off, p.payload.length)]⟩]
      (s.putTrick { t with back := back }).advanceTrick c g.id

/-! ### Gateways and bundles (R300, R302) -/

/-- The far-end package a row bound for package q leaves this gateway for; none when it does not leave by a G-port of this package. -/
def State.farEnd (s : State) (q : Nat) : Option Nat :=
  match s.fab.pos with
  | none => none
  | some (ch, r, c) =>
    if q / 64 = ch then none
    else
      match s.target q ch with
      | some ⟨pkg, some (j, _), _⟩ => if pkg = 8 * r + c then (s.port (14 + j)).peer else none
      | some _ => none
      | none =>
        let w := s.gwEntry (q / 64)
        if gwValid w ∧ gwPkg w = 8 * r + c then (s.port (14 + gwPort w)).peer else none

/-- A piece as a bundle carries it (Table 10.10). -/
def bundlePiece (p : Packet) : List Byte :=
  let n := p.payload.length
  leBytes 2 (pktOp p 0x18 2) ++ leBytes 2 p.final.toNat ++ leBytes 1 (pktOp p 0x1A 1) ++ leBytes 1 p.dctx.toNat ++ leBytes 2 n ++
  leBytes 4 (pktOp p 0x10 4) ++ leBytes 4 (pktOp p 0x14 4) ++ leBytes 4 (rowOffset p) ++ leBytes 2 (pktOp p 0x1E 2) ++ zeroBytes 2 ++
  p.payload ++ zeroBytes (ceilDiv n 8 * 8 - n)

def State.gathered (s : State) (f : Nat) : List Packet := tabGet [] s.fab.gather f
def State.setGathered (s : State) (f : Nat) (l : List Packet) : State := { s with fab := { s.fab with gather := tabSet [] s.fab.gather f l } }

/-- Send the bundle held for a far-end package. -/
def State.flushBundle (s : State) (f : Nat) : State :=
  let l := s.gathered f
  if l.isEmpty then s
  else (s.setGathered f []).sendSeq (s.mkPacket 0x31 2 f 0 0 [(0x10, 2, l.length)] (l.flatMap bundlePiece)) none

/-- Hold a piece for a far-end package; a bundle it would not fit in goes first. -/
def State.gatherPiece (s : State) (f : Nat) (p : Packet) : State :=
  let held := ((s.gathered f).map (fun x => (bundlePiece x).length)).foldl (· + ·) 0
  let s := if 2048 < held + (bundlePiece p).length then s.flushBundle f else s
  s.setGathered f (s.gathered f ++ [p])

/-- A piece too long for a bundle in two. -/
def cutPiece (p : Packet) : List Packet :=
  if p.payload.length ≤ 2024 then [p]
  else
    let off := rowOffset p
    let rest := p.opfield.toNat / 2 ^ 112 * 2 ^ 112 + (off + 2024) * 2 ^ 88 + p.opfield.toNat % 2 ^ 88
    [{ p with payload := p.payload.take 2024 }, { p with payload := p.payload.drop 2024, opfield := BitVec.ofNat 128 rest }]

/-- Send a row on toward its final package. -/
def State.passRow (s : State) (p : Packet) : State := s.sendPiece (rowTag p) (rowOffset p) p.payload

/-- A row for another package: gathered for the far end of an outgoing G-link, whose bundle goes when no further piece for it is held, or passed on; none
when it leaves by a G-port whose far end is not known. -/
def State.forwardRow (s : State) (p : Packet) : Option State :=
  let q := p.final.toNat
  match s.farEnd q with
  | some f =>
    let s := (cutPiece p).foldl (fun (s : State) x => s.gatherPiece f x) s
    if s.fab.inbox.any (fun x => x.typ == 0x30 && !s.isSelf x.final.toNat && s.farEnd x.final.toNat == some f) then some s
    else some (s.flushBundle f)
  | none => if s.isSelf (s.rowHop q) then none else some (s.passRow p)

/-- Try to take one TRICK_ROW packet; none when it has to wait. -/
def State.takeRow (s : State) (p : Packet) : Option State × State :=
  let out := s.setInbox (s.fab.inbox.erase p)
  if !s.isSelf p.final.toNat then (out.forwardRow p, s)
  else if !s.ctxTakes p.dctx.toNat then (some out, s)
  else if (rowTag p).ret then (some (out.landReturn p), s)
  else
    match out.stageRow p with
    | (some t, _) => (some t, s)
    | (none, t) => (none, t.setInbox s.fab.inbox)

/-- Take the first TRICK_ROW packet that can be taken. One that waits for a vat holds its block's input: the later rows of its context and of its stream wait behind it (R267). -/
def State.takeRows (s : State) (l : List Packet) (held : List Packet) : State :=
  match l with
  | [] => s
  | p :: r =>
    if held.any (fun h => h.src == p.src || (h.dctx == p.dctx && s.isSelf p.final.toNat)) then s.takeRows r held
    else
      match s.takeRow p with
      | (some s, _) => s
      | (none, s) => s.takeRows r (held ++ [p])

/-- TRICK_ROW: the oldest row piece that can be taken is staged, returned, bundled or passed on. -/
def execTrickRow (s : State) : Host.Outcome State Fault Refusal :=
  .next (s.unlessTripped fun s => s.takeRows (s.fab.inbox.filter (fun p => p.typ == 0x30)) [])

/-- Unpack the pieces of a bundle. -/
def State.unpack (s : State) (n : Nat) (b : List Byte) : State :=
  match n with
  | 0 => s
  | k + 1 =>
    let len := fieldN b 6 2
    if b.length < 24 + len ∨ len = 0 ∨ 2048 < len then s
    else
      let tc := fieldN b 0x0C 4
      let tag : RowTag := ⟨fieldN b 0 2 % 2 ^ 15, fieldN b 4 1 % 64, fieldN b 2 2 % 2 ^ 15, fieldN b 5 1 % 64, BitVec.ofNat 32 (fieldN b 8 4),
        bitsN tc 19 0, bitsN tc 24 20, (bitN tc 25).toNat + 1, bitN tc 26, fieldN b 0x14 2 % 2 ^ 12⟩
      (s.sendPiece tag (fieldN b 0x10 4 % 2 ^ 19) ((b.drop 24).take len)).unpack k (b.drop (24 + ceilDiv len 8 * 8))

/-- TRICK_BUNDLE: the oldest bundle that has arrived is unpacked. -/
def execTrickBundle (s : State) : Host.Outcome State Fault Refusal :=
  .next (s.unlessTripped fun s => match s.takeInbox 0x31 with
    | none => s
    | some (p, s) => s.unpack (pktOp p 0x10 2) p.payload)

/-! ### Notices arriving (R238, R303) -/

/-- Mark the cards that whey entries name. -/
def markWhey (hs : List Hand) (entries : List Byte) : List Hand :=
  (List.range (entries.length / 8)).foldl (fun hs i =>
    let e := fieldN entries (8 * i) 8
    let tok := bitsN e 19 0
    let card := bitsN e 24 20
    match hs[tok]? with
    | some h => hs.set tok { h with cards := (h.cards.zip (List.range h.cards.length)).map (fun x =>
        if x.2 = card then x.1.map (fun c => { c with whey := some (bitN e 25) }) else x.1) }
    | none => hs) hs

/-- Join a part to a trick's notices. -/
def Trick.addPart (t : Trick) (p : Packet) : Trick :=
  let nk := pktOp p 0x14 1
  let kind := nk % 4
  let sub := (bitN nk 2).toNat + 1
  let same (n : NoticeIn) : Bool := n.src == p.src.toNat && n.sctx == p.sctx.toNat && n.kind == kind && n.sub == sub
  let part := pktOp p 0x16 2
  let l := if t.notices.any same then t.notices.map (fun n => if same n then { n with got := tabInsert n.got part p.payload } else n)
    else t.notices ++ [⟨p.src.toNat, p.sctx.toNat, kind, sub, pktOp p 0x18 2, [(part, p.payload)], pktOp p 0x1C 4⟩]
  let t := { t with notices := l }
  match l.find? same with
  | some n => if n.complete && kind != nkCount then { t with hands := markWhey t.hands n.entries } else t
  | none => t

/-- TRICK_NOTICE: the oldest notice that has arrived and waits behind no row of its stream is counted; a barrier it completes lets its phase run. -/
def execTrickNotice (s : State) : Host.Outcome State Fault Refusal :=
  .next (s.unlessTripped fun s => match s.peekBehind 0x32 0x30 with
    | none => s
    | some p =>
      let s := s.setInbox (s.fab.inbox.erase p)
      let c := p.dctx.toNat
      let id := BitVec.ofNat 32 (pktOp p 0x10 4)
      let t := s.trickOf c id
      if !s.ctxTakes c || (!t.live && pktOp p 0x14 1 % 4 != nkCount) || pktOp p 0x18 2 ≤ pktOp p 0x16 2 then s
      else (s.putTrick (t.addPart p)).advanceTrick c id)

/-- The barrier a trick waits at: 0 sub-trick 1, 1 whey, 2 sub-trick 2, 3 combine (Table 14.16). -/
def Trick.barrierNo (t : Trick) : Nat :=
  let a := trickCmd t.cmd
  if !t.cap1 then 0 else if a.spill && !t.phaseC then 1 else if a.spill && !t.cap2 then 2 else 3

/-- Whether the barrier a trick waits at is complete, though its phase may still be held (R423). -/
def Trick.barrierMet (t : Trick) : Bool :=
  match t.barrierNo with
  | 0 => t.barrier 1
  | 1 => (t.noticed nkWhey 1).isSome
  | 2 => t.barrier 2
  | _ => t.combineDone

/-- TRICK_STALLED: a barrier has waited longer than DEAL_WATCHDOG; told once for each barrier (R240). -/
def execTrickStalled (c : Ctx) (trickId : W32) (s : State) : Host.Outcome State Fault Refusal :=
  .next (s.unlessTripped fun s => match s.trick? c trickId with
    | none => s
    | some t =>
      match t.stallFrom with
      | some f =>
        if t.live && !t.barrierMet && s.regN offDealWatchdog * 1000000 < s.now - f then
          let s := (s.putTrick { t with stallFrom := none }).count (offDealCtr c 5) 1
          (s.eventCtx c 0x20 trickId.toNat t.barrierNo).mgmtEvent 0x20 (some c.val) trickId.toNat t.barrierNo
        else s
      | none => s)

/-! ### The expert directory (R255) -/

/-- The field rules of Table 8.8. -/
def State.dirsetFields (s : State) (c : Nat) (b : List Byte) : Bool :=
  let f := fieldN b 8 4
  let n := fieldN b 0x0C 4
  let first := s.regN (offDirFirst c)
  let count := s.regN (offDirCount c)
  fieldZero b 1 3 && 1 ≤ n && n ≤ count && first ≤ f && f + n ≤ first + count && fieldN b 0x10 8 % 16 == 0 && fieldZero b 0x18 40 &&
  (match addrForm (fieldN b 0x10 8) with | .native .. | .legacy .. => true | _ => false)

/-- Write the entries and complete; the reserved bits of an entry are ignored (R7). -/
def State.applyDirset (s : State) (d : DescRef) (b : List Byte) : State :=
  let f := fieldN b 8 4
  let n := fieldN b 0x0C 4
  s.descRead d (fieldN b 0x10 8) (16 * n) (fun s bs =>
    let dir := (List.range n).foldl (fun t i => tabSet 0 t (f + i) (BitVec.ofNat 128 (fieldN bs (16 * i) 16 % 2 ^ 111))) s.deal.dir
    let s := { s with deal := { s.deal with dir := dir, dirsets := s.deal.dirsets.filter (fun x => x.1 != d) } }
    s.finish d 0 [])

/-- DEAL_DIRSET: applied at once when no trick of the context is in flight; else it waits at the head of its ring. -/
def execDealDirset (fn : Fn) (ring : Ring) (s : State) : Host.Outcome State Fault Refusal :=
  .next (s.onDesc fn ring 0x58 (fun s d b =>
    if s.deal.dirsets.any (fun x => x.1.fn == d.fn && x.1.ring == d.ring) then s
    else if !s.dirsetFields d.fn b then s.descBad d
    else if s.inFlight d.fn = 0 then s.applyDirset d b
    else { s with deal := { s.deal with dirsets := s.deal.dirsets ++ [(d, b)] } }))

/-- DIRSET_APPLY: the context's tricks have drained. -/
def execDirsetApply (fn : Fn) (ring : Ring) (s : State) : Host.Outcome State Fault Refusal :=
  .next (s.onDesc fn ring 0x58 (fun s d b =>
    if s.deal.dirsets.any (fun x => x.1 == d) && s.inFlight d.fn == 0 then s.applyDirset d b else s))

/-- A torn-down context's tricks, commands and directory updates are dropped (R240, R420). Its vats go back with the others it held (R271). -/
def State.dropDealer (s : State) (c : Nat) : State :=
  { s with deal := { s.deal with
      window := s.deal.window.filter (fun w => w.ctx != c)
      tricks := s.deal.tricks.filter (fun t => t.ctx != c)
      dirsets := s.deal.dirsets.filter (fun d => d.1.fn != c) } }

end Sys2Proof.Machine
end

