-- ==== Sys2Proof/Machine/Coll.lean ====
section
/-!
DEFINITION. Collectives and the ring engine (spec/12_collectives.md): launch (R330 to R333), chunks and owners (R334), reduction in rank order (R336 to R338),
credits and vats (R340, R341), chunk integrity (R342), completion and failure (R344, R345), pauses and the watchdog (R346, R348), events that meet (R349) and the counters (R350).

A chunk operation (R346) is one step here: the pieces of a chunk that is sent go to their stream at once, and the stream holds what has no room.
-/
namespace Sys2Proof.Machine

/-! ### The descriptor (Tables 12.1 and 12.2) -/

structure CollCmd where
  op     : Nat
  fmt    : Nat
  sat    : Bool
  chunk  : Nat
  id     : W32
  n      : Nat
  root   : Nat
  bytes  : Nat
  inp    : Nat
  out    : Nat
  member : Nat
  aux    : Nat
  window : Nat
deriving DecidableEq, Repr

def collCmd (b : List Byte) : CollCmd where
  op := fieldN b 1 1
  fmt := fieldN b 2 1 % 16
  sat := bitN (fieldN b 2 1) 4
  chunk := 2 ^ (if fieldN b 3 1 = 0 then 16 else fieldN b 3 1)
  id := BitVec.ofNat 32 (fieldN b 8 4)
  n := fieldN b 0x0C 2
  root := fieldN b 0x0E 2
  bytes := fieldN b 0x10 8
  inp := fieldN b 0x18 8
  out := fieldN b 0x20 8
  member := fieldN b 0x28 8
  aux := fieldN b 0x30 8
  window := if fieldN b 0x38 2 = 0 then 16 else fieldN b 0x38 2

def opRS : Nat := 0
def opAG : Nat := 1
def opAR : Nat := 2
def opBC : Nat := 3
def opRed : Nat := 4
def opA2A : Nat := 5

/-- Whether an operation adds. -/
def CollCmd.reduces (a : CollCmd) : Bool := a.op == opRS || a.op == opAR || a.op == opRed
/-- Bytes of an element of a collective format. -/
def collElem (fmt : Nat) : Nat := match fmt with | 9 => 4 | 0xB => 4 | 8 => 2 | 0xA => 2 | _ => 1

/-! ### Chunks and owners (R334) -/

/-- Bytes of an all-to-all share (log 74). -/
def CollCmd.share (a : CollCmd) : Nat := a.bytes / max 1 a.n
/-- Chunks of the buffer, or of one share. -/
def CollCmd.nc (a : CollCmd) : Nat := ceilDiv (if a.op = opA2A then a.share else a.bytes) a.chunk
/-- The first chunk a rank owns, and how many. -/
def CollCmd.first (a : CollCmd) (r : Nat) : Nat :=
  if a.op = opBC ∨ a.op = opRed then 0 else if a.op = opA2A then 0 else r * a.nc / max 1 a.n
def CollCmd.count (a : CollCmd) (r : Nat) : Nat :=
  if a.op = opBC ∨ a.op = opRed then (if r = a.root then a.nc else 0)
  else if a.op = opA2A then 0
  else (r + 1) * a.nc / max 1 a.n - r * a.nc / max 1 a.n
/-- The rank that owns a chunk. -/
def CollCmd.owner (a : CollCmd) (k : Nat) : Nat :=
  ((List.range a.n).find? (fun r => a.first r ≤ k && k < a.first r + a.count r)).getD a.n
/-- Bytes of a chunk. -/
def CollCmd.len (a : CollCmd) (k : Nat) : Nat :=
  if a.op = opA2A then min a.chunk (a.share - k % 65536 * a.chunk) else min a.chunk (a.bytes - k * a.chunk)
/-- Whether a number names a chunk. -/
def CollCmd.isChunk (a : CollCmd) (k : Nat) : Bool :=
  if a.op = opA2A then k / 65536 < a.n && k % 65536 < a.nc else k < a.nc

/-- Kinds of Table 12.6. -/
def ckContrib : Nat := 0
def ckResult : Nat := 1
def ckCopy : Nat := 2

/-- Where rank r reads a chunk it sends (R342). -/
def CollCmd.src (a : CollCmd) (r kind k : Nat) : Nat :=
  if kind = ckContrib then a.inp + k * a.chunk
  else if kind = ckResult then a.out + k * a.chunk
  else if a.op = opAG then a.inp + (k - a.first r) * a.chunk
  else if a.op = opA2A then a.inp + k / 65536 * a.share + k % 65536 * a.chunk
  else a.inp + k * a.chunk

/-- Where a rank writes a chunk: rank r's own result, or what came from a sender. -/
def CollCmd.dst (a : CollCmd) (r from_ k : Nat) : Nat :=
  if a.op = opRS then a.out + (k - a.first r) * a.chunk
  else if a.op = opA2A then a.out + from_ * a.share + k % 65536 * a.chunk
  else a.out + k * a.chunk

/-- The name of a written chunk: for all-to-all, by the rank it came from. -/
def CollCmd.key (a : CollCmd) (from_ k : Nat) : Nat := if a.op = opA2A then from_ * 65536 + k % 65536 else k

/-- Bytes of rank r's input and output (Table 12.3). -/
def CollCmd.ownBytes (a : CollCmd) (r : Nat) : Nat :=
  min a.bytes ((a.first r + a.count r) * a.chunk) - min a.bytes (a.first r * a.chunk)
def CollCmd.inBytes (a : CollCmd) (r : Nat) : Nat :=
  if a.op = opAG then a.ownBytes r else if a.op = opBC then (if r = a.root then a.bytes else 0) else a.bytes
def CollCmd.outBytes (a : CollCmd) (r : Nat) : Nat :=
  if a.op = opRS then a.ownBytes r else if a.op = opRed then (if r = a.root then a.bytes else 0) else a.bytes

/-- The chunks a rank sends to another as copies. -/
def CollCmd.copies (a : CollCmd) (r toWhom : Nat) : List Nat :=
  if a.op = opAG ∨ a.op = opBC then (List.range (a.count r)).map (a.first r + ·)
  else if a.op = opA2A then (List.range a.nc).map (65536 * toWhom + ·)
  else []

/-- The names of the chunks a rank writes that come from another rank, or from itself. -/
def CollCmd.fromRank (a : CollCmd) (me from_ : Nat) : List Nat :=
  if a.op = opAG ∨ a.op = opAR then (List.range (a.count from_)).map (a.first from_ + ·)
  else if a.op = opBC then (if from_ = a.root ∧ !(me == a.root && a.out == a.inp) then List.range a.nc else [])
  else if a.op = opA2A then (List.range a.nc).map (65536 * from_ + ·)
  else if me = from_ then (List.range (a.count me)).map (a.first me + ·)
  else []

/-! ### Checks at acceptance (R330) -/

/-- Auxiliary record fields. -/
def auxUsed (x : List Byte) : Nat := fieldN x 0 8
def auxSeg (x : List Byte) : Nat := fieldN x 8 8
def auxZout (x : List Byte) : Nat := fieldN x 0x10 8
def auxWait (x : List Byte) : Nat := fieldN x 0x18 8
def auxVal (x : List Byte) : Nat := fieldN x 0x20 8
def auxDone (x : List Byte) : Nat := fieldN x 0x28 8

/-- Whether a range is native flat memory of the context. -/
def State.nativeOf (s : State) (c a n : Nat) (wr : Bool) : Bool :=
  (match addrForm a with | .native .. => true | _ => false) && s.flatAllowed c a n wr && (s.flatPieces a n).isSome

/-- The field rules of Table 12.1 that need no memory. -/
def collFields (b : List Byte) : Bool :=
  let a := collCmd b
  let f := fieldN b 2 1
  let g := fieldN b 3 1
  b.length == 64 && a.op ≤ 5 && f < 32 &&
  (if a.op = opA2A then a.fmt == 0 else a.fmt == 9 || a.fmt == 8 || a.fmt == 0xA || a.fmt == 1 || a.fmt == 2 || a.fmt == 0xB) &&
  (g == 0 || (12 ≤ g && g ≤ 18)) && 1 ≤ a.n && a.n ≤ 24640 &&
  (if a.op = opBC ∨ a.op = opRed then decide (a.root < a.n) else a.root == 0) && 1 ≤ a.bytes &&
  (if a.op = opA2A then a.bytes % a.n == 0 && a.bytes % 4 == 0 && a.nc ≤ 65536 else a.bytes % collElem a.fmt == 0) &&
  a.member % 4 == 0 && a.aux % 64 == 0 && fieldN b 0x38 2 ≤ 128 && fieldZero b 0x3A 6

/-- The rules of Table 12.2. -/
def State.auxFields (s : State) (c : Nat) (a : CollCmd) (x : List Byte) : Bool :=
  let bits := ceilDiv (ceilDiv a.bytes (max 1 (auxSeg x))) 8
  (auxUsed x == 0 || (a.reduces && auxSeg x != 0 && auxSeg x % a.chunk == 0 && s.nativeOf c (auxUsed x) bits false)) &&
  (auxZout x == 0 || s.nativeOf c (auxZout x) (ceilDiv a.nc 8) true) &&
  (auxWait x == 0 || (auxWait x % 8 == 0 && s.nativeOf c (auxWait x) 8 false)) &&
  (auxDone x == 0 || s.nativeOf c (auxDone x) 8 true) && fieldZero x 0x30 16

/-- Whether the buffers of rank r are native flat memory of the context; a pointer of which rank r uses no byte has to name one all the same, but for the input of a broadcast, which every
rank but the root ignores (Table 12.3). -/
def State.collBuffers (s : State) (c : Nat) (a : CollCmd) (r : Nat) : Bool :=
  ((a.op == opBC && r != a.root) || s.nativeOf c a.inp (max 1 (a.inBytes r)) false) && s.nativeOf c a.out (max 1 (a.outBytes r)) true

/-! ### Addition (R338, Table 12.4) -/

/-- One element: its code and the headroom events. -/
def collAdd (fmt : Nat) (sat : Bool) (x y : Nat) : Nat × Nat :=
  match efmtOf fmt with
  | some (.fp f) =>
    (match fadd (decodeFp f x) (decodeFp f y) with
     | .nan => (f.nanCode.getD f.maxCode, 0)
     | .inf neg => (signBit f neg + f.infCode.getD f.maxCode, 0)
     | .fin neg n d e =>
       let m := roundMag f .rne n d e
       if m ≤ f.maxCode then (signBit f neg + m, 0)
       else if sat || f.infCode.isNone then (signBit f neg + f.maxCode, 1)
       else (signBit f neg + f.infCode.getD f.maxCode, 0))
  | _ =>
    let v := intOf 32 x + intOf 32 y
    if sat && decide (v > 2 ^ 31 - 1) then (intCode 32 (2 ^ 31 - 1), 1)
    else if sat && decide (v < -(2 ^ 31)) then (intCode 32 (-(2 ^ 31)), 1)
    else (intCode 32 v, 0)

/-- A first contribution's element: a NaN becomes canonical. -/
def collFirst (fmt x : Nat) : Nat :=
  match efmtOf fmt with
  | some (.fp f) => if (decodeFp f x).isNan then f.nanCode.getD x else x
  | _ => x

/-- Add a chunk of bytes to the accumulator (R336). -/
def addChunk (fmt : Nat) (sat : Bool) (acc : Option (List Byte)) (bs : List Byte) : List Byte × Nat :=
  let w := collElem fmt
  let n := bs.length / w
  let r := (List.range n).map (fun i =>
    let x := fieldN bs (w * i) w
    match acc with
    | none => (collFirst fmt x, 0)
    | some a => collAdd fmt sat (fieldN a (w * i) w) x)
  (r.flatMap (fun e => leBytes w e.1), (r.map (·.2)).foldl (· + ·) 0)

/-! ### Collectives in flight -/

def Coll.cmd (x : Coll) : CollCmd := collCmd x.bytes
def State.coll? (s : State) (c : Nat) (id : W32) : Option Coll := s.coll.colls.find? (fun x => x.ctx == c && x.id == id)
def State.putColl (s : State) (x : Coll) : State :=
  { s with coll := { s.coll with colls := s.coll.colls.map (fun y => if y.ctx == x.ctx && y.id == x.id then x else y) } }

/-- Engine class of the ring engine. -/
def engRing : Nat := 1
/-- The vat tag of a contribution's chunk, by rank; the owner's own rank names its accumulator. -/
def chunkVat (x : Coll) (k r : Nat) : VatTag := ⟨1, x.id.toNat, k, r⟩

/-- A member's address: package and context. -/
def Coll.peerOf (x : Coll) (r : Nat) : Nat × Nat := x.members.getD r (0, 0)
/-- The other ranks, ascending. -/
def Coll.others (x : Coll) : List Nat := (List.range x.cmd.n).filter (· != x.rank)

/-- Read flat memory for a collective. -/
def State.collRead (s : State) (x : Coll) (a n : Nat) (k : State → List Byte → State) : State := s.descRead x.desc a n k

/-- Write flat memory for a collective. -/
def State.collWrite (s : State) (x : Coll) (a : Nat) (bs : List Byte) : State :=
  match s.packageAccess x.ctx a bs.length true with
  | .pieces l => s.writeFor x.ctx l bs
  | _ => s.descBad x.desc

/-- Whether the input and the output of rank r overlap in another way than R333 and Table 12.3 allow: the results are then undefined (log 107). -/
def CollCmd.clash (a : CollCmd) (r : Nat) : Bool :=
  rangesMeet a.inp (a.inBytes r) a.out (a.outBytes r) &&
  !((a.op == opAR || a.op == opBC) && a.out == a.inp) && !(a.op == opRS && a.out == a.inp + a.first r * a.chunk)

/-- The bytes of a result, as they stand in the output: the ones computed or received, or undefined ones (R333). -/
def State.asWritten (s : State) (x : Coll) (bs : List Byte) : List Byte × State :=
  if x.cmd.clash x.rank then s.freeBytes bs.length else (bs, s)

/-- The pieces of this member's output. -/
def State.outPieces (s : State) (x : Coll) : List Piece :=
  match s.packageAccess x.ctx x.cmd.out (x.cmd.outBytes x.rank) true with
  | .pieces l => l
  | _ => []

/-- Whether rank r of a collective, this member, contributes zero to chunk k (R337); the bitmap's byte is read. -/
def State.zeroHere (s : State) (x : Coll) (k : Nat) (go : State → Bool → State) : State :=
  if auxUsed x.aux = 0 then go s false
  else
    let bit := k * x.cmd.chunk / auxSeg x.aux
    s.collRead x (auxUsed x.aux + bit / 8) 1 (fun s b => go s (!bitN (fieldN b 0 1) (bit % 8)))

def State.collPacket (s : State) (x : Coll) (typ toWhom : Nat) (op : List (Nat × Nat × Nat)) (bs : List Byte) : Packet :=
  let m := x.peerOf toWhom
  s.mkPacket typ 2 m.1 x.ctx m.2 ((0x10, 4, x.id.toNat) :: op) bs

/-- Send a COLL_CTRL to every other member. -/
def State.sendCtrl (s : State) (x : Coll) (ctrl reason : Nat) : State :=
  x.others.foldl (fun (s : State) r => s.sendSeq (s.collPacket x 0x44 r [(0x14, 1, ctrl), (0x15, 1, reason), (0x18, 2, x.rank)] []) none) s

/-! ### Sending a chunk (R342, R343) -/

/-- Put the pieces of a chunk on their stream. -/
def State.putPieces (s : State) (x : Coll) (kind k toWhom attempt : Nat) (bs : List Byte) : State :=
  let n := ceilDiv bs.length 2048
  let crc := (crc32c bs).toNat
  (List.range n).foldl (fun (s : State) i =>
    let last := if i + 1 = n then 4 else 0
    s.sendSeq (s.collPacket x 0x40 toWhom [(0x14, 4, k), (0x18, 2, x.rank), (0x1A, 1, kind + last + 8 * attempt), (0x1B, 1, i), (0x1C, 4, crc)]
      ((bs.drop (2048 * i)).take 2048)) none) s

/-- Note a send: the attempt sent last. -/
def Coll.noteSent (x : Coll) (kind k toWhom attempt : Nat) : Coll :=
  { x with sent := x.sent.filter (fun e => !(e.kind == kind && e.chunk == k && e.toWhom == toWhom)) ++ [⟨kind, k, toWhom, attempt⟩] }

/-- Send a chunk: read it, and send every piece. The send is complete, and a ring step, when the last piece has left (R348). -/
def State.sendChunk (s : State) (c : Nat) (id : W32) (kind k toWhom attempt : Nat) : State :=
  match s.coll? c id with
  | none => s
  | some x =>
    let a := x.cmd
    s.collRead x (a.src x.rank kind k) (a.len k) (fun s bs =>
      (s.putColl (x.noteSent kind k toWhom attempt)).putPieces x kind k toWhom attempt bs)

/-- Send a COLL_ZERO marker (log 75). -/
def State.sendMarker (s : State) (x : Coll) (kind k toWhom : Nat) : State :=
  let s := s.putColl (x.noteSent kind k toWhom 0)
  s.sendSeq (s.collPacket x 0x41 toWhom [(0x14, 4, k), (0x18, 2, x.rank), (0x1A, 1, kind + 4)] []) none

/-- Send a contribution, or its marker (R337, R340). -/
def State.contribute (s : State) (c : Nat) (id : W32) (k : Nat) : State :=
  match s.coll? c id with
  | none => s
  | some x =>
    s.zeroHere x k (fun s z => if z then s.sendMarker x ckContrib k (x.cmd.owner k) else s.sendChunk c id ckContrib k (x.cmd.owner k) 0)

/-! ### Writing chunks (R337, R341) -/

/-- Whether every byte is 0. -/
def allZero (bs : List Byte) : Bool := bs.all (· == 0)

/-- Set or clear bit k of the zero-result bitmap; only the operations that add have results (log 107). -/
def State.markZout (s : State) (x : Coll) (k : Nat) (z : Bool) : State :=
  if auxZout x.aux = 0 ∨ !x.cmd.reduces then s
  else s.collRead x (auxZout x.aux + k / 8) 1 (fun s b =>
    let v := fieldN b 0 1
    let v' := if z then (if bitN v (k % 8) then v else v + 2 ^ (k % 8)) else (if bitN v (k % 8) then v - 2 ^ (k % 8) else v)
    s.collWrite x (auxZout x.aux + k / 8) (leBytes 1 v'))

/-- A chunk has been written and checked. -/
def State.wrote (s : State) (c : Nat) (id : W32) (key k : Nat) (bs : List Byte) : State :=
  match s.coll? c id with
  | none => s
  | some x =>
    let z := allZero bs
    let s := s.markZout x k z
    (s.putColl { x with written := setAdd x.written key, zeroChunks := x.zeroChunks + z.toNat }).ringStep c id

/-! ### Turns (R336, R340) -/

/-- Read the accumulator of the chunk in progress from its vat, if anything stands there (R272). -/
def State.readAcc (s : State) (x : Coll) (k : State → State) : State :=
  match x.acc, s.vatFor x.ctx engRing (chunkVat x (x.cmd.first x.rank + x.pos) x.rank) with
  | some bs, some h =>
    match s.vatPoisonAt h.vat bs.length with
    | (s, some f) => s.descFault x.desc clsUncorr f
    | (s, none) => k s
  | _, _ => k s

/-- Own a contribution: into the accumulator, and the next rank's turn. -/
def State.addTurn (s : State) (x : Coll) (bs : List Byte) : State :=
  s.readAcc x fun s =>
  let a := x.cmd
  let r := addChunk a.fmt a.sat x.acc bs
  let s := match s.vatFor x.ctx engRing (chunkVat x (a.first x.rank + x.pos) x.rank) with | some h => s.vatWritten h.vat 0 r.1 | none => s
  let s := if r.2 = 0 then s else s.countR53 x.ctx r.2 0
  (s.putColl { x with acc := some r.1, accZero := false, headroom := x.headroom + r.2, turn := x.turn + 1 }).ringStep x.ctx x.id

/-- A remote turn has been used: it counts, and its chunk is no longer kept. -/
def State.usedTurn (s : State) (x : Coll) (k : Nat) (zero : Bool) : Coll × State :=
  let s := s.count (offCollCtr x.ctx 4) 1
  let s := if zero then s.count (offCollCtr x.ctx 5) 1 else s
  ({ x with used := x.used + 1, ins := x.ins.filter (fun i => !(i.kind == ckContrib && i.chunk == k && i.rank == x.turn)) }, s)

/-- The owner has used every rank's turn of a chunk: the result is written, and for all-reduce sent to every other rank. -/
def State.finishChunk (s : State) (x : Coll) (k : Nat) : State :=
  s.readAcc x fun s =>
  let a := x.cmd
  let bs := x.acc.getD (zeroBytes (a.len k))
  let zero := x.accZero
  let (bs, s) := s.asWritten x bs
  let s := s.collWrite x (a.dst x.rank x.rank k) bs
  let s := match s.vatFor x.ctx engRing (chunkVat x k x.rank) with | some h => s.freeVat h | none => s
  let s := s.putColl { x with pos := x.pos + 1, turn := 0, acc := none, accZero := true }
  let s := s.wrote x.ctx x.id k k bs
  if a.op = opAR then x.others.foldl (fun (s : State) r =>
      match s.coll? x.ctx x.id with
      | some y => if s.ctxLive x.ctx then (if zero then s.sendMarker y ckResult k r else s.sendChunk x.ctx x.id ckResult k r 0) else s
      | none => s) s
  else s

/-- Take the next turn of the chunk in progress, if it can be taken. The answer says whether it was. -/
def State.takeTurn (s : State) (x : Coll) : Bool × State :=
  let a := x.cmd
  let k := a.first x.rank + x.pos
  if a.count x.rank ≤ x.pos ∨ !a.reduces then (false, s)
  else
    match s.askVat x.ctx engRing a.chunk (chunkVat x k x.rank) with
    | (none, s) => (false, s)
    | (some _, s) =>
      if a.n ≤ x.turn then (true, s.finishChunk x k)
      else if x.turn = x.rank then
        (true, s.zeroHere x k (fun s z =>
          if z then (s.putColl { x with turn := x.turn + 1 }).ringStep x.ctx x.id
          else s.collRead x (a.src x.rank ckContrib k) (a.len k) (fun s bs => s.addTurn x bs)))
      else
        match x.ins.find? (fun i => i.kind == ckContrib && i.chunk == k && i.rank == x.turn && i.checked) with
        | none => (false, s)
        | some i =>
          let (x', s) := s.usedTurn x k i.zero
          if i.zero then (true, (s.putColl { x' with turn := x.turn + 1 }).ringStep x.ctx x.id)
          else
            match s.vatFor x.ctx engRing (chunkVat x k x.turn) with
            | none => (true, s.addTurn x' (i.got.flatMap (·.2)))
            | some h =>
              match s.vatPoisonAt h.vat (a.len k) with
              | (s, some f) => (true, s.descFault x.desc clsUncorr f)
              | (s, none) => (true, (s.freeVat h).addTurn x' (i.got.flatMap (·.2)))

/-- Turn i of an owner's sequence: chunk and rank. -/
def Coll.turnAt (x : Coll) (i : Nat) : Nat × Nat :=
  let a := x.cmd
  let m := a.n - 1
  let r := i % max 1 m
  (a.first x.rank + i / max 1 m, if r < x.rank then r else r + 1)

/-- Grant the credit of the next turn, if the window and a vat allow it. -/
def State.grantNext (s : State) (x : Coll) : Bool × State :=
  let a := x.cmd
  let total := if a.reduces then a.count x.rank * (a.n - 1) else 0
  if total ≤ x.granted ∨ x.used + a.window ≤ x.granted then (false, s)
  else
    let (k, r) := x.turnAt x.granted
    match s.askVat x.ctx engRing a.chunk (chunkVat x k r) with
    | (none, s) => (false, s)
    | (some _, s) =>
      (true, (s.putColl { x with granted := x.granted + 1 }).sendSeq (s.collPacket x 0x42 r [(0x14, 4, k), (0x18, 2, x.rank)] []) none)

/-! ### Completion and failure (R344, R345) -/

/-- Whether everything rank r sends this member has been checked, and used or written. -/
def Coll.servedBy (x : Coll) (r : Nat) : Bool :=
  let a := x.cmd
  let own := a.count x.rank
  (!a.reduces || own == 0 || x.pos == own || (x.pos + 1 == own && decide (r < x.turn))) &&
  (a.op == opRS || a.op == opRed || (a.fromRank x.rank r).all (fun k => x.written.contains k))

/-- Whether this member expects chunk data of rank r. -/
def Coll.expects (x : Coll) (r : Nat) : Bool :=
  let a := x.cmd
  r != x.rank && ((a.reduces && a.count x.rank != 0) || ((a.op == opAG || a.op == opAR || a.op == opBC || a.op == opA2A) && !(a.fromRank x.rank r).isEmpty))

/-- Whether this member sends chunk data to rank r. -/
def Coll.sendsTo (x : Coll) (r : Nat) : Bool :=
  let a := x.cmd
  r != x.rank && ((a.reduces && a.count r != 0) || (a.op == opAR && a.count x.rank != 0) || !(a.copies x.rank r).isEmpty)

/-- The chunks this member writes. -/
def Coll.toWrite (x : Coll) : List Nat := (List.range x.cmd.n).flatMap (fun r => x.cmd.fromRank x.rank r)

/-- Send the RELEASEs that have come due. -/
def State.sendReleases (s : State) (x : Coll) : State :=
  let due := x.others.filter (fun r => x.expects r && !x.released.contains r && x.servedBy r)
  if due.isEmpty then s
  else
    due.foldl (fun (s : State) r => s.sendSeq (s.collPacket x 0x44 r [(0x14, 1, 3), (0x18, 2, x.rank)] []) none) (s.putColl { x with released := x.released ++ due })

/-- The bytes of a collective completion record after TAG (Table 12.7). -/
def State.collBody (s : State) (x : Coll) : List Byte :=
  leBytes 4 x.id.toNat ++ leBytes 4 (min x.headroom 0xFFFFFFFF) ++ leBytes 4 (min x.zeroChunks 0xFFFFFFFF) ++ leBytes 2 (min x.retries 0xFFFF) ++
  leBytes 2 s.sec.arithRev.toNat

/-- Whether a packet belongs to a collective of context c, by the context's side. -/
def collPkt (id : W32) (p : Packet) : Bool := 0x40 ≤ p.typ.toNat && p.typ.toNat ≤ 0x44 && pktOp p 0x10 4 == id.toNat

/-- Abandon the sends of a collective that have not entered a stream's window. -/
def State.abandonSends (s : State) (c : Nat) (id : W32) : State :=
  { s with fab := { s.fab with peers := s.fab.peers.map (fun (e : Nat × PeerState) => (e.1, { e.2 with tx := e.2.tx.map (fun (t : Nat × TxStream) =>
      (t.1, { t.2 with waiting := t.2.waiting.filter (fun w => !(collPkt id w.1 && w.1.sctx.toNat == c)) })) })) } }

/-- Return every vat of a collective and drop its waiting requests. -/
def State.collVats (s : State) (c : Nat) (id : W32) : State :=
  let mine (t : VatTag) : Bool := t.kind == 1 && t.a == id.toNat
  let s := { s with vats := { s.vats with waiting := s.vats.waiting.filter (fun r => !(r.ctx == c && r.eng == engRing && mine r.tag)) } }
  (s.vats.held.filter (fun h => h.ctx == c && h.eng == engRing && mine h.tag)).foldl (fun (s : State) h => s.freeVat h) s

/-- A collective is no longer in flight. When it completed, a COLL_CTRL that has come for it is discarded; when it failed, every packet (log 76). -/
def State.removeColl (s : State) (c : Nat) (id : W32) (ok : Bool) : State :=
  let s := s.collVats c id
  { s with
    coll := { s.coll with
      colls := s.coll.colls.filter (fun x => !(x.ctx == c && x.id == id))
      ended := s.coll.ended.filter (fun (e : Nat × W32) => e != (c, id)) ++ [(c, id)]
      failed := s.coll.failed.filter (fun (e : Nat × W32) => e != (c, id)) ++ (if ok then [] else [(c, id)]) }
    fab := { s.fab with inbox := s.fab.inbox.filter (fun p => !(collPkt id p && p.dctx.toNat == c && (!ok || p.typ == 0x44))) } }

/-- End a collective that failed (R345); `tell` says whether the other members are sent an ABORT. The bytes of the output are undefined. -/
def State.failColl (s : State) (x : Coll) (status : Nat) (tell : Bool) : State :=
  let s := s.abandonSends x.ctx x.id
  let s := if tell then s.sendCtrl x 2 status else s
  let s := (s.count (offCollCtr x.ctx 1) 1).complete x.desc status (s.collBody x)
  ((s.mgmtEvent 0x21 (some x.ctx) x.id.toNat status).removeColl x.ctx x.id false).scramble (s.outPieces x)

/-- Complete a collective when all it has to write is written and the RELEASEs it needs have come. -/
def State.tryComplete (s : State) (x : Coll) : State :=
  if x.toWrite.all (fun k => x.written.contains k) && x.others.all (fun r => !x.sendsTo r || x.releases.contains r) then
    let s := if auxDone x.aux = 0 then s else s.bumpCounter 0x60 x.ctx (auxDone x.aux)
    if s.ctxLive x.ctx then (s.complete x.desc 0 (s.collBody x)).removeColl x.ctx x.id true else s
  else s

/-! ### Going on -/

/-- Take turns and grant credits as far as they go. -/
def State.collTurns (s : State) (c : Nat) (id : W32) (fuel : Nat) : State :=
  match fuel with
  | 0 => s
  | n + 1 =>
    match s.coll? c id with
    | none => s
    | some x =>
      if x.paused || !x.started || !s.ctxLive c then s
      else
        match s.takeTurn x with
        | (true, s) => s.collTurns c id n
        | (false, s) =>
          match s.coll? c id with
          | none => s
          | some x =>
            match s.grantNext x with
            | (true, s) => s.collTurns c id n
            | (false, s) => s

/-- Go on with a collective: turns and credits, then RELEASEs and completion. -/
def State.collGo (s : State) (c : Nat) (id : W32) : State :=
  match s.coll? c id with
  | none => s
  | some x =>
    if x.paused || !x.started || !s.ctxLive c then s
    else
      let a := x.cmd
      let s := s.collTurns c id (2 * (a.count x.rank + 1) * (a.n + 2))
      match s.coll? c id with
      | none => s
      | some x =>
        if !s.ctxLive c then s
        else
          let s := s.sendReleases x
          match s.coll? c id with
          | some x => s.tryComplete x
          | none => s

/-- Send the contributions whose credits are here. -/
def State.useCredits (s : State) (c : Nat) (id : W32) : State :=
  match s.coll? c id with
  | none => s
  | some x =>
    if x.paused || !x.started then s
    else
      let s := s.putColl { x with credits := [] }
      x.credits.foldl (fun (s : State) k => if s.ctxLive c then s.contribute c id k else s) s

/-- Write one chunk of this member's own input to its output. -/
def State.copyOwn (s : State) (c : Nat) (id : W32) (k : Nat) : State :=
  match s.coll? c id with
  | none => s
  | some x =>
    let a := x.cmd
    s.collRead x (a.src x.rank ckCopy k) (a.len k) (fun s bs =>
      let (bs, s) := s.asWritten x bs
      (s.collWrite x (a.dst x.rank x.rank k) bs).wrote c id (a.key x.rank k) k bs)

/-! ### Chunks arriving (R342) -/

/-- What a COLL_DATA or COLL_ZERO packet names. -/
structure PieceRef where
  chunk   : Nat
  rank    : Nat
  kind    : Nat
  last    : Bool
  attempt : Nat
  piece   : Nat
  crc     : W32
deriving DecidableEq, Repr

def pieceRef (p : Packet) : PieceRef :=
  let k := pktOp p 0x1A 1
  ⟨pktOp p 0x14 4, pktOp p 0x18 2 % 2 ^ 15, k % 4, bitN k 2, bitsN k 4 3, pktOp p 0x1B 1, BitVec.ofNat 32 (pktOp p 0x1C 4)⟩

/-- Whether a piece is one this member expects of its sender: a contribution under a credit it granted, a result of the chunk's owner, a copy. -/
def State.pieceWanted (s : State) (x : Coll) (p : Packet) : Bool :=
  let a := x.cmd
  let q := pieceRef p
  q.rank < a.n && q.rank != x.rank && x.peerOf q.rank == (p.src.toNat, p.sctx.toNat) && a.isChunk q.chunk &&
  (if q.kind = ckContrib then a.reduces && (s.vatFor x.ctx engRing (chunkVat x q.chunk q.rank)).isSome
   else if q.kind = ckResult then a.op == opAR && a.owner q.chunk == q.rank
   else if a.op = opA2A then q.chunk / 65536 == x.rank
   else (a.op == opAG || a.op == opBC) && a.owner q.chunk == q.rank)

/-- The numbers of the pieces of a chunk are all here. -/
def InChunk.full (i : InChunk) : Bool :=
  match i.last with
  | some n => (List.range (n + 1)).all (fun j => tabHas i.got j)
  | none => false

def inSame (q : PieceRef) (i : InChunk) : Bool := i.kind == q.kind && i.chunk == q.chunk && i.rank == q.rank

/-- Place a piece: in its vat, or at OUT_PTR. -/
def State.placePiece (s : State) (x : Coll) (q : PieceRef) (bs : List Byte) : State :=
  let a := x.cmd
  if q.kind = ckContrib then
    match s.vatFor x.ctx engRing (chunkVat x q.chunk q.rank) with
    | some h => s.vatWritten h.vat (2048 * q.piece) bs
    | none => s
  else s.collWrite x (a.dst x.rank q.rank q.chunk + 2048 * q.piece) bs

/-- Write a chunk that is a result or a copy and is checked; its record stays, for a later attempt to be told from this one. -/
def State.landChunk (s : State) (x : Coll) (q : PieceRef) (bs : List Byte) : State :=
  let s := s.putColl { x with ins := x.ins.map (fun j => if inSame q j then { j with checked := true, got := [], zero := allZero bs } else j) }
  s.wrote x.ctx x.id (x.cmd.key q.rank q.chunk) q.chunk bs

/-- Read the vat of a contribution that is checked (R272, R342). -/
def State.readChunkVat (s : State) (x : Coll) (q : PieceRef) (k : State → State) : State :=
  match (if q.kind = ckContrib then s.vatFor x.ctx engRing (chunkVat x q.chunk q.rank) else none) with
  | some h =>
    match s.vatPoisonAt h.vat (x.cmd.len q.chunk) with
    | (s, some f) => s.descFault x.desc clsUncorr f
    | (s, none) => k s
  | none => k s

/-- Check a chunk whose pieces are all here: it is checked, or asked for again, or fails the collective on attempt 3. A zero result is written. Nothing is checked before the start or while the
collective is paused (R333, R346). -/
def State.checkChunk (s : State) (x : Coll) (q : PieceRef) : State :=
  match x.ins.find? (inSame q) with
  | none => s
  | some i =>
    if x.paused || !x.started || i.checked || !(i.zero || i.full) then s
    else if i.zero then
      let (bs, s) := s.asWritten x (zeroBytes (x.cmd.len q.chunk))
      (s.collWrite x (x.cmd.dst x.rank q.rank q.chunk) bs).landChunk x q bs
    else
      s.readChunkVat x q fun s =>
      let bs := i.got.flatMap (·.2)
      if crc32c bs = i.crc then
        if q.kind = ckContrib then s.putColl { x with ins := x.ins.map (fun j => if inSame q j then { j with checked := true } else j) }
        else
          let (bs, s) := if x.cmd.clash x.rank then (let (u, s) := s.asWritten x bs; (u, s.collWrite x (x.cmd.dst x.rank q.rank q.chunk) u)) else (bs, s)
          s.landChunk x q bs
      else if i.attempt = 3 then s.failColl x 0x30 true
      else
        let s := (s.count (offCollCtr x.ctx 6) 1).putColl { x with
          retries := x.retries + 1
          ins := x.ins.map (fun j => if inSame q j then { j with attempt := i.attempt + 1, got := [], last := none } else j) }
        s.sendSeq (s.collPacket x 0x43 q.rank
          [(0x14, 4, q.chunk), (0x18, 2, x.rank), (0x1A, 1, q.kind + 8 * i.attempt), (0x1C, 4, i.crc.toNat)] []) none

/-- Check every chunk that has come meanwhile. -/
def State.checkIns (s : State) (c : Nat) (id : W32) : State :=
  match s.coll? c id with
  | none => s
  | some x => x.ins.foldl (fun (s : State) i =>
      match s.coll? c id with
      | some z => s.checkChunk z ⟨i.chunk, i.rank, i.kind, false, i.attempt, 0, i.crc⟩
      | none => s) s

/-! ### The start -/

/-- Start a collective: its own copies, its copies to the other ranks, the chunks that have come already, the credits held for it, and its first credits (R333, R341). -/
def State.startColl (s : State) (c : Nat) (id : W32) : State :=
  match s.coll? c id with
  | none => s
  | some x =>
    let a := x.cmd
    let s := (s.putColl { x with started := true, lastStep := s.now }).count (offCollCtr c 0) 1
    let own := if a.op = opBC ∧ a.out = a.inp then [] else a.copies x.rank x.rank
    let s := own.foldl (fun (s : State) k => if s.ctxLive c then s.copyOwn c id k else s) s
    let s := x.others.foldl (fun (s : State) r => (a.copies x.rank r).foldl (fun (s : State) k =>
      if s.ctxLive c then s.sendChunk c id ckCopy k r 0 else s) s) s
    ((s.checkIns c id).useCredits c id).collGo c id

/-- Start a collective whose counter has come up to its value. -/
def State.tryStart (s : State) (c : Nat) (id : W32) : State :=
  match s.coll? c id with
  | none => s
  | some x =>
    if x.started || x.paused then s
    else if auxWait x.aux = 0 then s.startColl c id
    else s.collRead x (auxWait x.aux) 8 (fun s b => if auxVal x.aux ≤ leNat b then s.startColl c id else s)

/-! ### COLL.LAUNCH and COLL.ABORT -/

/-- Whether the member table names the issuer exactly once, and where. -/
def State.collRank (s : State) (c : Nat) (ms : List (Nat × Nat)) : Option Nat :=
  let mine (m : Nat × Nat) : Bool := s.isSelf m.1 && m.2 == c
  if (ms.filter mine).length = 1 ∧ ms.all (fun m => m.1 < 24640) then ms.findIdx? mine else none

/-- Put an accepted collective in flight, and start it when it can. -/
def State.launchColl (s : State) (d : DescRef) (b aux : List Byte) (ms : List (Nat × Nat)) (rank : Nat) : State :=
  let a := collCmd b
  let c := d.fn
  let away := s.ctxPhase? c != some .active
  let x : Coll := {
    ctx := c
    id := a.id
    desc := d
    bytes := b
    aux := aux
    members := ms
    rank := rank
    order := s.coll.nextOrder
    started := false
    paused := away
    pausedAt := s.now
    haltAt := if away then some s.now else none
    pausedBy := []
    lastStep := s.now
    granted := 0
    used := 0
    pos := 0
    turn := 0
    acc := none
    accZero := true
    ins := []
    credits := []
    sent := []
    redo := []
    heldOut := []
    released := []
    releases := []
    written := []
    headroom := 0
    zeroChunks := 0
    retries := 0
  }
  let s := s.accept d
  let s := { s with coll := { s.coll with
      colls := s.coll.colls ++ [x]
      ended := s.coll.ended.filter (fun (e : Nat × W32) => e != (c, a.id))
      failed := s.coll.failed.filter (fun (e : Nat × W32) => e != (c, a.id))
      nextOrder := s.coll.nextOrder + 1 } }
  s.tryStart c a.id

/-- COLL_LAUNCH. -/
def execCollLaunch (fn : Fn) (ring : Ring) (s : State) : Host.Outcome State Fault Refusal :=
  .next (s.onDesc fn ring 0x60 (fun s d b =>
    let c := d.fn
    let a := collCmd b
    if !collFields b then s.descBad d
    else if (s.coll? c a.id).isSome then s.finish d 0x34 (leBytes 4 a.id.toNat ++ zeroBytes 10 ++ leBytes 2 s.sec.arithRev.toNat)
    else if 8 ≤ (s.coll.colls.filter (fun x => x.ctx == c)).length then s
    else if !s.nativeOf c a.member (4 * a.n) false || (a.aux != 0 && !s.nativeOf c a.aux 64 false) then s.descBad d
    else
      s.descRead d a.member (4 * a.n) (fun s mt =>
        let ms := memberTable a.n mt
        match s.collRank c ms with
        | none => s.descBad d
        | some r =>
          let go (s : State) (aux : List Byte) : State :=
            if s.auxFields c a aux && s.collBuffers c a r then s.launchColl d b aux ms r else s.descBad d
          if a.aux = 0 then go s (zeroBytes 64) else s.descRead d a.aux 64 go)))

/-- COLL_ABORT: the named collective ends with ABORTED; the descriptor completes OK, or NO_COLL. -/
def execCollAbort (fn : Fn) (ring : Ring) (s : State) : Host.Outcome State Fault Refusal :=
  .next (s.onDesc fn ring 0x61 (fun s d b =>
    let id := BitVec.ofNat 32 (fieldN b 8 4)
    if !(fieldZero b 1 3 && fieldZero b 0x0C 52) then s.descBad d
    else
      let body := leBytes 4 id.toNat ++ zeroBytes 10 ++ leBytes 2 s.sec.arithRev.toNat
      match s.coll? d.fn id with
      | none => s.finish d 0x35 body
      | some x => (s.failColl x 0x33 true).finish d 0 body))

/-- COLL_START: the engine re-reads a start counter (R333). -/
def execCollStart (c : Ctx) (collId : W32) (s : State) : Host.Outcome State Fault Refusal :=
  .next (s.unlessTripped fun s => if s.ctxLive c then s.tryStart c collId else s)

/-! ### Chunks arriving (R342) -/

/-- A chunk of which a piece of a later attempt has come is open again: it is checked, and written, no longer. -/
def Coll.reopen (x : Coll) (q : PieceRef) (old : InChunk) : Coll :=
  let k := x.cmd.key q.rank q.chunk
  if old.checked && q.kind != ckContrib then { x with written := setDel x.written k, zeroChunks := x.zeroChunks - old.zero.toNat } else x

/-- Take a piece into its chunk's record; a piece already held or checked, or of an earlier attempt, is discarded, unless it carries a later attempt number. -/
def State.takePiece (s : State) (x : Coll) (q : PieceRef) (bs : List Byte) : State :=
  let old := (x.ins.find? (inSame q)).getD ⟨q.kind, q.chunk, q.rank, q.attempt, [], none, q.crc, false, false⟩
  let later := decide (old.attempt < q.attempt)
  let x := if later then x.reopen q old else x
  let old := if later then { old with attempt := q.attempt, got := [], last := none, zero := false, checked := false } else old
  if old.checked || q.attempt < old.attempt || tabHas old.got q.piece then s
  else
    let i : InChunk := { old with got := tabInsert old.got q.piece bs, last := if q.last then some q.piece else old.last, crc := q.crc }
    let s := s.placePiece x q bs
    s.putColl { x with ins := x.ins.filter (fun j => !inSame q j) ++ [i] }

/-- The oldest packet of a type, for a collective in flight. Those of a failed one, a COLL_CTRL of a completed one, and those of contexts that take none are discarded.
Others of a collective not launched here yet wait (R289) (log 76). -/
def State.onColl (s : State) (want : Packet → Bool) (k : State → Coll → Packet → State) : State :=
  let hit (p : Packet) : Bool :=
    want p && (let c := p.dctx.toNat; let id := BitVec.ofNat 32 (pktOp p 0x10 4); !s.ctxTakes c || (s.coll.ended.contains (c, id) && p.typ == 0x44) ||
      s.coll.failed.contains (c, id) || (s.coll? c id).isSome)
  match takeFirst hit s.fab.inbox with
  | none => s
  | some (p, rest) =>
    let s := s.setInbox rest
    match s.coll? p.dctx.toNat (BitVec.ofNat 32 (pktOp p 0x10 4)) with
    | some x => if s.ctxTakes p.dctx.toNat then k s x p else s
    | none => s

/-- COLL_DATA (log 108). -/
def execCollData (s : State) : Host.Outcome State Fault Refusal :=
  .next (s.unlessTripped fun s => s.onColl (fun p => p.typ == 0x40) (fun s x p =>
    let q := pieceRef p
    if !s.pieceWanted x p || x.cmd.len q.chunk < 2048 * q.piece + p.payload.length then s
    else
      let s := (s.count (offCollCtr x.ctx 3) p.payload.length).takePiece x q p.payload
      match s.coll? x.ctx x.id with
      | some x => (s.checkChunk x q).collGo x.ctx x.id
      | none => s))

/-- COLL_ZERO: a zero contribution returns its vat and is ready for its turn; a zero result is written, at once or after a pause. -/
def execCollZero (s : State) : Host.Outcome State Fault Refusal :=
  .next (s.unlessTripped fun s => s.onColl (fun p => p.typ == 0x41) (fun s x p =>
    let q := pieceRef p
    if !s.pieceWanted x p then s
    else if q.kind = ckContrib then
      let s := match s.vatFor x.ctx engRing (chunkVat x q.chunk q.rank) with | some h => s.freeVat h | none => s
      let i : InChunk := ⟨ckContrib, q.chunk, q.rank, 0, [], none, 0, true, true⟩
      (s.putColl { x with ins := x.ins ++ [i] }).collGo x.ctx x.id
    else if q.kind = ckResult ∧ !x.ins.any (inSame q) then
      let x := { x with ins := x.ins ++ [⟨ckResult, q.chunk, q.rank, 0, [], none, 0, true, false⟩] }
      ((s.putColl x).checkChunk x q).collGo x.ctx x.id
    else s))

/-- COLL_CREDIT: the credit is used at once, or kept while the collective is paused or has not started. -/
def execCollCredit (s : State) : Host.Outcome State Fault Refusal :=
  .next (s.unlessTripped fun s => s.onColl (fun p => p.typ == 0x42) (fun s x p =>
    let k := pktOp p 0x14 4
    let r := pktOp p 0x18 2 % 2 ^ 15
    if x.cmd.reduces && x.cmd.isChunk k && x.cmd.owner k == r && r != x.rank && x.peerOf r == (p.src.toNat, p.sctx.toNat) then
      ((s.putColl { x with credits := x.credits ++ [k] }).useCredits x.ctx x.id).collGo x.ctx x.id
    else s))

/-- COLL_NACK: the chunk is read again and sent with the next attempt number, after a pause if there is one (Table 12.9) (log 77). -/
def execCollNack (s : State) : Host.Outcome State Fault Refusal :=
  .next (s.unlessTripped fun s => s.onColl (fun p => p.typ == 0x43) (fun s x p =>
    let q := pieceRef p
    match x.sent.find? (fun e => e.kind == q.kind && e.chunk == q.chunk && e.toWhom == q.rank) with
    | none => s
    | some e =>
      if e.attempt ≠ q.attempt then s
      else if q.attempt = 3 then s.failColl x 0x30 true
      else
        let x' := { x with retries := x.retries + 1 }
        if x.paused then s.putColl { x' with redo := x.redo ++ [⟨e.kind, e.chunk, e.toWhom, e.attempt + 1⟩] }
        else (s.putColl x').sendChunk x.ctx x.id e.kind e.chunk e.toWhom (e.attempt + 1)))

/-! ### COLL_CTRL (R344 to R346) -/

/-- The oldest COLL_CTRL of a kind that is from a member. -/
def State.onCtrl (s : State) (ctrl : Nat) (k : State → Coll → Nat → Packet → State) : State :=
  s.onColl (fun p => p.typ == 0x44 && pktOp p 0x14 1 == ctrl) (fun s x p =>
    let r := pktOp p 0x18 2 % 2 ^ 15
    if r < x.cmd.n && r != x.rank && x.peerOf r == (p.src.toNat, p.sctx.toNat) then k s x r p else s)

/-- The watchdog stands while some PAUSE is in force: its time is not counted. -/
def Coll.settle (x : Coll) (now : Nat) : Coll :=
  if x.paused || !x.pausedBy.isEmpty then { x with haltAt := some (x.haltAt.getD now) }
  else match x.haltAt with
    | some t => { x with haltAt := none, lastStep := now - (t - x.lastStep) }
    | none => x

/-- COLL_CTRL_PAUSE. -/
def execCollCtrlPause (s : State) : Host.Outcome State Fault Refusal :=
  .next (s.unlessTripped fun s => s.onCtrl 0 (fun s x r _ => s.putColl ({ x with pausedBy := setAdd x.pausedBy r }.settle s.now)))

/-- COLL_CTRL_RESUME. -/
def execCollCtrlResume (s : State) : Host.Outcome State Fault Refusal :=
  .next (s.unlessTripped fun s => s.onCtrl 1 (fun s x r _ => s.putColl ({ x with pausedBy := setDel x.pausedBy r }.settle s.now)))

/-- COLL_CTRL_ABORT: the collective ends with PEER_FAILED, and no further ABORT is sent. -/
def execCollCtrlAbort (s : State) : Host.Outcome State Fault Refusal :=
  .next (s.unlessTripped fun s => s.onCtrl 2 (fun s x _ _ => s.failColl x 0x32 false))

/-- COLL_CTRL_RELEASE. -/
def execCollCtrlRelease (s : State) : Host.Outcome State Fault Refusal :=
  .next (s.unlessTripped fun s => s.onCtrl 3 (fun s x r _ => (s.putColl { x with releases := setAdd x.releases r }).collGo x.ctx x.id))

/-- COLL_WATCHDOG: no ring step for the limit, with no PAUSE in force (R348). -/
def execCollWatchdog (c : Ctx) (collId : W32) (s : State) : Host.Outcome State Fault Refusal :=
  .next (s.unlessTripped fun s => match s.coll? c collId with
    | none => s
    | some x =>
      if x.started && !x.paused && x.pausedBy.isEmpty && s.regN offCollWatchdog * 1000000 < s.now - x.lastStep then s.failColl x 0x31 true else s)

/-! ### Pre-emption and teardown (R346) -/

/-- Pause the collectives of a context: waits for vats are abandoned, and the other members are told, but by one that has not started (R333). -/
def State.pauseColls (s : State) (c : Nat) : State :=
  let s := { s with vats := { s.vats with waiting := s.vats.waiting.filter (fun r => !(r.ctx == c && r.eng == engRing)) } }
  (s.coll.colls.filter (fun x => x.ctx == c && !x.paused)).foldl (fun (s : State) x =>
    let s := s.putColl ({ x with paused := true, pausedAt := s.now }.settle s.now)
    if x.started then s.sendCtrl x 0 0 else s) s

/-- Whether a waiting packet is one that a paused collective does not send: all but its PAUSE. -/
def Coll.mayNotLeave (x : Coll) (p : Packet) : Bool := collPkt x.id p && p.sctx.toNat == x.ctx && !(p.typ == 0x44 && pktOp p 0x14 1 == 0)

/-- COLL_PREEMPT_DEADLINE: what a paused collective has put on its streams and still waits for room does not leave. Sends of chunks are abandoned, to be redone from their start after resume;
markers, credits, NACKs and RELEASEs are kept until then. -/
def execCollPreemptDeadline (c : Ctx) (s : State) : Host.Outcome State Fault Refusal :=
  .next (s.unlessTripped fun s => (s.coll.colls.filter (fun x => x.ctx == c.val && x.paused && 1000000 ≤ s.now - x.pausedAt)).foldl (fun (s : State) x =>
    let held := (s.fab.peers.flatMap (fun e => e.2.tx.flatMap (fun t => t.2.waiting.map (·.1)))).filter x.mayNotLeave
    let cut := x.sent.filter (fun e => held.any (fun p =>
      let q := pieceRef p
      p.typ == 0x40 && q.kind == e.kind && q.chunk == e.chunk && p.dst.toNat == (x.peerOf e.toWhom).1 && p.dctx.toNat == (x.peerOf e.toWhom).2))
    let s := { s with fab := { s.fab with peers := s.fab.peers.map (fun (e : Nat × PeerState) => (e.1, { e.2 with tx := e.2.tx.map (fun (t : Nat × TxStream) =>
      (t.1, { t.2 with waiting := t.2.waiting.filter (fun w => !x.mayNotLeave w.1) })) })) } }
    s.putColl { x with redo := x.redo ++ cut, heldOut := x.heldOut ++ held.filter (·.typ != 0x40) }) s)

/-- The collectives of a context go on: RESUME to the other members, then what was kept back, redone, received and credited meanwhile. -/
def State.resumeColls (s : State) (c : Nat) : State :=
  (s.coll.colls.filter (fun x => x.ctx == c && x.paused)).foldl (fun (s : State) x =>
    let y := { x with paused := false, redo := [], heldOut := [] }.settle s.now
    let s := s.putColl y
    let s := if x.started then s.sendCtrl y 1 0 else s
    let s := x.heldOut.foldl (fun (s : State) p => s.sendSeq p none) s
    let s := x.redo.foldl (fun (s : State) e => if s.ctxLive c then s.sendChunk c x.id e.kind e.chunk e.toWhom e.attempt else s) s
    let s := s.checkIns c x.id
    let s := s.tryStart c x.id
    (s.useCredits c x.id).collGo c x.id) s

/-- Go on with every collective of the package: vats have come free. -/
def State.pumpColls (s : State) : State := s.coll.colls.foldl (fun (s : State) x => s.collGo x.ctx x.id) s

/-- A torn-down context's collectives end; nothing of them is told to the peers (R348). -/
def State.dropColls (s : State) (c : Nat) : State :=
  let s := (s.coll.colls.filter (fun x => x.ctx == c)).foldl (fun (s : State) x => s.abandonSends c x.id) s
  { s with coll := { s.coll with
      colls := s.coll.colls.filter (fun x => x.ctx != c)
      ended := s.coll.ended.filter (fun (e : Nat × W32) => e.1 != c)
      failed := s.coll.failed.filter (fun (e : Nat × W32) => e.1 != c) } }

end Sys2Proof.Machine
end

