-- ==== Sys2Proof/Machine/HostIf.lean ====
section
/-!
DEFINITION. Host copies (spec/14_host_interface.md, R399, R400), and the sending of a pending MSI-X message (R397).
-/
namespace Sys2Proof.Machine

/-! ### HOST.COPY (R399, R400) -/

def stHostAbort : Nat := 0x70
def stHostPoison : Nat := 0x71

/-- The bytes staged as one piece (log 34). -/
def copyPiece : Nat := 2048

/-- Host-staging vats of a copy. -/
def copyTag (id off : Nat) : VatTag := ⟨3, 2 * id, off, 0⟩

/-- Whether a vat is asked for by a copy. -/
def copyMine (id : Nat) (t : VatTag) : Bool := t.kind == 3 && t.a == 2 * id

/-- Forget a copy: its outstanding reads will be discarded, and its requests for vats go. -/
def State.forgetCopy (s : State) (id : Nat) : State :=
  { s with
    host := { s.host with
      copies := tabErase s.host.copies id
      reads := s.host.reads.filter (fun r => match r.2.use with | .copy i _ _ => i != id | _ => true) }
    vats := { s.vats with waiting := s.vats.waiting.filter (fun r => !copyMine id r.tag) } }

/-- Forget a copy that has ended: its vats return. -/
def State.dropCopy (s : State) (id : Nat) : State :=
  let s := s.forgetCopy id
  (s.vats.held.filter (fun h => copyMine id h.tag)).foldl (fun s h => s.freeVat h) s

/-- Abandon the copies of a context (Table 14.12); the manager returns their vats with the context's others (R271). -/
def State.dropCopies (s : State) (c : Nat) : State :=
  (s.host.copies.filter (fun e => e.2.desc.fn == c)).foldl (fun s e => s.forgetCopy e.1) s

/-- A copy ends: its record carries the bytes transferred. -/
def State.endCopy (s : State) (id status : Nat) : State :=
  match tabFind s.host.copies id with
  | none => s
  | some x => (s.dropCopy id).complete x.desc status (leBytes 8 x.done)

/-- The device range of a piece. -/
def State.copyPieces (s : State) (x : HostCopyState) (off n : Nat) : List Piece := (s.flatPieces (x.dev + off) n).getD []

/-- A piece passes through its vat, which is then freed; a poisoned word read there faults the context, and the piece goes no further (R272). -/
def State.passCopyVat (s : State) (x : HostCopyState) (id off : Nat) (bs : List Byte) (k : State → State) : State :=
  match s.vatFor x.desc.fn 3 (copyTag id off) with
  | some h =>
    match (s.vatWritten h.vat 0 bs).vatPoisonAt h.vat bs.length with
    | (s, some f) => (s.dropCopy id).descFault x.desc clsUncorr f
    | (s, none) => k (s.freeVat h)
  | none => k s

/-- Stage the next pieces of a copy while vats come and reads may be issued. -/
def State.pumpCopy (s : State) (id fuel : Nat) : State :=
  match fuel with
  | 0 => s
  | k + 1 =>
    match tabFind s.host.copies id with
    | none => s
    | some x =>
      let c := x.desc.fn
      let n := min copyPiece (x.length - x.nextOff)
      if n = 0 ∨ !s.ctxLive c ∨ s.fnStopped c ∨ (!x.toHost ∧ !s.readRoom n) then s
      else
        match s.askVat c 3 n (copyTag id x.nextOff) with
        | (none, s) => s
        | (some _, s) =>
          let next := { x with nextOff := x.nextOff + n }
          let put (s : State) (y : HostCopyState) : State := { s with host := { s.host with copies := tabInsert s.host.copies id y } }
          if x.toHost then
            match s.readFor c (s.copyPieces x x.nextOff n) with
            | (s, .bytes bs) =>
              (put s { next with done := x.done + n }).passCopyVat x id x.nextOff bs (fun s =>
                let s := (s.hostWrite c (x.host + x.nextOff) bs).acctHost c n
                if x.nextOff + n = x.length then s.endCopy id 0 else s.pumpCopy id k)
            | (s, .poisoned f) => (s.dropCopy id).descFault x.desc clsUncorr f
            | (s, .coreFailed) => s
          else ((put s next).hostRead c (x.host + x.nextOff) n (.copy id x.nextOff n)).pumpCopy id k

/-- Let every copy go on. -/
def State.pumpCopies (s : State) : State := s.host.copies.foldl (fun s e => s.pumpCopy e.1 (ceilDiv e.2.length copyPiece + 1)) s

/-- The fields of Table 14.10 and the permissions of R399. -/
def State.copyFields (s : State) (c : Nat) (b : List Byte) : Bool :=
  let toHost := bitN (fieldN b 1 1) 0
  let n := fieldN b 8 8
  let a := fieldN b 0x18 8
  fieldN b 1 1 < 2 && fieldZero b 2 2 && fieldZero b 0x20 32 && 1 ≤ n && n ≤ 2 ^ 36 && isFlat a && (s.flatPieces a n).isSome &&
  (match s.ctx? c with
   | some x => mapAllows x.map (fun e => mapHost e && (if toHost then mapRd e else mapWr e)) a n && (toHost || !s.meetsWeights a n)
   | none => false)

/-- HOST.COPY: accepted, then staged through vats. -/
def execHostCopy (fn : Fn) (ring : Ring) (s : State) : Host.Outcome State Fault Refusal :=
  .next (s.onDesc fn ring 0x10 (fun s d b =>
    if !s.copyFields d.fn b then s.descBad d
    else
      let id := s.host.nextCopy
      let n := fieldN b 8 8
      let s := s.accept d
      let s := { s with host := { s.host with
        nextCopy := id + 1
        copies := tabInsert s.host.copies id ⟨d, bitN (fieldN b 1 1) 0, n, fieldN b 0x10 8, fieldN b 0x18 8, 0, 0⟩ } }
      s.pumpCopy id (ceilDiv n copyPiece + 1)))

/-- A piece read from the host has come: it is written, and the copy ends with its last one. -/
def State.landCopy (s : State) (id off : Nat) (bs : List Byte) : State :=
  match tabFind s.host.copies id with
  | none => s
  | some x =>
    let c := x.desc.fn
    if !s.ctxLive c then s
    else
      s.passCopyVat x id off bs (fun s =>
        let s := (s.writeFor c (s.copyPieces x off bs.length) bs).acctHost c bs.length
        let s := { s with host := { s.host with copies := tabInsert s.host.copies id { x with done := x.done + bs.length } } }
        if x.done + bs.length = x.length then s.endCopy id 0 else s.pumpCopy id (ceilDiv x.length copyPiece + 1))

/-- A host error ends a copy: the bytes moved stand, and those of the pieces not moved are undefined. -/
def State.failCopy (s : State) (id off n status : Nat) : State :=
  match tabFind s.host.copies id with
  | none => s
  | some x =>
    let out := s.host.reads.filterMap (fun r => match r.2.use with | .copy i o m => if i = id then some (o, m) else none | _ => none)
    let s := ((off, n) :: (x.nextOff, x.length - x.nextOff) :: out).foldl (fun s r => s.scramble (s.copyPieces x r.1 r.2)) s
    s.endCopy id status

/-! ### MSI-X (R397) -/

/-- MSIX_VECTOR_UNMASK: the vector is unmasked, and its pending message is sent. -/
def execMsixVectorUnmask (fn : Fn) (vector : Fin 64) (s : State) : Host.Outcome State Fault Refusal :=
  .next (s.unlessTripped fun s =>
    let k := 64 * fn.val + vector.val
    let e := tabGet MsixEntry.reset s.host.msix k
    let s := { s with host := { s.host with msix := tabSet MsixEntry.reset s.host.msix k { e with masked := false } } }
    if s.host.pba.contains k && !s.host.resetting.contains fn then
      ({ s with host := { s.host with pba := setDel s.host.pba k } }).sendMsix fn vector
    else s)

end Sys2Proof.Machine
end

