-- ==== Sys2Proof/Machine/Account.lean ====
section
/-!
DEFINITION. Accounting (spec/15_tenancy.md, R433 to R436): windows and their edges, the records of Table 15.11, the split of rail energy, and ACCT_CTL.
-/
namespace Sys2Proof.Machine

/-! ### Windows (R433, R497) -/

/-- The ten counters of a context, in the order of Table 15.10. -/
def State.acctCounters (s : State) (c : Nat) : List Nat := (List.range 10).map (fun i => s.regN (offAcctCtr c i))

/-- The timebase reaches t: when the window in progress has ended, the counters are kept for its records and the window that holds t begins, with the length set last.
Windows that lie wholly within a step forward have no record (log 35). -/
def State.crossWindow (s : State) (t : Nat) : State :=
  let x := s.ten
  let stop := x.window + x.windowLen
  if t < stop then s
  else
    let w := max 1 (s.regN offAcctWindowNs)
    let m := (t - stop) / w
    { s with ten := { x with
      edges := x.edges ++ [(x.windowNo, stop, x.ctxs.map (fun e => (e.1, s.acctCounters e.1)))]
      window := stop + m * w
      windowNo := x.windowNo + 1 + m
      windowLen := w } }

/-! ### Records (R436, Table 15.11) -/

/-- Bytes of a record: the shares of the interval are the counters less those at its start. -/
def acctBytes (c : Nat) (x : CtxState) (now : List Nat) (stop : Nat) (final : Bool) : List Byte :=
  let share (i : Nat) : Nat := now.getD i 0 - x.acctBase.getD i 0
  leBytes 1 c ++ leBytes 1 (x.lent.toNat + 2 * x.acctFirst.toNat + 4 * final.toNat) ++ zeroBytes 6 ++ leBytes 8 x.acctStart ++ leBytes 8 stop ++
    leBytes 8 (share 0) ++ leBytes 8 (share 1) ++ leBytes 8 (share 2) ++ leBytes 8 (share 3) ++ leBytes 8 (share 4) ++ leBytes 8 (share 5) ++
    leBytes 8 (share 6) ++ leBytes 4 (share 7) ++ leBytes 4 (share 9) ++ leBytes 8 (share 8) ++ zeroBytes 32

/-- Whether records are written (log 62). -/
def State.acctOn (s : State) : Bool := bitN (s.regN offAcctCtl) 0

/-- Write one record at the next slot of the buffer. -/
def State.writeAcct (s : State) (bs : List Byte) : State :=
  if s.acctOn then
    let n := s.regN offAcctCount
    (s.hostWrite 0 (s.regN offAcctBase + 128 * (n % max 1 (s.regN offAcctSize))) bs).count offAcctCount 1
  else s

/-- The record of a context for an interval that ends at `stop`, with the counters as they were then; its next interval begins there. -/
def State.acctRecord (s : State) (c : Nat) (now : List Nat) (stop : Nat) (final : Bool) : State :=
  match s.ctx? c with
  | none => s
  | some x => (s.writeAcct (acctBytes c x now stop final)).setCtx c { x with acctFirst := false, acctStart := stop, acctBase := now }

/-- Write the records of the oldest ended window, in ascending context order, and post its notice. -/
def State.flushEdge (s : State) : State :=
  match s.ten.edges with
  | [] => s
  | (idx, stop, ctrs) :: rest =>
    let s := { s with ten := { s.ten with edges := rest } }
    let s := ctrs.foldl (fun s e => s.acctRecord e.1 e.2 stop false) s
    if s.acctOn then
      s.postEventRecord ([0x91#8] ++ zeroBytes 7 ++ leBytes 8 idx ++ leBytes 8 (s.regN offAcctCount) ++ leBytes 8 s.now)
    else s

/-- Whether the energy of an ended window is still being measured: the interval that runs began in it (R435). -/
def State.edgeOpen (s : State) : Bool := s.ten.edges.any (fun e => s.power.railTime < e.2.1)

/-- ACCT_WINDOW_END: the records of the oldest window whose energy is all known (log 36). -/
def execAcctWindowEnd (s : State) : Host.Outcome State Fault Refusal :=
  .next (s.unlessTripped fun s => match s.ten.edges with
    | [] => s
    | e :: _ => if s.power.railTime < e.2.1 then s else s.flushEdge)

/-- The last record of a context that ends now; those of windows already over come first. -/
def State.acctFinal (s : State) (c : Nat) : State :=
  let s := s.ten.edges.foldl (fun s _ => s.flushEdge) s
  s.acctRecord c (s.acctCounters c) s.now true

/-- ACCT_CTL: a change of EN from 0 to 1 sets ACCT_COUNT to 0. In recovery mode it is ignored (R490). -/
def execAcctCtl (value : W64) (s : State) : Host.Outcome State Fault Refusal :=
  .next (
    let en := value.toNat % 2
    if !s.pf0Open then s
    else
    let s := if en = 1 ∧ !s.acctOn then s.setRegN offAcctCount 0 else s
    s.setRegN offAcctCtl en)

/-! ### Energy (R435, R481) -/

/-- Add the energy of the interval that ends to a context's account. It belongs to the window that contains the interval's start, so it is in what was kept at the end of that window and of
each later one. -/
def State.addEnergy (s : State) (c uj : Nat) : State :=
  let s := s.count (offAcctCtr c 5) uj
  { s with ten := { s.ten with edges := s.ten.edges.map (fun (e : Nat × Nat × Tab (List Nat)) =>
      if s.power.railTime < e.2.1 then
        (e.1, e.2.1, e.2.2.map (fun q => if q.1 = c then (q.1, q.2.set 5 (min (q.2.getD 5 0 + uj) ctrMax)) else q))
      else e) } }

/-- Split energy in proportion to use; a share that is not whole is rounded down or up, which the spec does not state (log 36). Only lent contexts are charged. -/
def State.splitEnergy (s : State) (uj : Nat) (use : List (Nat × Nat)) : State :=
  let total := (use.map (·.2)).foldl (· + ·) 0
  if total = 0 then s
  else use.foldl (fun s q =>
    let lent := ((s.ctx? q.1).map (·.lent)).getD false
    if !lent then s
    else
      let v := uj * q.2
      let (up, s) := s.freeBool
      s.addEnergy q.1 (v / total + (if v % total ≠ 0 ∧ up then 1 else 0))) s

/-- The number under which the use of contexts that have ended in the interval is kept: it has its share, which is charged to no one. -/
def endedCtx : Nat := 64

/-- A context ends: its use of the interval stays in the split (log 36). -/
def State.keepUse (s : State) (c : Nat) : State :=
  let move (t : Tab Nat) (i j : Nat) : Tab Nat := tabErase (tabSet 0 t j (tabGet 0 t j + tabGet 0 t i)) i
  { s with ten := { s.ten with
    engSteps := (List.range 4).foldl (fun t d => move t (4 * c + d) (4 * endedCtx + d)) s.ten.engSteps
    dramBytes := move s.ten.dramBytes c endedCtx
    tblSteps := move s.ten.tblSteps c endedCtx
    fabBytes := move s.ten.fabBytes c endedCtx } }

/-- RAIL_ENERGY_INTERVAL: ten microseconds after the last, the energy of each rail is added to RAIL_ENERGY and split among the contexts. -/
def execRailEnergyInterval (energy : List Nat) (s : State) : Host.Outcome State Fault Refusal :=
  .next (s.unlessTripped fun s =>
    if s.now - s.power.railTime < 10000 then s
    else
      let e (j : Nat) : Nat := energy.getD j 0
      let s := (List.range 11).foldl (fun s j => s.setRegN (offRailEnergy j) (s.regN (offRailEnergy j) + e j)) s
      let cs := s.ten.ctxs.map (·.1) ++ [endedCtx]
      let s := (List.range 4).foldl (fun s d => s.splitEnergy (e d) (cs.map (fun c => (c, tabGet 0 s.ten.engSteps (4 * c + d))))) s
      let s := s.splitEnergy (e 5 + e 6) (cs.map (fun c => (c, tabGet 0 s.ten.dramBytes c)))
      let s := s.splitEnergy (e 4 + e 7 + e 8) (cs.map (fun c => (c, 64 * tabGet 0 s.ten.tblSteps c + tabGet 0 s.ten.fabBytes c)))
      { s with
        ten := { s.ten with engSteps := [], dramBytes := [], tblSteps := [], fabBytes := [] }
        power := { s.power with railTime := s.now } })

end Sys2Proof.Machine
end

