-- ==== Sys2Proof/Machine/Tenancy.lean ====
section
/-!
DEFINITION. Tenant contexts (spec/15_tenancy.md): their creation and map (R410 to R416, R498), keys (R417), teardown (R418 to R421), pre-emption and resume (R422 to
R427, R431), and the function resets that bring teardowns (R402 to R405).
-/
namespace Sys2Proof.Machine

/-! ### Statuses of Table 15.12 -/

def stCtxExists : Nat := 0x81
def stInsufficient : Nat := 0x82
def stMapConflict : Nat := 0x83
def stNotLent : Nat := 0x84
def stWrongState : Nat := 0x85
def stKeepUnlisted : Nat := 0x86
def stNoFunction : Nat := 0x87
def stTornDown : Nat := 0x88
def stBadKey : Nat := 0x89
def stKeyUnavailable : Nat := 0x58

/-- The life-cycle state (R437). -/
def State.lcState (s : State) : Nat := if s.sec.fuses.lcDecom then 0 else s.sec.fuses.lcBits.toNat

/-! ### Clusters (R31, R159) -/

/-- Whether the package has been found failed: a ledger word lost in both copies (R169) or a failed router (R29). It then serves no context. -/
def State.packageFailed (s : State) : Bool := s.press.failed.isSome || !s.net.badDies.isEmpty

/-- Free good clusters, ascending (R31); none of a failed package (log 105). -/
def State.freeClusters (s : State) : List Nat :=
  if s.packageFailed then [] else (List.range 200).filter (fun k => (s.cluster k).owner.isNone && !s.retired k && !(s.cluster k).failed)

/-- Give clusters to a context in logical order. -/
def State.giveClusters (s : State) (c : Nat) (l : List Nat) (wipe : Bool) : State :=
  l.zipIdx.foldl (fun s k => s.setCluster k.1 { s.cluster k.1 with owner := some (c, k.2), wiping := wipe }) s

/-- The matrix engines of a cluster that has been wiped hold no command, so that MX_DRAINED has taken effect on each (R71). -/
def State.drainWiped (s : State) (k : Nat) : State :=
  if s.drainedBit k then s else (List.range 128).foldl (fun s i => s.modCore (128 * k + i) (fun c => { c with drained := false })) s

/-- Wipe the scratchpads and cluster stores of some clusters and set their cores to the reset state (R159). A core's reads of the timebase still never decrease
(R27), and its matrix engine runs as MX_DRAINED says. -/
def State.wipeClusters (s : State) (l : List Nat) : State :=
  let inside (a : Nat) : Bool := !isDram a && l.contains (clusterOfPhys a)
  l.foldl State.drainWiped { s with
    mem := s.mem.filter (fun e => !inside e.1)
    damage := s.damage.filter (fun e => !inside e.1)
    rowPoison := s.rowPoison.filter (fun w => !inside (64 * w))
    rowUe := (s.rowPoison.filter (fun w => inside (64 * w))).foldl (fun t w => tabInsert t w s.now) s.rowUe
    cores := (s.cores.map (fun e => if l.contains (coreCluster e.1) then (e.1, { CoreState.reset with lastRdtb := e.2.lastRdtb }) else e)).filter
      (fun e => decide (e.2 ≠ CoreState.reset))
    net := l.foldl NetState.quietBanks s.net }

/-- Wipe clusters and return them to the free set. -/
def State.freeClusterList (s : State) (l : List Nat) : State :=
  l.foldl (fun s k => s.setCluster k { s.cluster k with owner := none, wiping := false }) (s.wipeClusters l)

/-- CLUSTER_WIPE_DONE: the wipe of a new context's clusters is complete, so its first launch may start (R159). -/
def execClusterWipeDone (c : Ctx) (s : State) : Host.Outcome State Fault Refusal :=
  .next (s.unlessTripped fun s =>
    let l := ((s.ctx? c).map (·.clusters)).getD []
    l.foldl (fun s k => s.setCluster k { s.cluster k with wiping := false }) s)

/-! ### Creating a context (R415, R416) -/

/-- Bytes of a save area and of a reply area. -/
def saveBytes (n : Nat) : Nat := 2 ^ 20 + n * 2 ^ 24
def replyBytes : Nat := 196 * 2 ^ 20

/-- The save and reply areas of every context that exists. -/
def State.firmwareAreas (s : State) (only : Nat → Bool) : List (Nat × Nat) :=
  (s.ten.ctxs.filter (fun e => only e.1)).flatMap (fun e => [(e.2.saveBase.toNat, saveBytes e.2.count), (e.2.replyBase.toNat, replyBytes)])

/-- The vat overflow pools. -/
def State.overflowAreas (s : State) : List (Nat × Nat) :=
  (List.range 6).map (fun k => (s.regN (offOvfBase k), s.regN (offOvfCount k) * vatSize k))

/-- The ranges of the non-empty map entries of some contexts. -/
def State.mapRanges (s : State) (only : Nat → Bool) (ok : BitVec 128 → Bool) : List (Nat × Nat) :=
  (s.ten.ctxs.filter (fun e => only e.1)).flatMap (fun e =>
    (e.2.map.filter (fun m => mapFrames m.2 != 0 && ok m.2)).map (fun m => (mapBase m.2, mapFrames m.2 * 65536)))

def meetsAny (a n : Nat) (l : List (Nat × Nat)) : Bool := l.any (fun r => rangesMeet a n r.1 r.2)

/-- Whether a range can be a new save or reply area: whole native flat frames, and free of every map entry, area, weight region and overflow pool. -/
def State.areaFree (s : State) (a n : Nat) : Bool :=
  isNative a && (s.flatPieces a n).isSome &&
  !meetsAny a n (s.mapRanges (fun _ => true) (fun _ => true) ++ s.firmwareAreas (fun _ => true) ++ s.weightRegions ++ s.overflowAreas)

/-- The field rules of Table 15.3. -/
def createFields (b : List Byte) : Bool :=
  let n := fieldN b 8 2
  fieldN b 1 1 < 2 && fieldN b 2 1 < 64 && fieldZero b 3 1 && 1 ≤ n && n ≤ 200 && fieldZero b 0xA 6 && fieldN b 0x18 8 % 65536 == 0 &&
  fieldN b 0x20 8 % 65536 == 0 && fieldZero b 0x28 24

/-- A context that has just been created. -/
def newCtx (lent : Bool) (l : List Nat) (srKey saveBase replyBase : W64) (now : Nat) : CtxState where
  lent := lent
  phase := .active
  count := l.length
  clusters := l
  srKey := srKey
  saveBase := saveBase
  replyBase := replyBase
  map := []
  preempt := none
  resume := none
  stopped := false
  saved := none
  savedRows := false
  replies := []
  log := []
  heldWrites := []
  ending := none
  owed := []
  acctFirst := true
  acctStart := now
  acctBase := List.replicate 10 0

/-- The counters of a context's block (R434, R495). -/
def isCtxCounter (c a : Nat) : Bool := ctxReg c 0x400 ≤ a && a < ctxReg c 0x600

/-- Whether the life cycle lets context c exist (Table 16.3) (log 55). -/
def State.lcAllows (s : State) (c : Nat) : Bool := s.lcState == 7 || (s.lcState == 1 && c == 0)

/-- CTX.CREATE: it waits on its ring until the timebase is acquired (R456). -/
def execCtxCreate (fn : Fn) (ring : Ring) (s : State) : Host.Outcome State Fault Refusal :=
  .next (s.onDesc fn ring 0x80 (fun s d b =>
    if !s.time.acquired then s
    else if !createFields b then s.finish d stBadField []
    else
      let c := fieldN b 2 1
      let lent := bitN (fieldN b 1 1) 0
      let n := fieldN b 8 2
      let save := fieldN b 0x18 8
      let rep := fieldN b 0x20 8
      if (s.ctx? c).isSome then s.finish d stCtxExists []
      else if (c = 0 ∧ lent) ∨ !s.lcAllows c then s.finish d stWrongState []
      else if !s.fnExists c then s.finish d stNoFunction []
      else if !s.areaFree save (saveBytes n) || !s.areaFree rep replyBytes || rangesMeet save (saveBytes n) rep replyBytes then s.finish d stMapConflict []
      else
        let l := s.freeClusters.take n
        if l.length < n then s.finish d stInsufficient []
        else
          let s := ((s.wipeClusters l).giveClusters c l true).resetRegs (isCtxCounter c)
          let x := newCtx lent l (BitVec.ofNat 64 (fieldN b 0x10 8)) (BitVec.ofNat 64 save) (BitVec.ofNat 64 rep) s.now
          (s.setCtx c x).finish d 0 []))

/-! ### CTX.MAP (R414, R498) -/

/-- R414: whether an entry whose FRAMES is not 0 may be written for context c. -/
def State.mapConflict (s : State) (c : Nat) (x : CtxState) (v : BitVec 128) : Bool :=
  let a := mapBase v
  let n := mapFrames v * 65536
  let other (k : Nat) : Bool := k != c
  2 ≤ mapDispose v || (s.flatPieces a n).isNone ||
  meetsAny a n ([(x.saveBase.toNat, saveBytes x.count), (x.replyBase.toNat, replyBytes)] ++ s.overflowAreas) ||
  ((mapWr v || mapRemWr v) && meetsAny a n (s.mapRanges other (fun _ => true))) ||
  meetsAny a n (s.mapRanges other (fun e => mapWr e || mapRemWr e))

/-- CTX.MAP. -/
def execCtxMap (fn : Fn) (ring : Ring) (s : State) : Host.Outcome State Fault Refusal :=
  .next (s.onDesc fn ring 0x81 (fun s d b =>
    let c := fieldN b 2 1
    let v := BitVec.ofNat 128 (fieldN b 0x10 16)
    if !(fieldZero b 1 1 && c < 64 && fieldZero b 3 1 && fieldZero b 9 7 && fieldZero b 0x20 32 && bitsN v.toNat 127 95 == 0 &&
        (mapFrames v == 0 || mapBase v % 65536 == 0)) then s.finish d stBadField []
    else
      match s.ctx? c with
      | none => s.finish d stNoCtx []
      | some x =>
        if mapFrames v ≠ 0 && s.mapConflict c x v then s.finish d stMapConflict []
        else (s.setCtx c { x with map := tabSet 0 x.map (fieldN b 8 1) v }).finish d 0 []))

/-! ### CTX.KEYSET (R417) -/

/-- CTX.KEYSET: the 64 bytes at KEY_PTR come with the command. A new KEEP_KEY starts the sequence numbers of its nonces again (R424, R430) (log 58). -/
def execCtxKeyset (fn : Fn) (ring : Ring) (key : HostData) (s : State) : Host.Outcome State Fault Refusal :=
  .next (s.onDesc fn ring 0x86 (fun s d b =>
    let c := fieldN b 2 1
    let k := fieldN b 8 1
    if !(fieldZero b 1 1 && c < 64 && fieldZero b 3 1 && k ≤ 4 && fieldZero b 9 7 && fieldZero b 0x18 40) then s.finish d stBadField []
    else if (s.ctx? c).isNone then s.finish d stNoCtx []
    else if s.sec.rindWiped || s.sec.rindBusy then s.finish d stKeyUnavailable []
    else
      s.withFetch (fieldN b 0x10 8) 64 (fun s => match key with
      | .abort => s.finish d stHostAbort []
      | .poison => s.finish d stHostPoison []
      | .data bs =>
        let good := bs.length == 64 && (if k = 4 then fieldZero bs 32 32 else (ecKey bs).isSome)
        if !good then s.finish d stBadKey []
        else
          let s := s.rindAccess 3 (rindCtxKey c k) 64 true
          let s := { s with sec := { s.sec with rind := { s.sec.rind with
            ctxKeys := tabInsert s.sec.rind.ctxKeys (8 * c + k) (if k = 4 then bs.take 32 else bs) } } }
          let s := if k = 4 then (s.setRegN (offReclaimSeq c) 0).setRegN (offPreemptSeq c) 0 else s
          s.finish d 0 [])))

/-! ### Teardown (R420, R421) -/

/-- Whether reads or atomics of a context are still open (log 53). -/
def State.drainOpen (s : State) (c : Nat) : Bool := s.memop.slots.any (fun e => e.2.ctx == c && (e.2.kind == 0x10 || e.2.kind == 0x13))

/-- Whether a delivered packet is one of context c's for this package. -/
def State.packetOf (s : State) (c : Nat) (p : Packet) : Bool :=
  let t := p.typ.toNat
  let forwarded := t == 0x31 || (t == 0x30 && !s.isSelf p.final.toNat)
  0x10 ≤ t && t < 0x60 && !forwarded && p.dctx.toNat == c

/-- Discard the packets of a context that wait before their blocks (R285). -/
def State.dropPackets (s : State) (c : Nat) : State :=
  let gone := s.fab.inbox.filter (s.packetOf c)
  let s := s.setInbox (s.fab.inbox.filter (fun p => !s.packetOf c p))
  gone.foldl (fun s p =>
    let s := s.count (offFabPkg 6) 1
    if pktWrites p then s.oweAck p.src.toNat else s) s

/-- Release the slots a context still holds when its drain has ended: its remote writes not covered by an ACK, which are counted (Table 15.5). Those that have not
entered their stream are not sent. -/
def State.releaseSlots (s : State) (c : Nat) : State :=
  let mine := s.memop.slots.filter (fun e => e.2.ctx == c)
  let ns := mine.map (·.1)
  let keep (w : Packet × Option Nat) : Bool := match w.2 with | some n => !ns.contains n | none => true
  let s := { s with
    memop := { s.memop with slots := s.memop.slots.filter (fun e => e.2.ctx != c) }
    fab := { s.fab with peers := s.fab.peers.map (fun (e : Nat × PeerState) => (e.1, { e.2 with tx := e.2.tx.map (fun (t : Nat × TxStream) =>
      (t.1, { t.2 with waiting := t.2.waiting.filter keep })) })) } }
  s.noteLost c 0 (mine.filter (fun e => e.2.kind == 0x11 || e.2.kind == 0x12)).length

/-- Remove a context's tenant keys by writing zeros over their entries (R155). -/
def State.dropKeys (s : State) (c : Nat) : State :=
  let s := s.rindAccess 3 (rindCtxKey c 0) 512 true
  { s with sec := { s.sec with rind := { s.sec.rind with ctxKeys := s.sec.rind.ctxKeys.filter (fun e => e.1 / 8 != c) } } }

/-- Step 3 of R420: the blocks end the context's work. -/
def State.endWork (s : State) (c : Nat) : State :=
  let s := (s.releaseSlots c).dropCommands c
  let s := s.modCtx c (fun x => { x with ending := x.ending.map (fun e => { e with drained := true }) })
  let s := ((s.dropSequences c).dropDealer c).dropColls c
  let s := (((s.dropCopies c).dropVats c).dropWeights c).dropKeys c  -- the vats together (R271)
  s.dropPackets c

/-- Management descriptors of a PF0 ring that are still open. -/
def State.mgmtOpen (s : State) (i : Nat) : Nat :=
  let of (l : List DescRef) : Nat := (l.filter (fun d => d.fn == 0 && d.ring == i)).length
  ((s.ten.ctxs.map (fun e => of (e.2.preempt.toList ++ e.2.resume.toList ++ e.2.owed.map (·.1)))).foldl (· + ·) 0) + of (s.ten.reclaim.map (·.desc))

/-- The descriptors of a context that were accepted and not completed never complete; those of PF0 that concern other contexts stay open. -/
def State.closeDescs (s : State) (c : Nat) : State :=
  (List.range 8).foldl (fun s i => let r := s.ring c i; s.setRing c i { r with open_ := if c = 0 then s.mgmtOpen i else 0 }) s

/-- The teardown record (Table 15.5). -/
def State.teardownBytes (s : State) (c : Nat) (e : Ending) : List Byte :=
  leBytes 1 0x90 ++ zeroBytes 1 ++ leBytes 1 c ++ leBytes 1 (e.cls % 16 + e.reason * 16) ++ leBytes 4 e.tag.toNat ++ leBytes 8 e.detail.toNat ++
    leBytes 4 e.atomics ++ leBytes 4 e.writes ++ leBytes 8 s.now

/-- Take an ended context out of the reclaims it was part of; one whose contexts have all ended completes (R430). -/
def State.settleReclaims (s : State) (c : Nat) : State :=
  let l := s.ten.reclaim.map (fun q => { q with
    ctxs := q.ctxs.filter (· != c)
    regions := q.regions.map (fun r => if r.ctx = c ∧ !r.done then { r with done := true, partial_ := true, queue := [] } else r) })
  let overBy := l.filter (fun q => q.ctxs.isEmpty)
  let s := { s with ten := { s.ten with reclaim := l.filter (fun q => !q.ctxs.isEmpty) } }
  overBy.foldl (fun s q =>
    let part := (q.regions.filter (·.partial_)).length
    s.complete q.desc 0 (leBytes 4 (q.regions.length - part) ++ leBytes 4 part ++ leBytes 8 q.copied)) s

/-- FN_STATUS of an ended context, and the interrupt of a fault teardown (R404). -/
def State.fnEnded (s : State) (c : Nat) (e : Ending) : State :=
  if s.host.resetting.contains c then s
  else
    let fault := e.reason ≤ reasonOverflow
    let old := if bitN (s.regN (fnReg c offFnStatus)) 0 ∨ fault then 1 else 0
    let s := s.setRegN (fnReg c offFnStatus) (old + e.cls % 16 * 16 + e.reason % 16 * 256)
    let v := s.regN (fnReg c offFnEventVector)
    if fault then
      let s := s.setBacklog c []
      if bitN v 8 then s.sendMsix c (v % 64) else s
    else s

/-- Steps 4 and 5 of R420: clusters wiped and freed, the map and areas released, FN_STATUS, the interrupt and the records, and what waited for them (log 54). -/
def State.endContext (s : State) (c : Nat) (x : CtxState) (e : Ending) : State :=
  let s := ((s.freeClusterList x.clusters).acctFinal c).closeDescs c
  let s := (s.keepUse c).dropBindings c
  let s := { s with ten := { s.ten with ctxs := tabErase s.ten.ctxs c } }
  let s := { s with
    net := s.net.dropCtx c
    clusters := s.clusters.map (fun (k : Nat × ClusterState) => if k.2.failCtx = some c then (k.1, { k.2 with failCtx := none }) else k) }
  let s := (s.resetRegs (isCtxCounter c)).fnEnded c e
  let s := s.postEventRecord (s.teardownBytes c e)
  (x.owed.foldl (fun s o => s.complete o.1 o.2 []) s).settleReclaims c

/-- TEARDOWN_DRAIN_END: no read or atomic of an ending context is open. The rest of the teardown follows; it waits while another context's boundary keeps the
slots of this one from retiring (R211), and while the energy of an ended window is still being measured (log 36). -/
def execTeardownDrainEnd (c : Ctx) (s : State) : Host.Outcome State Fault Refusal :=
  .next (s.unlessTripped fun s => match s.ctx? c with
    | none => s
    | some x =>
      match x.ending with
      | none => s
      | some e =>
        if s.drainOpen c then s
        else
          let s := if e.drained then s else s.endWork c
          if s.seq.tornDown.contains c.val ∨ s.edgeOpen then s
          else
            match s.ctx? c with
            | some y => (match y.ending with | some e => s.endContext c y e | none => s)
            | none => s)

/-- CTX.DESTROY: tears the context down with reason DESTROYED, and completes when that has ended (log 59). -/
def execCtxDestroy (fn : Fn) (ring : Ring) (s : State) : Host.Outcome State Fault Refusal :=
  .next (s.onDesc fn ring 0x84 (fun s d b =>
    let c := fieldN b 2 1
    if !(fieldZero b 1 1 && c < 64 && fieldZero b 3 1 && fieldZero b 8 56) then s.finish d stBadField []
    else if (s.ctx? c).isNone then s.finish d stNoCtx []
    else
      let s := (s.accept d).beginTeardown c 0 reasonDestroyed d.tag 0
      s.modCtx c (fun x => { x with owed := x.owed ++ [(d, 0)] })))

/-! ### Pre-emption (R422 to R426) -/

/-- The fields of CTX.PREEMPT and CTX.RESUME. -/
def ctxOnly (b : List Byte) : Bool := fieldZero b 1 1 && fieldN b 2 1 < 64 && fieldZero b 3 1 && fieldZero b 8 56

/-- CTX.PREEMPT: the context is Stopping; its sequence number and, for a serving context, its count of pre-emptions go up (log 52). -/
def execCtxPreempt (fn : Fn) (ring : Ring) (s : State) : Host.Outcome State Fault Refusal :=
  .next (s.onDesc fn ring 0x82 (fun s d b =>
    let c := fieldN b 2 1
    if !ctxOnly b then s.finish d stBadField []
    else
      match s.ctx? c with
      | none => s.finish d stNoCtx []
      | some x =>
        if x.phase ≠ .active then s.finish d stWrongState []
        else
          let s := (s.accept d).setCtx c { x with phase := .stopping, preempt := some d, stopped := false }
          let s := s.setRegN (offPreemptSeq c) ((s.regN (offPreemptSeq c) + 1) % 2 ^ 32)
          let s := if x.lent then s else s.count (offAcctCtr c 7) 1
          s.pauseColls c))

/-- A core's number or an SRAM address with its cluster renamed. -/
def renameCore (f : Nat → Nat) (n : Nat) : Nat := f (n / 128) * 128 + n % 128
def renameAddr (f : Nat → Nat) (a : Nat) : Nat :=
  if isStore a then storePhys (f (clusterOfPhys a)) ((a - 2 ^ 42) % 2 ^ 22) else 2 ^ 43 + f (clusterOfPhys a) * 2 ^ 23 + (a - 2 ^ 43) % 2 ^ 23

/-- The logical number of a package cluster of a list, and back. -/
def toLogical (l : List Nat) (k : Nat) : Nat := l.idxOf k
def toPhysical (l : List Nat) (j : Nat) : Nat := l.getD j 0

/-- Stop every core of some clusters at its instruction boundary (R423, R139). -/
def State.stopCores (s : State) (l : List Nat) : State :=
  { s with cores := s.cores.map (fun e =>
      if l.contains (coreCluster e.1) && e.2.run == .running then (e.1, { e.2 with run := RunState.stopped }) else e) }

/-- The parts of a save area of n clusters: the first 64 KiB block of each, counted from SAVE_BASE, and how many blocks it has before its tag block (R424). -/
def saveParts (n : Nat) : List (Nat × Nat) := (0, 15) :: (List.range n).map (fun j => (16 + 256 * j, 255))

/-- The nonce of a block of a save area (R424). -/
def saveNonce (b seq : Nat) : List Byte := leBytes 4 b ++ leBytes 1 0 ++ leBytes 1 2 ++ zeroBytes 2 ++ leBytes 4 seq

/-- The bytes the save writes. What firmware lays out in a block is its own, so the plaintext is free (log 51). With a KEEP_KEY each block is encrypted and its tag stands in the tag block of
its part; without one the blocks are written in the clear and the tag blocks as zeros (R424). -/
def State.writeSaveArea (s : State) (c : Nat) (x : CtxState) : State :=
  let a := x.saveBase.toNat
  let key := tabGet [] s.sec.rind.ctxKeys (8 * c + 4)
  let seq := s.regN (offPreemptSeq c)
  let s := if key.isEmpty then s else s.readCtxKey c 4
  let s := s.scramble ((s.flatPieces a (saveBytes x.count)).getD [])
  (saveParts x.count).foldl (fun s p =>
    let tags := a + 65536 * (p.1 + p.2)
    if key.isEmpty then s.writeNative tags (zeroBytes 65536)
    else
      (List.range p.2).foldl (fun s i =>
        let plain := s.freeBytes 65536
        let e := gcmEncrypt key (saveNonce (p.1 + i) seq) plain.1
        (plain.2.writeNative (a + 65536 * (p.1 + i)) e.1).writeNative (tags + 16 * i) e.2) s) s

/-- The bytes that stand at a native flat address. -/
def State.nativeBytes (s : State) (a n : Nat) : List Byte := ((s.flatPieces a n).getD []).flatMap (fun p => s.readPhys p.2.1 p.2.2)

/-- Whether every block of a context's save area verifies against its tag (R424). -/
def State.tagsVerify (s : State) (c : Nat) (x : CtxState) : Bool :=
  let a := x.saveBase.toNat
  let key := tabGet [] s.sec.rind.ctxKeys (8 * c + 4)
  let seq := s.regN (offPreemptSeq c)
  key.isEmpty || (saveParts x.count).all (fun p => (List.range p.2).all (fun i =>
    gcmTag key (saveNonce (p.1 + i) seq) (s.nativeBytes (a + 65536 * (p.1 + i)) 65536) == s.nativeBytes (a + 65536 * (p.1 + p.2) + 16 * i) 16))

/-- Read a context's save area back: whether it holds what was saved, as far as poison and the tags tell (log 51). -/
def State.checkSave (s : State) (c : Nat) (x : CtxState) : State × Bool :=
  ((s.flatPieces x.saveBase.toNat (saveBytes x.count)).getD []).foldl (fun (r : State × Bool) p =>
    let d := r.1.checkDram p.2.1 p.2.2
    (d.1, r.2 && d.2.isNone)) (if tabHas s.sec.rind.ctxKeys (8 * c + 4) then s.readCtxKey c 4 else s, s.tagsVerify c x)

/-- The save reads every row: single errors are corrected, and a poisoned row faults the context (R144). -/
def State.saveRead (s : State) (c : Nat) (l : List Nat) : State :=
  let inside (a : Nat) : Bool := !isDram a && l.contains (clusterOfPhys a)
  let s := (s.damage.filter (fun e => inside e.1)).foldl (fun s e => s.meetDamage e.1 e.2) s
  if s.rowPoison.any (fun w => inside (64 * w)) then s.fault c clsUncorr 0 else s

/-- Rename the cores that a context's slots and reply-area entries belong to. -/
def State.renameOwners (s : State) (c : Nat) (f : Nat → Nat) : State :=
  let s := { s with memop := { s.memop with slots := s.memop.slots.map (fun (e : Nat × ReqSlot) =>
      if e.2.ctx = c then (e.1, { e.2 with owner := match e.2.owner with | .dma k i => .dma (renameCore f k) i | o => o }) else e) } }
  s.modCtx c (fun x => { x with replies := x.replies.map (fun r => { r with core := renameCore f r.core }) })

/-- Take a context's clusters from it, wiped and free (R425, R430). -/
def State.yieldClusters (s : State) (c : Nat) (l : List Nat) : State :=
  let s := (s.renameOwners c (toLogical l)).freeClusterList l
  ({ s with net := s.net.dropCtx c }).modCtx c (fun y => { y with clusters := [] })

/-- A Reclaiming context that has stopped and drained holds no cluster from then on (Table 15.6, R430). -/
def State.releaseReclaimed (s : State) : State :=
  s.ten.ctxs.foldl (fun s e =>
    if e.2.phase == .reclaiming && e.2.stopped && !e.2.clusters.isEmpty && !s.drainOpen e.1 then s.yieldClusters e.1 e.2.clusters else s) s

/-- CORES_STOPPED: every core of a Stopping context has stopped, and the save of its rows runs; those of a Reclaiming context stop without one (R430) (log 50). -/
def execCoresStopped (c : Ctx) (s : State) : Host.Outcome State Fault Refusal :=
  .next (s.unlessTripped fun s => match s.ctx? c with
    | none => s
    | some x =>
      if x.stopped then s
      else if x.phase = .reclaiming then ((s.stopCores x.clusters).setCtx c { x with stopped := true }).releaseReclaimed
      else if x.phase = .stopping then
        let s := (s.stopCores x.clusters).saveRead c x.clusters
        if !s.ctxLive c then s
        else
          let rows := ((s.mem.filter (fun e => !isDram e.1 && x.clusters.contains (clusterOfPhys e.1))).map (fun e =>
            (renameAddr (toLogical x.clusters) e.1, e.2))).foldl (fun m e => tabInsert m e.1 e.2) []
          (s.setCtx c { x with stopped := true, savedRows := true, saved := some ⟨[], rows⟩ }).writeSaveArea c x
      else s)

/-- PREEMPT_COMPLETE: the save is complete and every outstanding read and atomic has ended. The clusters are wiped and freed, and the context is Suspended. -/
def execPreemptComplete (c : Ctx) (s : State) : Host.Outcome State Fault Refusal :=
  .next (s.unlessTripped fun s => match s.ctx? c with
    | none => s
    | some x =>
      if x.phase = .stopping ∧ x.stopped ∧ !s.drainOpen c then
        let l := x.clusters
        let cores := ((s.cores.filter (fun e => l.contains (coreCluster e.1))).map (fun e => (renameCore (toLogical l) e.1, e.2))).foldl
          (fun t e => tabInsert t e.1 e.2) []
        let s := (s.yieldClusters c l).modCtx c (fun y => { y with
          phase := .suspended
          preempt := none
          stopped := false
          saved := some ⟨cores, (y.saved.map (·.mem)).getD []⟩ })
        match x.preempt with
        | some d => s.complete d 0 []
        | none => s
      else s)

/-! ### Resume (R427) -/

/-- CTX.RESUME: the context's clusters are assigned, and it is Resuming. -/
def execCtxResume (fn : Fn) (ring : Ring) (s : State) : Host.Outcome State Fault Refusal :=
  .next (s.onDesc fn ring 0x83 (fun s d b =>
    let c := fieldN b 2 1
    if !ctxOnly b then s.finish d stBadField []
    else
      match s.ctx? c with
      | none => s.finish d stNoCtx []
      | some x =>
        if x.phase ≠ .suspended then s.finish d stWrongState []
        else
          let l := s.freeClusters.take x.count
          if l.length < x.count then s.finish d stInsufficient []
          else (((s.accept d).wipeClusters l).giveClusters c l false).setCtx c { x with phase := .resuming, clusters := l, resume := some d }))

/-- Restore the saved engine state and rows on the clusters assigned. A core's reads of the timebase still never decrease (R27), and its engine runs as MX_DRAINED has its new cluster (R71). -/
def State.restore (s : State) (l : List Nat) (v : SavedState) : State :=
  let f := toPhysical l
  let s := { s with mem := v.mem.foldl (fun m e => memWrite m (renameAddr f e.1) e.2) s.mem }
  v.cores.foldl (fun s e =>
    let k := s.core (renameCore f e.1)
    s.setCore (renameCore f e.1) { e.2 with
      run := if e.2.run = .stopped then .running else e.2.run, mxHalt := false, vxHalt := false, lastRdtb := max e.2.lastRdtb k.lastRdtb, drained := k.drained }) s

/-- Write each reply-area entry to its destination, in ascending slot order. -/
def State.replayReplies (s : State) (c : Nat) (l : List ReplyEntry) : State :=
  l.foldl (fun s r =>
    match s.localAccess r.core c r.dest r.bytes.length true with
    | .pieces p => (s.writeFor c p r.bytes)
    | _ => s) s

/-- Replay window-log records, or make held writes, in order; a held counter is added to. -/
def State.replayLog (s : State) (c : Nat) (l : List (Nat × List Byte)) : State :=
  l.foldl (fun s r =>
    if !s.ctxLive c then s
    else if r.2.isEmpty then s.bumpCounter 0 c r.1  -- what follows held writes (State.bumpAfter)
    else
      match s.packageAccess c r.1 r.2.length true with
      | .pieces p => s.writeFor c p r.2
      | _ => s) s

/-- RESUME_COMPLETE: the saved state is restored, then the reply area and the window log are replayed and the held writes released; the cores go on and the context
is Active. A save area that does not verify ends the context. `verified` is what the Presses report of the save area: an event whose report is not what poison and the tags give is
not offered (log 4, log 51). -/
def execResumeComplete (c : Ctx) (verified : Bool) (s : State) : Host.Outcome State Fault Refusal :=
  .next (s.unlessTripped fun s => match s.ctx? c with
    | none => s
    | some x =>
      if x.phase ≠ .resuming then s
      else
        let k := s.checkSave c x
        if k.2 != verified then s
        else if !k.2 then k.1.fault c clsUncorr 0
        else
          let s := k.1
          let s := match x.saved with
            | some v => s.restore x.clusters v
            | none => s
          let s := s.renameOwners c (toPhysical x.clusters)
          let replies := ((s.ctx? c).map (·.replies)).getD []
          let s := s.modCtx c (fun y => { y with
            phase := .active, saved := none, savedRows := false, replies := [], log := [], heldWrites := [], resume := none })
          let s := ((s.replayReplies c replies).replayLog c x.log).replayLog c x.heldWrites
          let s := ((s.launchHeld c).resumeColls c).advanceTricks c
          match x.resume with
          | some d => s.complete d 0 []
          | none => s)

/-! ### Function resets (R402 to R405, Table 14.9) -/

/-- Start the reset of some functions: no new TLP, completions of their reads discarded, HOST.COPY abandoned, and their contexts torn down. One being reset already is
left to the reset that runs. -/
def State.startResets (s : State) (fns : List Nat) : State :=
  fns.foldl (fun s f =>
    if s.host.resetting.contains f then s
    else
      let s := { s with host := { s.host with resetting := setAdd s.host.resetting f } }
      (s.dropCopies f).beginTeardown f 0 reasonReset 0 0) s

/-- The VFs that exist. -/
def State.liveVfs (s : State) : List Nat := ((List.range 64).drop 1).filter s.fnExists

/-- Functions leave D3hot as they are reset. -/
def State.wakeFns (s : State) (l : List Nat) : State := { s with host := { s.host with link := { s.host.link with d3hot := s.host.link.d3hot.filter (fun f => !l.contains f) } } }

/-- The effect of a PF0 reset, a link reset included: VF Enable is cleared and every context is torn down. -/
def State.resetPf0 (s : State) : State :=
  let fns := 0 :: s.liveVfs
  let s := ({ s with host := { s.host with vfEnable := false } }).wakeFns (s.host.link.d3hot.filter (· != 0))
  let s := s.startResets fns
  s.ten.ctxs.foldl (fun s e => s.beginTeardown e.1 0 reasonReset 0 0) s

/-- FUNCTION_LEVEL_RESET, or D3hot to D0, in which a function is from then on. -/
def execFunctionLevelReset (fn : Fn) (s : State) : Host.Outcome State Fault Refusal :=
  .next (s.unlessTripped fun s =>
    let s := s.wakeFns [fn.val]
    if fn = 0 then s.resetPf0 else if s.fnExists fn then s.startResets [fn] else s)

/-- VF_ENABLE_CLEAR: every VF is reset as by a function-level reset, and no VF responds. -/
def execVfEnableClear (s : State) : Host.Outcome State Fault Refusal :=
  .next (s.unlessTripped fun s =>
    let l := s.liveVfs
    (({ s with host := { s.host with vfEnable := false } }).wakeFns (l ++ s.host.link.d3hot.filter (· != 0))).startResets l)

/-- VF_ENABLE_SET. NumVFs and ARI Capable Hierarchy are as PF0's capability holds them when VF Enable is set. -/
def execVfEnableSet (numVfs : Fin 64) (ari : Bool) (s : State) : Host.Outcome State Fault Refusal :=
  .next (s.unlessTripped fun s => if s.host.resetting.contains 0 || s.host.vfEnable then s else { s with host := { s.host with vfEnable := true, numVfs := numVfs, ari := ari } })

/-- LINK_RESET: as a PF0 reset, with no further effect during a package reset (R485) (log 137); in addition the configuration registers return to reset when it is done. -/
def execLinkReset (s : State) : Host.Outcome State Fault Refusal :=
  .next (s.unlessTripped fun s =>
    if s.sec.boot = .held ∨ s.sec.boot = .wiping then s
    else
      let s := s.resetPf0
      { s with host := { s.host with linkReset := true } })

/-- The registers a PF0 reset leaves alone (Table 14.9): CLUSTER_RETIRED and what firmware holds of the running image and of drained operation; security, life cycle, timebase and ledger; the
configuration of the vat pools; and the set-up of ports and gateways. Every other register returns to its reset value, counters and telemetry among them (log 60). -/
def keptAtPf0 (o : Nat) : Bool :=
  (0x10000 ≤ o && o < 0x20000 && o != offTableSramCe) ||
  (0x20000 ≤ o && o < 0x30000) ||
  (0x80000 ≤ o && o < 0x90000 && o % 0x100 < 0x28) ||
  (0xA0100 ≤ o && o < 0xA0300)

/-- The register at an address returns to its reset value when the functions of a list are reset. -/
def resetByFns (fns : List Nat) (a : Nat) : Bool :=
  let f := a / 2 ^ 25
  let o := a % 2 ^ 25
  fns.contains f && (o < 0x10000 || !keptAtPf0 o) && o != offBootStatus

/-- What else goes with PF0's registers: VAT_FREE_MIN starts again from what is free, the peer tables that MEM_PEER_PTR had cached are forgotten (R309), and a push that is being read ends. -/
def State.clearPf0 (s : State) : State :=
  let s := (List.range 6).foldl (fun s k => s.setRegN (offVatFreeMin k) (s.vatF k)) s
  { s with
    memop := { s.memop with peerTab := [] }
    host := { s.host with push := none } }

/-- Return the set-up registers, MSI-X tables, counts and backlogs of functions to reset values. -/
def State.clearFns (s : State) (fns : List Nat) : State :=
  let s := s.resetRegs (resetByFns fns)
  let s := if fns.contains 0 then s.clearPf0 else s
  let h := s.host
  { s with host := { h with
    rings := h.rings.filter (fun e => !fns.contains (e.1 / 8))
    evq := if fns.contains 0 then .reset else h.evq
    backlog := h.backlog.filter (fun e => !fns.contains e.1)
    evBacklog := if fns.contains 0 then [] else h.evBacklog
    msix := h.msix.filter (fun e => !fns.contains (e.1 / 64))
    pba := h.pba.filter (fun k => !fns.contains (k / 64))
    reads := h.reads.filter (fun e => !fns.contains e.2.fn)
    resetting := h.resetting.filter (fun f => !fns.contains f) } }

/-- FUNCTION_RESET_DONE: once the contexts concerned are gone, the registers return to reset values and configuration requests are served. A VF reset that a PF0
reset has absorbed ends with it. A ledger layout other than the one the reset registers give is rebuilt (R170). -/
def execFunctionResetDone (fn : Fn) (s : State) : Host.Outcome State Fault Refusal :=
  .next (s.unlessTripped fun s =>
    if !s.host.resetting.contains fn.val then s
    else if fn = 0 then
      if !s.ten.ctxs.isEmpty then s
      else
        let moved := s.press.firsts != List.replicate 12 174763
        let s := (if moved ∧ s.press.ready then s.retireMarkedFree else s).clearFns s.host.resetting
        let s := if moved ∧ s.press.ready then s.initLedger else s  -- the marked free frames are retired before (R167)
        if s.host.linkReset then { s with host := { s.host with linkReset := false, numVfs := 0, ari := false, link := .reset } } else s
    else if (s.ctx? fn).isSome ∨ s.host.resetting.contains 0 then s
    else s.clearFns [fn])

end Sys2Proof.Machine
end

