-- ==== Sys2Proof/Machine/Reclaim.lean ====
section
/-!
DEFINITION. Reclaim (spec/15_tenancy.md, R428 to R431): the keep list, the encrypted copies of the regions kept, their deadline, and the end of a reclaim.
-/
namespace Sys2Proof.Machine

/-! ### CTX.RECLAIM (R428, R429) -/

/-- An entry of the keep list. -/
structure KeepEntry where
  ctx    : Nat
  entry  : Nat
  toHost : Bool
  dest   : Nat
deriving DecidableEq, Repr

def keepEntry (bs : List Byte) (i : Nat) : KeepEntry :=
  let b := (bs.drop (16 * i)).take 16
  ⟨fieldN b 0 1, fieldN b 1 1, bitN (fieldN b 2 1) 0, fieldN b 8 8⟩

/-- The contexts of a mask, ascending. -/
def maskCtxs (m : Nat) : List Nat := (List.range 64).filter (bitN m)

/-- The map entries of some contexts that are to be kept. -/
def State.keepers (s : State) (cs : List Nat) : List (Nat × Nat) :=
  cs.flatMap (fun c =>
    match s.ctx? c with
    | none => []
    | some x => (x.map.filter (fun m => mapFrames m.2 != 0 && mapDispose m.2 == 1)).map (fun m => (c, m.1)))

/-- Whether a keep list names every such entry exactly once and no other. -/
def State.keepListed (s : State) (cs : List Nat) (l : List KeepEntry) : Bool :=
  let named := l.map (fun e => (e.ctx, e.entry))
  let want := s.keepers cs
  named.length == want.length && want.all named.contains

/-- Whether a destination has its form: a direct global address, or any host address (log 57). -/
def keepDestOk (e : KeepEntry) : Bool := e.toHost || (match addrForm e.dest with | .global .. => true | _ => false)

/-- The field rules of Table 15.7. -/
def reclaimFields (b : List Byte) : Bool :=
  fieldZero b 1 3 && fieldN b 0x10 8 % 16 == 0 && fieldN b 0x18 4 ≤ 16384 && fieldZero b 0x1C 36

/-- Accept a reclaim: its contexts are Reclaiming, and each counts it (R430) (log 56). -/
def State.acceptReclaim (s : State) (d : DescRef) (cs : List Nat) (l : List KeepEntry) : State :=
  let id := s.ten.nextReclaim
  let s := s.accept d
  let q : Reclaim := ⟨id, d, cs, l.map (fun e => ⟨e.ctx, e.entry, e.toHost, e.dest, 0, [], false, false⟩), s.now, 0, false⟩
  let s := { s with ten := { s.ten with reclaim := s.ten.reclaim ++ [q], nextReclaim := id + 1 } }
  cs.foldl (fun s c =>
    let s := s.modCtx c (fun x => { x with
      phase := .reclaiming
      stopped := x.phase == .suspended || x.stopped
      saved := none
      savedRows := false })
    let s := s.setRegN (offReclaimSeq c) ((s.regN (offReclaimSeq c) + 1) % 2 ^ 32)
    s.pauseColls c) s

/-! ### Copies (R430) -/

/-- The nonce of a block of a region. -/
def keepNonce (b entry seq : Nat) : List Byte := leBytes 4 b ++ leBytes 1 entry ++ leBytes 1 1 ++ zeroBytes 2 ++ leBytes 4 seq

/-- Cut bytes for an address at the boundaries no remote write may cross. -/
def cutRemote (a : Nat) (bs : List Byte) (fuel : Nat) : List (Nat × List Byte) :=
  match fuel with
  | 0 => []
  | k + 1 =>
    if bs.isEmpty then []
    else
      let n := min bs.length (toGrid a)
      (a, bs.take n) :: cutRemote (a + n) (bs.drop n) k

/-- Prepare the next block of a region: its bytes, encrypted with their tag when the context has a KEEP_KEY. A poisoned word makes the block's bytes and tag such
that they do not verify, which the spec does not give: they are free, and the region is partial (log 61). -/
def State.prepareBlock (s : State) (k : KeepRegion) : State × KeepRegion :=
  match (s.ctx? k.ctx).map (fun x => tabGet 0 x.map k.entry) with
  | none => (s, { k with done := true, partial_ := true })
  | some v =>
    let b := k.block
    let r := s.readFor k.ctx ((s.flatPieces (mapBase v + 65536 * b) 65536).getD [])
    let key := tabGet [] s.sec.rind.ctxKeys (8 * k.ctx + 4)
    let seq := s.regN (offReclaimSeq k.ctx)
    let r := (if key.isEmpty then r.1 else r.1.readCtxKey k.ctx 4, r.2)
    let (s, bytes, tag, bad) := match r.2 with
      | .bytes bs =>
        let e := if key.isEmpty then (bs, []) else gcmEncrypt key (keepNonce b k.entry seq) bs
        (r.1, e.1, e.2, false)
      | _ =>
        let f := r.1.freeBytes 65552
        (f.2, f.1.take 65536, if key.isEmpty then [] else f.1.drop 65536, true)
    let put (a : Nat) (bs : List Byte) : List (Nat × List Byte) := if k.toHost then [(a, bs)] else cutRemote a bs (bs.length + 1)
    (s, { k with
      block := b + 1
      queue := k.queue ++ put (k.dest + 65536 * b) bytes ++ (if tag.isEmpty then [] else put (k.dest + 65536 * mapFrames v + 16 * b) tag)
      partial_ := k.partial_ || bad })

/-- Send one prepared piece: the region after it, or none while it must wait for a request slot. -/
def State.sendKept (s : State) (k : KeepRegion) (tagNo a : Nat) (bs : List Byte) : Option (State × Bool) :=
  if k.toHost then some (s.hostWrite k.ctx a bs, false)
  else
    match s.side a with
    | .remote g o =>
      match s.peerCtx k.ctx g with
      | none => some (s, true)
      | some dc =>
        if (s.peer g).dead then some (s.count (offFabPkg 5) 1, true)
        else if !s.slotFree k.ctx then none
        else
          let (n, tag, s) := s.takeSlot ⟨0, k.ctx, .reclaim tagNo, g, 0x11, 0, bs.length, none, none⟩
          some (s.sendSeq (s.mkPacket 0x11 0 g k.ctx dc [(0x10, 8, o), (0x18, 4, tag)] bs) (some n), false)
    | .here p =>
      match s.packageAccess k.ctx p bs.length true with
      | .pieces l => some (s.writeFor k.ctx l bs, false)
      | _ => some (s, true)
    | _ => some (s, true)

/-- Whether a piece of a region still waits for its acknowledgement. -/
def State.keptOpen (s : State) (tagNo : Nat) : Bool :=
  s.memop.slots.any (fun e => match e.2.owner with | .reclaim t => t == tagNo | _ => false)

/-- Bytes of a region. -/
def State.keptFrames (s : State) (k : KeepRegion) : Nat := ((s.ctx? k.ctx).map (fun x => mapFrames (tabGet 0 x.map k.entry))).getD 0

/-- Copy a region as far as it goes: the region as it then stands, and the data bytes handed on. -/
def State.pumpRegion (s : State) (tagNo : Nat) (k : KeepRegion) (sent fuel : Nat) : State × KeepRegion × Nat :=
  match fuel with
  | 0 => (s, k, sent)
  | f + 1 =>
    match k.queue with
    | (a, bs) :: rest =>
      (match s.sendKept k tagNo a bs with
       | none => (s, k, sent)
       | some (s, lost) =>
         let data := if a < k.dest + 65536 * s.keptFrames k then bs.length else 0
         s.pumpRegion tagNo { k with queue := rest, partial_ := k.partial_ || lost } (sent + data) f)
    | [] =>
      if k.block < s.keptFrames k then
        let r := s.prepareBlock k
        r.1.pumpRegion tagNo r.2 sent f
      else if s.keptOpen tagNo then (s, k, sent)
      else (s, { k with done := true }, sent)

/-- The reclaim with a number. -/
def State.reclaim? (s : State) (id : Nat) : Option Reclaim := s.ten.reclaim.find? (·.id == id)
def State.modReclaim (s : State) (id : Nat) (f : Reclaim → Reclaim) : State :=
  { s with ten := { s.ten with reclaim := s.ten.reclaim.map (fun q => if q.id = id then f q else q) } }

/-- Whether every context of a reclaim has stopped and drained. -/
def State.reclaimStopped (s : State) (q : Reclaim) : Bool :=
  q.ctxs.all (fun c => match s.ctx? c with | some x => x.phase == .ending || (x.stopped && !s.drainOpen c) | none => true)

/-- Copy the regions of a reclaim in keep-list order. -/
def State.pumpRegions (s : State) (id i fuel : Nat) : State :=
  match fuel with
  | 0 => s
  | f + 1 =>
    match (s.reclaim? id).bind (fun q => q.regions[i]?) with
    | none => s
    | some k =>
      if k.done then s.pumpRegions id (i + 1) f
      else
        let steps := (s.keptFrames k - k.block) * 65600 + k.queue.length + 2
        let (s, k', sent) := s.pumpRegion (16384 * id + i) k 0 steps
        -- a failure status may have marked the region meanwhile
        let s := s.modReclaim id (fun q => { q with
          copied := q.copied + sent
          regions := q.regions.modify i (fun now => { k' with partial_ := k'.partial_ || now.partial_ }) })
        if k'.queue.isEmpty ∧ s.keptFrames k' ≤ k'.block then s.pumpRegions id (i + 1) f else s

/-- Let every reclaim whose contexts have stopped give up their clusters and go on copying. -/
def State.pumpReclaims (s : State) : State :=
  let s := s.releaseReclaimed
  s.ten.reclaim.foldl (fun s q => if !q.tearing && s.reclaimStopped q then s.pumpRegions q.id 0 (q.regions.length + 1) else s) s

/-- Step 4: the contexts of a reclaim are torn down with reason RECLAIMED. -/
def State.tearReclaim (s : State) (q : Reclaim) : State :=
  let s := s.modReclaim q.id (fun q => { q with tearing := true })
  q.ctxs.foldl (fun s c => s.beginTeardown c 0 reasonReclaimed q.desc.tag 0) s

/-- CTX.RECLAIM; the keep list comes with the command. A context in a state that Table 15.6 does not let it leave for Reclaiming completes it with WRONG_STATE. -/
def execCtxReclaim (fn : Fn) (ring : Ring) (keepList : HostData) (s : State) : Host.Outcome State Fault Refusal :=
  .next (s.onDesc fn ring 0x85 (fun s d b =>
    let cs := maskCtxs (fieldN b 8 8)
    let n := fieldN b 0x18 4
    if !reclaimFields b then s.finish d stBadField []
    else
      let go (s : State) (bs : List Byte) : State :=
        let l := (List.range n).map (keepEntry bs)
        if !l.all keepDestOk then s.finish d stBadField []
        else if cs.any (fun c => (s.ctx? c).isNone) then s.finish d stNoCtx []
        else if cs.any (fun c => !((s.ctx? c).map (·.lent)).getD false) then s.finish d stNotLent []
        else if cs.any (fun c => match s.ctxPhase? c with | some .resuming => true | some .reclaiming => true | some .ending => true | _ => false) then
          s.finish d stWrongState []
        else if !s.keepListed cs l then s.finish d stKeepUnlisted []
        else if cs.isEmpty then s.finish d 0 []
        else (s.acceptReclaim d cs l).pumpReclaims
      s.withFetch (fieldN b 0x10 8) (16 * n) (fun s => match keepList with
      | .data bs => if bs.length = 16 * n then go s bs else s
      | .abort => if n = 0 then go s [] else s.finish d stHostAbort []
      | .poison => if n = 0 then go s [] else s.finish d stHostPoison [])))

/-- RECLAIM_COPIES_DONE: every region of the oldest reclaim not yet torn down is done. -/
def execReclaimCopiesDone (s : State) : Host.Outcome State Fault Refusal :=
  .next (s.unlessTripped fun s =>
    let s := s.pumpReclaims
    match s.ten.reclaim.find? (fun q => !q.tearing && s.reclaimStopped q && q.regions.all (·.done)) with
    | some q => s.tearReclaim q
    | none => s)

/-- The pieces of this package's memory at a region's destination, its tags included: none for a destination in the host or on another package. -/
def State.keptPieces (s : State) (k : KeepRegion) : List Piece :=
  if k.toHost then []
  else
    let n := s.keptFrames k * (if tabHas s.sec.rind.ctxKeys (8 * k.ctx + 4) then 65552 else 65536)
    match s.side k.dest with
    | .here p => (match s.packageAccess k.ctx p n true with | .pieces l => l | _ => [])
    | _ => []

/-- RECLAIM_DEADLINE: 19.5 s after acceptance, copies still running are ended as partial, and the bytes at their destinations are undefined. -/
def execReclaimDeadline (s : State) : Host.Outcome State Fault Refusal :=
  .next (s.unlessTripped fun s => match s.ten.reclaim.find? (fun q => !q.tearing && 19500000000 ≤ s.now - q.start) with
    | none => s
    | some q =>
      let s := (q.regions.filter (!·.done)).foldl (fun s k => s.scramble (s.keptPieces k)) s
      let s := s.modReclaim q.id (fun q => { q with regions := q.regions.map (fun k => if k.done then k else { k with done := true, partial_ := true, queue := [] }) })
      s.tearReclaim q)

end Sys2Proof.Machine
end

