-- ==== Sys2Proof/Machine/Boot.lean ====
section
/-!
DEFINITION. Package reset and boot (spec/16_security_lifecycle_time.md R437 to R442, spec/17_package_electrical.md R473, R474, spec/05_core_memory.md R154 to R158): the
sources of a reset, the wipes, the verification and start of an image, the recovery push and FW.FLASH, the rind wipe and the debug port.
-/
namespace Sys2Proof.Machine

/-! ### The rind (R153 to R155) -/

/-- Whether the rind is wiped, or being wiped: nothing that needs it can be done until the next package reset. -/
def State.rindGone (s : State) : Bool := s.sec.rindWiped || s.sec.rindBusy

/-- Answer a management command (R450, Table 16.7) (log 37). -/
def State.mgmtRespond (s : State) (m : MgmtCmd) (status : Nat) (body : List Byte) : State :=
  let r := s.mgmtPayload (fieldN m.payload 0 2) status 0 (fieldN m.payload 0x10 8) body
  r.2.sendSeq (r.2.mkPacket 0x61 3 m.src 0 0 [] r.1) none

/-- Start a rind wipe (R154): the rind holds nothing from now on, each row of its banks is written with zeros and valid check bits, and commands being worked are abandoned with KEY_UNAVAILABLE (R461).
A second event during a wipe is satisfied by it (R158). -/
def State.wipeRind (s : State) (cause : Nat) : State :=
  let l := s.sec.accepted
  let s := { s with damage := s.damage.filter (fun e => !(2 ^ 44 ≤ e.1 && meetsRind (e.1 - 2 ^ 44) 8)) }
  let s := { s with sec := { s.sec with
    rind := .empty
    accepted := []
    rindBusy := true
    rindCause := if s.sec.rindBusy then s.sec.rindCause else cause } }
  l.foldl (fun s m => s.mgmtRespond m stKeyUnavailable []) s

/-- The debug port draws a new challenge: the next attempt must answer it (R446) (log 132). -/
def State.newChallenge (s : State) : State :=
  let (ch, s) := s.freeBytes 32
  { s with sec := { s.sec with challenge := ch } }

/-- Whether a credential is signed by the key whose hash the fuses hold. -/
def State.credSigned (s : State) (key msg signature : List Byte) : Bool := sha256 key == s.sec.fuses.debugHash && ecdsaVerify key msg signature

/-- Whether an unlock credential names this part, answers the challenge and is signed by the DEBUG_CRED_HASH key (log 132). -/
def State.credGood (s : State) (k : DebugCred) : Bool :=
  k.serial == s.sec.serial && k.answer == s.sec.challenge && k.answer.length == 32 &&
    s.credSigned k.key (leBytes 8 k.serial.toNat ++ k.answer) k.signature

/-- Check the credential of an unlock attempt once the wipe it began has completed (R155, R446). -/
def State.settleUnlock (s : State) : State :=
  match s.sec.unlock with
  | none => s
  | some k =>
    ({ s with sec := { s.sec with
      unlock := none
      debugOpen := s.sec.debugOpen || (s.lcState == 0xF && s.credGood k) } }).newChallenge

/-- RIND_WIPE_DONE: RIND_WIPED is set, ALERT_N falls, and PF0 is told the cause (Table 14.16). -/
def execRindWipeDone (s : State) : Host.Outcome State Fault Refusal :=
  .next (s.unlessTripped fun s =>
    if !s.sec.rindBusy then s
    else
      let s := { s with
        sec := { s.sec with rindBusy := false, rindWiped := true }
        power := { s.power with alertN := false } }
      (s.eventPf0 0x34 none s.sec.rindCause 0).settleUnlock)

/-- DEBUG_UNLOCK: the attempt wipes the rind whatever the credential is; the credential is checked when the wipe has completed. A package held in reset hears nothing. -/
def execDebugUnlock (credential : DebugCred) (s : State) : Host.Outcome State Fault Refusal :=
  .next (
    if s.sec.boot = .held ∨ s.power.tripped then s
    else
      let s := s.wipeRind 1
      { s with sec := { s.sec with unlock := some credential } })

/-! ### THERM_STATUS (Table 18.7) -/

def thThrottled : Nat := 0
def thCapUnmet : Nat := 1
def thVrFault : Nat := 2
def thRefclkLost : Nat := 3
def thTableHot : Nat := 4
def thStackPaced : Nat := 5

/-- A number with bit i set or cleared. -/
def setBitN (v i : Nat) (b : Bool) : Nat := if b then v ||| 2 ^ i else if bitN v i then v - 2 ^ i else v

def State.setTherm (s : State) (i : Nat) (b : Bool) : State := s.setRegN offThermStatus (setBitN (s.regN offThermStatus) i b)
def State.therm (s : State) (i : Nat) : Bool := bitN (s.regN offThermStatus) i

/-! ### Package reset (R156 to R158, R473, R474) -/

/-- Start a package reset. Fuses, flash and the serial number survive it, and so do the commands waiting outside and the records of what the block has sent. A DRAM wipe in progress
is not started again (R158). -/
def State.packageReset (s : State) : State :=
  { State.reset with
    pending := s.pending
    freeCtr := s.freeCtr
    host := { HostState.reset with pcieOut := s.host.pcieOut, sealed := s.host.sealed }
    sec := { SecState.reset with fuses := s.sec.fuses, flash := s.sec.flash, serial := s.sec.serial, dbgOut := s.sec.dbgOut, boot := .held }
    time := { TimeState.reset with clockLost := s.time.clockLost }
    power := { PowerState.reset with
      smbOut := s.power.smbOut
      vrOut := s.power.vrOut
      railsOk := s.power.railsOk
      railsInBand := s.power.railsInBand
      sysRstN := s.power.sysRstN }
    press := { PressState.reset with wiping := if s.press.wiping.isEmpty then List.range 12 else s.press.wiping }
    fab := { FabState.reset with wire := s.fab.wire, creditsOut := s.fab.creditsOut } }

/-- PACKAGE_RESET: SYS_RST_N was low for so many nanoseconds. Below 1 µs it is filtered out, from 10 µs it resets the package, and between the two either happens (R473). After a trip
the package waits for its power to be removed (R480). -/
def execPackageReset (lowNs : Nat) (s : State) : Host.Outcome State Fault Refusal :=
  .next (
    if s.power.tripped ∨ lowNs < 1000 then s
    else if 10000 ≤ lowNs then s.packageReset
    else
      let (b, s) := s.freeBool
      if b then s.packageReset else s)

/-- Steps of 6.4 ns that a reset is held for once its cause is gone (Table 17.5): 50 µs, or 1 ms after a brown-out. -/
def holdSteps (browned : Bool) : Nat := if browned then 156250 else 7813

/-- Whether nothing holds a package reset any more (R474, R485): SYS_RST_N is high, every rail is within its absolute limits, and both have been for as long as Table 17.5 asks (log 137). -/
def State.holdOver (s : State) : Bool := s.power.sysRstN && s.power.railsOk && decide (holdSteps s.power.browned ≤ s.power.held)

/-- PACKAGE_RESET_RELEASE: the hold ends, and every SRAM and DRAM is wiped. A reference clock that is gone sets REFCLK_LOST from here on (R475). -/
def execPackageResetRelease (s : State) : Host.Outcome State Fault Refusal :=
  .next (
    if s.sec.boot = .held ∧ s.holdOver then
      let s := { s with sec := { s.sec with boot := .wiping } }
      if s.time.clockLost then s.setTherm thRefclkLost true else s
    else s)

/-- BROWN_OUT: a rail has left its absolute limits, which is a package reset that holds until they are back. It is also how power is removed after a trip, which ends the trip (R480) (log 83). -/
def execBrownOut (s : State) : Host.Outcome State Fault Refusal :=
  .next (
    let s := s.packageReset
    { s with power := { s.power with railsOk := false, railsInBand := false, browned := true } })

/-- The levels of the rails and of SYS_RST_N that the board gives (R468, R474). A held reset starts its count again while one of them holds it; PWR_GOOD_OUT rises once the boot ROM runs and every rail is in
band (log 137). -/
def State.boardLevels (s : State) (rails : Option (Bool × Bool)) (rst : Option Bool) : State :=
  let p := s.power
  let r := rails.getD (p.railsOk, p.railsInBand)
  let up := s.sec.boot != .held && s.sec.boot != .wiping
  { s with power := { p with
    railsOk := r.1
    railsInBand := r.2
    sysRstN := rst.getD p.sysRstN
    browned := p.browned || (s.sec.boot == .held && !r.1)
    pwrGood := p.pwrGood || (up && r.2) } }

/-- One more step of the hold of a package reset. -/
def State.countHold (s : State) : State :=
  if s.sec.boot != .held then s
  else { s with power := { s.power with held := if s.power.sysRstN && s.power.railsOk then s.power.held + 1 else 0 } }

/-- FIRMWARE_WATCHDOG: firmware has been silent for 2 s. -/
def execFirmwareWatchdog (s : State) : Host.Outcome State Fault Refusal := .next (if s.firmware then s.packageReset else s)

/-- The key value of PKG_RESET (Table 18.5). -/
def pkgResetKey : Nat := 0x7A3C51E9

/-- PKG_RESET: any value but the key is ignored. -/
def execPkgReset (value : W64) (s : State) : Host.Outcome State Fault Refusal :=
  .next (if s.hears 0 && bitsN value.toNat 31 0 == pkgResetKey then s.packageReset else s)

/-! ### Life-cycle transitions (R444, R445) -/

/-- Blow the fuses of a transition's target state. -/
def Fuses.blow (f : Fuses) (m : WipeMark) : Fuses :=
  if m.target = 0 then { f with lcDecom := true }
  else { f with
    lcBits := f.lcBits ||| BitVec.ofNat 4 m.target
    ownerHash := if m.target = 7 then m.ownerHash else f.ownerHash }

/-- Steps 4 and 5 of R445, once the wipes are over: the fuses are blown, the mark is cleared and the package resets. -/
def State.completeMark (s : State) : State :=
  match s.sec.flash.mark with
  | none => s
  | some m =>
    if !s.press.wiping.isEmpty then s
    else
      ({ s with sec := { s.sec with fuses := s.sec.fuses.blow m, flash := { s.sec.flash with mark := none } } }).packageReset

/-- Authorise a transition: descriptors are no longer accepted while it runs, and the ledger save of step 2 is due. -/
def State.beginTransition (s : State) (m : WipeMark) : State :=
  { s with
    sec := { s.sec with transition := some m }
    host := { s.host with noAccept := true } }

/-- Step 3 of R445: every SRAM and the DRAM are wiped, the rind among them. -/
def State.lifeWipe (s : State) : State :=
  let s := { s with
    mem := []
    damage := []
    dramPoison := []
    rowPoison := []
    rowUe := []
    cores := []
    vats := { s.vats with hurt := [] }
    deal := { s.deal with dir := [] }
    press := { s.press with
      wiping := if s.press.wiping.isEmpty then List.range 12 else s.press.wiping
      ready := false
      words := []
      bound := List.replicate 12 0
      free := List.replicate 12 ⟨[], 0, 0⟩
      marks := []
      badPrimary := []
      badMirror := [] } }
  s.wipeRind 4

/-! ### Images (R439, R440) -/

def imageLen (bs : List Byte) : Nat := fieldN bs 8 4
def imageSvn (bs : List Byte) : Nat := fieldN bs 6 1
/-- The image within the bytes pushed, flashed or read. -/
def imageOf (bs : List Byte) : List Byte := bs.take (imageLen bs)

/-- Whether an image verifies (R440). The RSVD bits of FLAGS are no RSVD byte (log 85). -/
def State.imageOk (s : State) (bs : List Byte) : Bool :=
  let n := imageLen bs
  let key := (bs.drop 0x40).take 64
  n ≤ bs.length && 4096 ≤ n && n ≤ 32 * 2 ^ 20 && n % 64 == 0 && fieldN bs 0 4 == 0x57464B54 && fieldN bs 4 2 == 1 &&
  fieldZero bs 0x0E 2 && fieldZero bs 0x18 40 && fieldZero bs 0x80 128 && sha256 key == s.sec.fuses.vendorHash && s.sec.fuses.minSvn ≤ imageSvn bs &&
  ecdsaVerify key (bs.take (n - 64)) ((bs.drop (n - 64)).take 64)

/-! ### The management key record (R448; its layout is log 38) -/

def keyRecordBytes : Nat := 384

/-- The owner root public key a record carries, when it is the one whose hash the fuses hold. -/
def State.rootKey (s : State) (bs : List Byte) : Option (List Byte) :=
  let k := bs.take 64
  if k.length = 64 ∧ sha256 k = s.sec.fuses.ownerHash then some k else none

/-- Whether a record verifies: its root key is the owner's and has signed it. -/
def State.keyRecordOk (s : State) (bs : List Byte) : Bool :=
  bs.length == keyRecordBytes && (s.rootKey bs).any (fun k => ecdsaVerify k (bs.take 320) (bs.drop 320))

/-- The keys of a record: slots 0 to 3 where they are not empty, and the root key as 4. -/
def recordKeys (bs : List Byte) : Tab (List Byte) :=
  (List.range 5).filterMap (fun i =>
    let k := if i = 4 then bs.take 64 else (bs.drop (64 * (i + 1))).take 64
    if k.all (· == 0) then none else some (i, k))

/-- The keys trusted under a record: all of them when it verifies, otherwise the owner root key alone. -/
def State.trustedKeys (s : State) (bs : List Byte) : Tab (List Byte) :=
  if s.keyRecordOk bs then recordKeys bs else ((s.rootKey bs).map (fun k => (4, k))).toList

/-! ### Starting firmware (R441 step 7) -/

/-- Whether a save is older than another: by SAVE_SEQ, and before provisioning, when it does not count, by POWER_ON_S (log 84). -/
def LifeLedger.older (a b : LifeLedger) : Bool := a.saveSeq < b.saveSeq || (a.saveSeq == b.saveSeq && a.powerOnS < b.powerOnS)

/-- The copy of the ledger that boot loads (R459). -/
def Flash.ledger (f : Flash) : LifeLedger :=
  if f.copyA.valid && (!f.copyB.valid || !f.copyA.data.older f.copyB.data) then f.copyA.data
  else if f.copyB.valid then f.copyB.data
  else .zero

/-- Two counts added place by place. -/
def addCounts (a b : List Nat) : List Nat := a.zipIdx.map (fun x => x.1 + b.getD x.2 0)

/-- The ledger loaded from flash, with what has been counted since the reset. -/
def LifeLedger.resume (saved since : LifeLedger) (boots : Nat) : LifeLedger where
  powerOnS := saved.powerOnS + since.powerOnS
  powerCycles := boots
  stackBytes := addCounts saved.stackBytes since.stackBytes
  optTxS := addCounts saved.optTxS since.optTxS
  tempHist := addCounts saved.tempHist since.tempHist
  firstDeploy := saved.firstDeploy
  saveSeq := saved.saveSeq

/-- Firmware applies the persistent records: retired clusters (R30), whose ports are closed (R29), remapped frames (R168) and retired frames (R167). -/
def State.applyRecords (s : State) : State :=
  let f := s.sec.flash
  let s := f.retired.foldl (fun s n =>
    (s.setCluster n { s.cluster n with portClosed := true }).orReg (offClusterRetired (n / 64)) (BitVec.ofNat 64 (2 ^ (n % 64)))) s
  let s := f.remaps.foldl (fun s r => s.setRemaps r.1 (s.remapsOf r.1 ++ [⟨r.2.1, some r.2.2, true⟩])) s
  f.frames.foldl (fun s r => s.count (offRetiredPages r.1) 1) s

/-- Firmware reports the package as failed when a router has, once, and every context ends (R29). -/
def State.reportRouters (s : State) : State :=
  match s.net.badDies with
  | [] => s
  | d :: _ =>
    if !s.firmware || s.net.reported then s
    else
      let s := ({ s with net := { s.net with reported := true } }).eventBoth 0x11 none 0 d
      s.ten.ctxs.foldl (fun s x => s.fault x.1 clsHwLost 0) s

/-- Start a verified image: MIN_SVN is blown up to its SVN if it asks for it, the measurements are recorded, and firmware runs and loads what flash keeps. -/
def State.startImage (s : State) (bs : List Byte) : State :=
  let svn := imageSvn bs
  let f := s.sec.fuses
  let fuses := if bitN (fieldN bs 7 1) 0 ∧ f.minSvn < svn then { f with minSvn := min svn 32 } else f
  let (rom, s) := s.freeBytes 32
  let s := { s with sec := { s.sec with
    fuses := fuses
    rind := { s.sec.rind with romMeas := rom, fwMeas := sha256 (imageOf bs) }
    fwVersion := BitVec.ofNat 64 (fieldN bs 0x10 8)
    fwSvn := svn
    arithRev := BitVec.ofNat 16 (fieldN bs 0x0C 2)
    bootCode := 5
    boot := .running } }
  let rec_ := s.sec.flash.keyRecord
  let s := { s with sec := { s.sec with
    keyrecOk := s.keyRecordOk rec_
    rind := if s.rindGone then s.sec.rind else { s.sec.rind with mgmtKeys := s.trustedKeys rec_, nonces := [] } } }
  let s := (s.rindAccess 1 0 64 true).rindAccess 2 0 (64 * 5) true
  let s := { s with life := { s.life with live := (s.sec.flash.ledger).resume s.life.live s.sec.flash.bootCount } }
  let s := s.applyRecords
  let s := if s.press.wiping.isEmpty then s.initLedger else s
  let s := if s.time.clockLost then s.eventBoth 0x33 none 0 0 else s
  s.reportRouters

/-- An image failed its check: the rind is wiped and the boot ROM waits for a host push. -/
def State.awaitPush (s : State) : State :=
  let s := s.wipeRind 2
  { s with sec := { s.sec with bootCode := 3, boot := .recovery } }

/-- TABLE_SRAM_WIPE_DONE: the boot ROM runs (R441), and PWR_GOOD_OUT rises if every rail is in band (R474). -/
def execTableSramWipeDone (s : State) : Host.Outcome State Fault Refusal :=
  .next (s.unlessTripped fun s =>
    if s.sec.boot ≠ .wiping then s
    else
      let s := { s with
        sec := { s.sec with bootCode := 1 }
        damage := s.damage.filter (fun e => e.1 < 2 ^ 44)
        power := { s.power with pwrGood := s.power.railsInBand } }
      let s := s.newChallenge
      if s.lcState = 0 then { s with sec := { s.sec with bootCode := 0xF, boot := .stopped } }
      else
        let key := s.lcState != 1 && s.sec.fuses.idWrap && !s.rindGone
        let s := { s with sec := { s.sec with
          rind := { s.sec.rind with identity := if key then some (Config.unwrapIdentity s.sec.fuses.idWrapBits) else none, cert := if key then s.sec.flash.cert else [] }
          flash := { s.sec.flash with bootCount := (s.sec.flash.bootCount + 1) % 2 ^ 32 } } }
        let s := if key then s.rindAccess 0 0 4096 true else s
        if s.sec.flash.mark.isSome then
          let s := { s with sec := { s.sec with boot := .markWait } }
          s.completeMark
        else if !s.sec.flash.torn && s.imageOk s.sec.flash.image then s.startImage s.sec.flash.image
        else s.awaitPush)

/-- PRESS_WIPE_DONE: one stack's DRAM is wiped, which its ledger counts as bytes written. With all done a marked transition completes, or firmware initialises the page ledger
(R157, R158). -/
def execPressWipeDone (k : Stack) (s : State) : Host.Outcome State Fault Refusal :=
  .next (s.unlessTripped fun s =>
    if !s.press.wiping.contains k.val ∨ s.sec.boot = .held then s
    else
      let s := (s.countStackWrite (dramPhys k 0) stackBytes)
      let s := { s with press := { s.press with wiping := setDel s.press.wiping k } }
      if !s.press.wiping.isEmpty then s
      else if s.sec.boot = .markWait ∨ (s.sec.transition.isSome ∧ s.sec.flash.mark.isSome) then s.completeMark
      else if s.sec.boot = .running then s.initLedger
      else s)

/-! ### Recovery push and firmware update (R406 to R408) -/

/-- See log 85. -/
def rcvOk : Nat := 0x00
def rcvSigFail : Nat := 0x50
def rcvHostAbort : Nat := 0x70

/-- The end of a check of a pushed image: its result, and MSI-X vector 0. -/
def State.rcvEnd (s : State) (status : Nat) : State := (s.setRegN (fnReg 0 offRcvResult) (status + 256)).sendMsix 0 0

/-- Bytes of a part of a pushed image: what RCV_GO names, if the endpoint can ask for that much at a time, and else 4 KiB (log 122). -/
def imagePiece (part : Nat) : Nat := if part = 0 ∨ 65536 < part then 4096 else part

/-- Ask for the next parts of a pushed image while reads may be issued; with the last one here, BOOT_STATUS is 0x4 and the image is checked. -/
def State.pumpImage (s : State) (fuel : Nat) : State :=
  match fuel with
  | 0 => s
  | k + 1 =>
    match s.host.push with
    | none => s
    | some p =>
      let n := min p.part (p.len - p.nextOff)
      if n = 0 then
        if p.got.length = ceilDiv p.len p.part then
          { s with
            host := { s.host with push := none }
            sec := { s.sec with bootCode := 4, checking := some (p.got.flatMap (·.2)) } }
        else s
      else if !s.readRoom n ∨ s.host.resetting.contains 0 then s
      else
        let s := { s with host := { s.host with push := some { p with nextOff := p.nextOff + n } } }
        (s.hostRead 0 (s.regN (fnReg 0 offRcvAddr) + p.nextOff) n (.image p.nextOff n)).pumpImage k

/-- Let a push go on. -/
def State.pushOn (s : State) : State := s.pumpImage ((s.host.push.map (fun p => ceilDiv p.len p.part)).getD 0 + 1)

/-- A part of a pushed image has come. -/
def State.landImage (s : State) (off : Nat) (bs : List Byte) : State :=
  match s.host.push with
  | none => s
  | some p => ({ s with host := { s.host with push := some { p with got := tabInsert p.got off bs } } }).pushOn

/-- A read of a pushed image has failed: the push ends with HOST_ABORT, and its other reads are discarded. -/
def State.failImage (s : State) : State :=
  let s := { s with host := { s.host with push := none, reads := s.host.reads.filter (fun r => match r.2.use with | .image _ _ => false | _ => true) } }
  s.awaitPush.rcvEnd rcvHostAbort

/-- RCV_GO: with BOOT_STATUS 0x3 a 1 starts a push of RCV_LEN bytes from RCV_ADDR, which the boot ROM reads into Table SRAM, `part` bytes at
a time (log 122). A push that runs is not started again. -/
def execRcvGo (value : W64) (part : Nat) (s : State) : Host.Outcome State Fault Refusal :=
  .next (
    if s.sec.boot ≠ .recovery ∨ s.sec.bootCode ≠ 3 ∨ s.power.tripped ∨ s.host.push.isSome ∨ !bitN value.toNat 0 then s
    else
      let s := s.setRegN (fnReg 0 offRcvResult) 0
      ({ s with host := { s.host with push := some ⟨s.regN (fnReg 0 offRcvLen), imagePiece part, 0, []⟩ } }).pushOn)

/-- The check of a pushed image ends: it runs, or the rind is wiped and the boot ROM waits for another. It ends at a step of the timebase (log 122), a rind wipe or not (log 131). -/
def State.endCheck (s : State) : State :=
  match s.sec.checking with
  | none => s
  | some img =>
    let s := { s with sec := { s.sec with checking := none } }
    if s.imageOk img then (s.startImage img).rcvEnd rcvOk else s.awaitPush.rcvEnd rcvSigFail

/-! ### Read completions -/

/-- HOST_READ_COMPLETION: what a read of host memory was for decides what its completion does. One for a function being reset, or for a read that nothing waits for,
is discarded. A failed descriptor read leaves the descriptors' bytes undefined (log 29). -/
def execHostReadCompletion (readId : Nat) (data : HostData) (s : State) : Host.Outcome State Fault Refusal :=
  .next (s.unlessTripped fun s => match tabFind s.host.reads readId with
    | none => s
    | some r =>
      let s := { s with host := { s.host with reads := tabErase s.host.reads readId } }
      if s.host.resetting.contains r.fn then s
      else
        let s := match r.use, data with
          | .descriptors i count n, .data bs => s.landDescs r.fn i count n bs
          | .descriptors i count n, _ => let f := s.freeBytes (64 * n); f.2.landDescs r.fn i count n f.1
          | .copy id off n, .data bs => s.landCopy id off (bs.take n)
          | .copy id off n, .abort => s.failCopy id off n stHostAbort
          | .copy id off n, .poison => s.failCopy id off n stHostPoison
          | .weights l w off n, .data bs => s.landHostPiece l w off (some (bs.take n))
          | .weights l w off _, _ => s.landHostPiece l w off none
          | .image off n, .data bs => s.landImage off (bs.take n)
          | .image _ _, _ => s.failImage
        s.fetchAll)

/-! ### FW.FLASH (R408) -/

def stSigFail : Nat := 0x50
def stFlashErr : Nat := 0x72

/-- FW.FLASH: valid on PF0's submission ring 0 alone. The LENGTH bytes at HOST_ADDR come with the command, and so does whether the read-back will match. A checked image is being written from now to
the next step of the timebase; until then the flash holds bytes the spec does not state, which fail verification (log 87). -/
def execFwFlash (fn : Fn) (ring : Ring) (image : HostData) (readBackOk : Bool) (s : State) : Host.Outcome State Fault Refusal :=
  .next (s.onDesc fn ring 0x12 (fun s d b =>
    if fn ≠ 0 then s.descBad d
    else if ring ≠ 0 then s.finish d stBadField []
    else if !(fieldZero b 1 3 && fieldZero b 0x18 40) then s.descBad d
    else
      if s.sec.flashing.isSome then s
      else s.withFetch (fieldN b 0x10 8) (fieldN b 8 8) (fun s => match image with
      | .abort => s.finish d stHostAbort []
      | .poison => s.finish d stHostPoison []
      | .data bs =>
        let img := bs.take (fieldN b 8 8)
        if !s.imageOk img then (s.finish d stSigFail []).wipeRind 2
        else
          let (torn, s) := s.freeBytes img.length
          { s.accept d with sec := { (s.accept d).sec with
            flashing := some ⟨d, img, readBackOk⟩
            flash := { s.sec.flash with image := torn, torn := true } } })))

/-- The write of an image to flash ends (R408): it stands, or the flash did not read back as written and holds what fails verification (log 87). -/
def State.endFlash (s : State) : State :=
  match s.sec.flashing with
  | none => s
  | some w =>
    if !s.firmware then s
    else
      let f := s.sec.flash
      let s := { s with sec := { s.sec with flashing := none, flash := { f with image := if w.good then w.image else f.image, torn := !w.good } } }
      s.complete w.desc (if w.good then 0 else stFlashErr) []

end Sys2Proof.Machine
end

