-- ==== Sys2Proof/Machine/Mgmt.lean ====
section
/-!
DEFINITION. Authority and the management channel (spec/16_security_lifecycle_time.md, R443 to R451): life-cycle requests, attestation, the checks of a management command, and
what each command of Table 16.8 does but for those of time.
-/
namespace Sys2Proof.Machine

/-! ### Status codes of Table 16.9 -/

def msSigBad : Nat := 0xA0
def msReplay : Nat := 0xA1
def msWrongBoot : Nat := 0xA2
def msNoKey : Nat := 0xA3
def msBadCommand : Nat := 0xA4
def msCtxPresent : Nat := 0xA5

/-! ### Attestation (R447) -/

/-- [0] ACQUIRED, [1] LOCKED, [2] HOLDOVER. -/
def State.tbFlags (s : State) : Nat := s.time.acquired.toNat + 2 * s.time.locked.toNat + 4 * s.time.holdover.toNat

/-- Good clusters of the package (R32). -/
def State.goodClusters (s : State) : Nat := ((List.range 200).filter (fun k => !s.retired k)).length

/-- Whether the identity key can sign (R154, Table 16.3). -/
def State.canSign (s : State) : Bool := s.sec.rind.identity.isSome && !s.rindGone

/-- A report over a challenge (Table 16.5); the attestation counter of the rind counts it (R153). RETIRE_MEAS, whose input has no stated layout, and the signature are free values (log 39). -/
def State.attestReport (s : State) (challenge : List Byte) : List Byte × State :=
  let (retire, s1) := s.freeBytes 32
  let (sig, s2) := s1.freeBytes 64
  let s3 := (((s2.rindAccess 0 0 32 false).rindAccess 1 0 72 false).rindAccess 1 64 8 true).rindScratch challenge
  (leBytes 2 1 ++ leBytes 1 s.lcState ++ leBytes 1 0xA1 ++ leBytes 2 s.sec.arithRev.toNat ++ leBytes 1 s.sec.fwSvn ++ leBytes 1 s.sec.fuses.minSvn ++
    leBytes 8 s.sec.serial.toNat ++ leBytes 4 s.sec.flash.bootCount ++ leBytes 2 s.goodClusters ++ leBytes 2 s.tbFlags ++ leBytes 8 s.now ++
    (challenge ++ zeroBytes 32).take 32 ++ s.sec.rind.romMeas ++ s.sec.rind.fwMeas ++ sha256 s.sec.flash.keyRecord ++ retire ++ zeroBytes 64 ++ sig,
    { s3 with sec := { s3.sec with rind := { s3.sec.rind with attests := s3.sec.rind.attests + 1 } } })

/-- SEC.ATTEST; the 32 bytes at CHALLENGE_PTR come with the command. Without an identity key it ends as with a wiped rind (log 39). -/
def execSecAttest (fn : Fn) (ring : Ring) (challenge : HostData) (s : State) : Host.Outcome State Fault Refusal :=
  .next (s.onDesc fn ring 0x88 (fun s d b =>
    if !(fieldZero b 1 3 && fieldZero b 8 8 && fieldZero b 0x20 32) then s.finish d stBadField []
    else if !s.canSign then s.finish d stKeyUnavailable []
    else
      s.withFetch (fieldN b 0x10 8) 32 (fun s => match challenge with
      | .abort => s.finish d stHostAbort []
      | .poison => s.finish d stHostPoison []
      | .data bs =>
        let (r, s) := s.attestReport bs
        ((s.accept d).hostWrite 0 (fieldN b 0x18 8) r).complete d 0 [])))

/-! ### Life-cycle requests of the host and the debug port (R444) -/

/-- Whether a transition is under way or marked. -/
def State.changing (s : State) : Bool := s.sec.transition.isSome || s.sec.flash.mark.isSome

/-- LC.DEPLOY; the 64 bytes of the owner root public key come with the command. Firmware keeps the key in the management key record, from which later boots take it (log 38) (log 89). -/
def execLcDeploy (fn : Fn) (ring : Ring) (key : HostData) (s : State) : Host.Outcome State Fault Refusal :=
  .next (s.onDesc fn ring 0x89 (fun s d b =>
    if !(fieldZero b 1 3 && fieldZero b 8 8 && fieldZero b 0x18 40) then s.finish d stBadField []
    else if s.lcState ≠ 3 ∨ s.changing then s.finish d stWrongState []
    else
      s.withFetch (fieldN b 0x10 8) 64 (fun s => match key with
      | .abort => s.finish d stHostAbort []
      | .poison => s.finish d stHostPoison []
      | .data bs =>
        let k := (bs ++ zeroBytes 64).take 64
        let s := { s with sec := { s.sec with flash := { s.sec.flash with keyRecord := k } } }
        (s.finish d 0 []).beginTransition ⟨7, sha256 k⟩)))

/-- Whether the debug port answers (Table 16.3): it is open in Manufacture, and in Returned once unlocked (R446). -/
def State.debugPortOpen (s : State) : Bool := s.lcState == 1 || (s.lcState == 0xF && s.sec.debugOpen)

/-- PROVISION on the debug port: with a factory credential signed by the DEBUG_CRED_HASH key (log 132) in Manufacture, and no context, the identity key is generated and wrapped, its public key is
returned and its certificate kept, and the part moves to Provisioned. Bits of ID_WRAP blown before stay blown (R437). -/
def execProvision (credential : FactoryCred) (certificate : List Byte) (s : State) : Host.Outcome State Fault Refusal :=
  .next (
    if !s.firmware ∨ !s.debugPortOpen ∨ s.lcState ≠ 1 ∨ !s.credSigned credential.key credential.body credential.signature ∨ s.changing ∨ !s.ten.ctxs.isEmpty then s
    else
      let (pub, s) := s.freeBytes 64
      let (wrap, s) := s.freeBytes 48
      let s := { s with sec := { s.sec with
        fuses := { s.sec.fuses with idWrap := true, idWrapBits := s.sec.fuses.idWrapBits ||| BitVec.ofNat 384 (leNat wrap) }
        flash := { s.sec.flash with cert := certificate }
        dbgOut := s.sec.dbgOut ++ [pub] } }
      s.beginTransition ⟨3, []⟩)

/-! ### Relaying (MGMT.SEND) -/

/-- A packet to relay, from its bytes: the header's type, destination and contexts, and the payload of LEN bytes. The package sends it as its own (Table 10.4). -/
def State.relayPacket (s : State) (bs : List Byte) : Packet :=
  { s.mkPacket (fieldN bs 0 1) 3 (fieldN bs 6 2 % 2 ^ 15) 0 0 [] ((bs.drop 0x20).take (fieldN bs 2 2 % 2 ^ 12)) with mcast := bitN (fieldN bs 1 1) 5 }

/-- Whether bytes are a management packet: one of its types, as long as its LEN says, and unicast if it is a command (R449) (log 88). -/
def relayOk (bs : List Byte) : Bool :=
  let t := fieldN bs 0 1
  let n := fieldN bs 2 2 % 2 ^ 12
  0x60 ≤ t && t ≤ 0x62 && !(t == 0x60 && bitN (fieldN bs 1 1) 5) && n ≤ 2048 && 0x20 + n ≤ bs.length

/-- MGMT.SEND; the packet at PACKET_PTR comes with the command. -/
def execMgmtSend (fn : Fn) (ring : Ring) (packet : HostData) (s : State) : Host.Outcome State Fault Refusal :=
  .next (s.onDesc fn ring 0x8A (fun s d b =>
    if !(fieldZero b 1 3 && fieldZero b 8 8 && fieldZero b 0x18 40) then s.finish d stBadField []
    else
      s.withFetch (fieldN b 0x10 8) (match packet with | .data bs => bs.length | _ => 0x20) (fun s => match packet with
      | .abort => s.finish d stHostAbort []
      | .poison => s.finish d stHostPoison []
      | .data bs =>
        let p := s.relayPacket bs
        if !relayOk bs || (p.mcast && (s.mcastReach p).isNone) then s.finish d stBadField []
        else
          let s := s.accept d
          (if p.mcast then s.sendMcast p else s.sendSeq p none).complete d 0 [])))

/-! ### Checking a command (R449, R451) -/

def mgCode (p : List Byte) : Nat := fieldN p 0 2
def mgForce (p : List Byte) : Bool := bitN (fieldN p 2 2) 0
def mgKey (p : List Byte) : Nat := fieldN p 4 1
def mgBoot (p : List Byte) : Nat := fieldN p 8 4
/-- See log 91. -/
def mgBodyLen (p : List Byte) : Nat := fieldN p 0x0C 2
def mgNonce (p : List Byte) : Nat := fieldN p 0x10 8
def mgBody (p : List Byte) : List Byte := (p.drop 0x20).take (mgBodyLen p)
/-- A body read as one little-endian number. -/
def mgNum (p : List Byte) : Nat := leNat (mgBody p)

/-- Whether the signature verifies under a key: it covers the payload up to the end of the body and follows it. -/
def mgSigned (key p : List Byte) : Bool :=
  let n := 0x20 + mgBodyLen p
  mgBodyLen p ≤ 1952 && n + 64 ≤ p.length && ecdsaVerify key (p.take n) ((p.drop n).take 64)

/-- Whether a nonce is fresh. -/
def NonceWindow.fresh (w : NonceWindow) (n : Nat) : Bool :=
  match w.high with
  | none => true
  | some h => h < n + 1024 && !w.seen.contains n

/-- Accept a nonce: H and the window move up to a larger one. -/
def NonceWindow.accept (w : NonceWindow) (n : Nat) : NonceWindow :=
  let h := match w.high with | some h => max h n | none => n
  ⟨some h, (setAdd w.seen n).filter (fun k => h < k + 1024)⟩

def NonceWindow.empty : NonceWindow := ⟨none, []⟩

/-- Whether a life-cycle state may go to another by LC.ADVANCE (Table 16.4). -/
def lcMoves (from_ toWhom : Nat) : Bool := (from_ == 7 && (toWhom == 0xF || toWhom == 0)) || (from_ == 0xF && toWhom == 0)

/-- Whether the life cycle makes a command valid (R451). -/
def mgAllowed (lc code : Nat) : Bool :=
  if lc = 7 then true
  else if lc = 3 then code == 1 || code == 2 || code == 3 || code == 0x40
  else if lc = 0xF then code == 1 || code == 2 || code == 3 || code == 0x40 || code == 0x50
  else false

/-- Whether a command's code and body are valid and its key may issue it (Table 16.8). -/
def State.mgValid (s : State) (p : List Byte) : Bool :=
  let n := mgBodyLen p
  let b := mgBody p
  mgAllowed s.lcState (mgCode p) &&
  match mgCode p with
  | 0x01 => 32 ≤ n
  | 0x02 => true
  | 0x03 => 2 ≤ n
  | 0x10 => 3 ≤ n
  | 0x11 => 4 ≤ n && 4 + 4 * fieldN b 2 2 ≤ n && fieldN b 0 2 + fieldN b 2 2 ≤ 512
  | 0x12 => 2 ≤ n
  | 0x20 => 8 ≤ n
  | 0x30 => 3 ≤ n && bitsN (mgNum p) 17 16 ≤ 2
  | 0x31 => 8 ≤ n && s.time.configured && s.time.role == 2
  | 0x40 => 1 ≤ n && mgKey p == 4 && lcMoves s.lcState (fieldN b 0 1) && !s.changing
  | 0x41 => n == keyRecordBytes && mgKey p == 4 && s.keyRecordOk b
  | 0x50 => true
  | _ => false

/-- The status of the first check that fails, if one does. -/
def State.mgCheck (s : State) (p : List Byte) : Option Nat :=
  if s.rindGone then some stKeyUnavailable
  else
    match tabFind s.sec.rind.mgmtKeys (mgKey p) with
    | none => some msNoKey
    | some k =>
      if !mgSigned k p then some msSigBad
      else if mgBoot p ≠ s.sec.flash.bootCount then some msWrongBoot
      else if !(tabGet NonceWindow.empty s.sec.rind.nonces (mgKey p)).fresh (mgNonce p) then some msReplay
      else if !s.mgValid p then some msBadCommand
      else none

/-- What the checks of a command read in the rind, and their scratch: the key, and the nonce window of its slot. -/
def State.checkReads (s : State) (p : List Byte) : State :=
  if s.rindGone || !tabHas s.sec.rind.mgmtKeys (mgKey p) then s
  else ((s.rindAccess 2 (rindMgmtKey (mgKey p)) 64 false).rindAccess 2 (rindNonces (mgKey p)) 136 false).rindScratch p

/-- MGMT_CMD: the oldest command that has come is checked; one that fails a check is answered with its status and changes nothing, one that passes waits to be done. -/
def execMgmtCmd (s : State) : Host.Outcome State Fault Refusal :=
  .next (
    if !s.firmware then s
    else
      match s.takeInbox 0x60 with
      | none => s
      | some (pkt, s) =>
        let p := pkt.payload
        let m : MgmtCmd := ⟨pkt.src.toNat, p⟩
        let s := s.checkReads p
        match s.mgCheck p with
        | some st => s.mgmtRespond m st []
        | none =>
          let w := (tabGet NonceWindow.empty s.sec.rind.nonces (mgKey p)).accept (mgNonce p)
          let s := s.rindAccess 2 (rindNonces (mgKey p)) 136 true
          { s with sec := { s.sec with
            rind := { s.sec.rind with nonces := tabInsert s.sec.rind.nonces (mgKey p) w }
            accepted := s.sec.accepted ++ [m] } })

/-- Do the oldest accepted command if it has the code. -/
def State.onMgmt (s : State) (code : Nat) (k : State → MgmtCmd → State) : State :=
  if !s.firmware then s
  else
    match s.sec.accepted with
    | m :: rest => if mgCode m.payload = code then k { s with sec := { s.sec with accepted := rest } } m else s
    | [] => s

/-! ### The commands (Table 16.8) -/

/-- ATTEST. -/
def execAttest (s : State) : Host.Outcome State Fault Refusal :=
  .next (s.onMgmt 0x01 (fun s m =>
    if !s.canSign then s.mgmtRespond m stKeyUnavailable []
    else
      let (r, s) := s.attestReport (mgBody m.payload)
      s.mgmtRespond m 0 r))

/-- CERT.READ. -/
def execCertRead (s : State) : Host.Outcome State Fault Refusal :=
  .next (s.onMgmt 0x02 (fun s m => s.mgmtRespond m 0 (s.sec.flash.cert.take 1952)))

/-- MGMT.HOME. -/
def execMgmtHome (s : State) : Host.Outcome State Fault Refusal :=
  .next (s.onMgmt 0x03 (fun s m =>
    let s := { s with sec := { s.sec with home := some (mgNum m.payload % 2 ^ 15) } }
    s.mgmtRespond m 0 []))

/-- Whether a port's laser may shine and its reference runs (Table 17.9, R475). -/
def State.canTrain (s : State) (p : Nat) : Bool := !s.power.hotPorts.contains p && !s.power.lasersOff && !s.time.clockLost

/-- Retrain a port: it may come up with 8 lanes again, and one in Up goes through Down. A port that is disabled or mismatched stays so (R278, R279). -/
def State.retrainPort (s : State) (p : Nat) : State :=
  let ph := (s.port p).phase
  if ph = .disabled ∨ ph = .mismatch then s
  else
    let s := s.goDown p
    let s := s.setPort p { s.port p with mayFull := true }
    if s.canTrain p then s.setPhase p .training else s

/-- FAB.RETRAIN. -/
def execFabRetrain (s : State) : Host.Outcome State Fault Refusal :=
  .next (s.onMgmt 0x10 (fun s m =>
    let mask := mgNum m.payload
    let s := ((List.range 20).filter (bitN mask)).foldl State.retrainPort s
    s.mgmtRespond m 0 []))

/-- FAB.GWSET: entries FIRST to FIRST + COUNT − 1 of the gateway table are written, and packets held for want of a route are tried again. -/
def execFabGwset (s : State) : Host.Outcome State Fault Refusal :=
  .next (s.onMgmt 0x11 (fun s m =>
    let b := mgBody m.payload
    let s := (List.range (fieldN b 2 2)).foldl (fun (s : State) i =>
      { s with fab := { s.fab with gw := tabSet 0 s.fab.gw (fieldN b 0 2 + i) (BitVec.ofNat 32 (fieldN b (4 + 4 * i) 4 % 2 ^ 20)) } }) s
    s.retryHeld.mgmtRespond m 0 []))

/-- FAB.REVIVE: the peer's dead mark is cleared (R297). -/
def execFabRevive (s : State) : Host.Outcome State Fault Refusal :=
  .next (s.onMgmt 0x12 (fun s m =>
    let g := mgNum m.payload % 2 ^ 15
    (s.setPeer g { s.peer g with dead := false }).mgmtRespond m 0 []))

/-- Tear down the contexts of a mask with reason JOB_TEARDOWN. -/
def State.jobTeardown (s : State) (mask : Nat) : State :=
  ((List.range 64).filter (bitN mask)).foldl (fun s c => s.beginTeardown c 0 reasonJob 0 0) s

/-- JOB.TEARDOWN. -/
def execJobTeardown (s : State) : Host.Outcome State Fault Refusal :=
  .next (s.onMgmt 0x20 (fun s m => (s.jobTeardown (mgNum m.payload)).mgmtRespond m 0 []))

/-- LC.ADVANCE: with a context present and no FORCE it is refused (CTX_PRESENT); with FORCE every context is torn down first (R445). A transition that has begun meanwhile goes first
(R461). -/
def execLcAdvance (s : State) : Host.Outcome State Fault Refusal :=
  .next (s.onMgmt 0x40 (fun s m =>
    if s.changing then s.mgmtRespond m msBadCommand []
    else if !s.ten.ctxs.isEmpty && !mgForce m.payload then s.mgmtRespond m msCtxPresent []
    else ((s.mgmtRespond m 0 []).jobTeardown (2 ^ 64 - 1)).beginTransition ⟨fieldN (mgBody m.payload) 0 1, []⟩))

/-- MGMT.KEYSET: the new record replaces the old in flash and in the rind; the nonce window of a slot whose key has changed starts empty (log 90). -/
def execMgmtKeyset (s : State) : Host.Outcome State Fault Refusal :=
  .next (s.onMgmt 0x41 (fun s m =>
    let b := mgBody m.payload
    let old := s.sec.rind.mgmtKeys
    let new := recordKeys b
    let s := s.rindAccess 2 0 (64 * 5) true
    let s := { s with sec := { s.sec with
      keyrecOk := true
      flash := { s.sec.flash with keyRecord := b }
      rind := { s.sec.rind with
        mgmtKeys := new
        nonces := s.sec.rind.nonces.filter (fun e => decide (tabFind old e.1 = tabFind new e.1)) } } }
    s.mgmtRespond m 0 []))

/-- The fields of Table 16.10 in table order. -/
def LifeLedger.bytes (l : LifeLedger) : List Byte :=
  leBytes 8 l.powerOnS ++ leBytes 4 l.powerCycles ++ l.stackBytes.flatMap (leBytes 8) ++ l.optTxS.flatMap (leBytes 4) ++ l.tempHist.flatMap (leBytes 4) ++
    leBytes 8 l.firstDeploy ++ leBytes 4 l.saveSeq

/-- LEDGER.READ: the live ledger, then the time of the last completed save. -/
def execLedgerRead (s : State) : Host.Outcome State Fault Refusal :=
  .next (s.onMgmt 0x50 (fun s m => s.mgmtRespond m 0 (s.life.live.bytes ++ leBytes 8 s.life.lastSave)))

end Sys2Proof.Machine
end

