-- ==== Sys2Proof/Machine/Time.lean ====
section
/-!
DEFINITION. Time (spec/16_security_lifecycle_time.md, R452 to R460): the exchange with a master, the discipline of the timebase, what happens at each of its steps, and the
saves of the lifetime ledger.
-/
namespace Sys2Proof.Machine

/-! ### Discipline (R453, R454). Offsets are held doubled, so that half a nanosecond is exact. -/

/-- TB_INC for 6.4 ns truncated (R452), and the ±500 ppm about it. -/
def tbNominal : Nat := 0x06666666
def tbSpan : Nat := tbNominal / 2000
/-- Steps of the reference in 250 ms. -/
def slewSteps : Nat := 39062500

/-- The change of TB_INC that removes an offset over 250 ms, to the nearest unit (log 110). -/
def slewOf (theta2 : Int) : Int := (theta2 * 2 ^ 24 + slewSteps) / (2 * slewSteps)

/-- TB_INC that removes an offset on top of the frequency estimate, held within ±500 ppm of nominal. -/
def disciplined (estimate theta2 : Int) : Nat :=
  let d := estimate + slewOf theta2
  ((tbNominal : Int) + max (-(tbSpan : Int)) (min (tbSpan : Int) d)).toNat

/-- Set the rate so that an offset is removed over the next 250 ms. -/
def State.slew (s : State) (theta2 : Int) : State :=
  { s with time := { s.time with inc := BitVec.ofNat 32 (disciplined s.time.estimate theta2) } }

/-- Step the timebase forward, to a value in units of 2^-24 ns. Windows that the step passes end (R433), and LOCKED is cleared. -/
def State.stepTime (s : State) (tb : Nat) : State :=
  let s := s.crossWindow (tb / 2 ^ 24)
  { s with time := { s.time with tb := tb, locked := false, lockRun := 0 } }

/-- The bound on a counted exchange for LOCKED, doubled: 500 ns for a client of a chassis master, 5 µs for a chassis master. -/
def lockBound (role : Nat) : Nat := if role = 1 then 10000 else 1000

/-- An exchange within the bound, or outside it. -/
def State.noteOffset (s : State) (theta2 : Int) : State :=
  let t := s.time
  if theta2.natAbs ≤ lockBound t.role then { s with time := { t with lockRun := t.lockRun + 1, locked := t.locked || 8 ≤ t.lockRun + 1 } }
  else { s with time := { t with lockRun := 0, locked := false } }

/-- A counted exchange corrects the client (R454), and the 5 s of R456 are counted from the timebase it leaves. The estimate of frequency that it leaves for later ones is not stated (log 40). -/
def State.counted (s : State) (theta2 : Int) : State :=
  let s := { s with time := { s.time with holdover := false } }
  let up : Nat := theta2.toNat * 2 ^ 23
  let s :=
    if !s.time.acquired then
      let s := if 0 < theta2 then s.stepTime (s.time.tb + up) else s.noteOffset theta2
      { s with time := { s.time with acquired := true } }
    else if 2000000 < theta2 then s.stepTime (s.time.tb + up)
    else (s.slew theta2).noteOffset theta2
  let (e, s) := s.freeWord
  { s with time := { s.time with estimate := e.toInt, lastCount := s.now } }

/-! ### The exchange (R453) -/

/-- Whether a package runs exchanges: it is a configured client or chassis master. -/
def State.exchanges (s : State) : Bool := s.firmware && s.time.configured && s.time.role != 2

/-- TIME_EXCHANGE: 250 ms after the last, a TIME_REQ goes to the master; the port stamps t1 as it leaves. -/
def execTimeExchange (s : State) : Host.Outcome State Fault Refusal :=
  .next (
    let due := match s.time.lastExch with | some t => decide (250000000 ≤ s.now - t) | none => true
    if !s.exchanges || !due then s
    else
      let n := s.time.exch + 1
      let s := { s with time := { s.time with exch := n, asked := true, lastExch := some s.now } }
      s.sendPlain (s.mkPacket 0x63 3 s.time.master 0 0 [(0x10, 8, s.now), (0x18, 4, n.toNat)] []))

/-- TIME_REQ: the oldest that has come is answered with the stamp of its arrival; the port stamps t3 as the answer leaves. Both are this package's timebase, whatever the command's operands say (log 110). -/
def execTimeReq (_t2 _t3 : W64) (s : State) : Host.Outcome State Fault Refusal :=
  .next (
    if !s.firmware then s
    else
      match s.takeInbox 0x63 with
      | none => s
      | some (p, s) =>
        s.sendPlain (s.mkPacket 0x64 3 p.src.toNat 0 0 [(0x10, 8, pktOp p 0x10 8), (0x18, 4, pktOp p 0x18 4), (0x1C, 2, s.tbFlags)]
          (leBytes 8 p.arrived ++ leBytes 8 s.now)))

/-- TIME_RESP: the oldest that has come, with t4 the stamp of its arrival (log 110); one that does not answer the latest request is discarded, and so is one whose master has not acquired or whose delay is above 20 µs. -/
def execTimeResp (_t4 : W64) (s : State) : Host.Outcome State Fault Refusal :=
  .next (s.unlessTripped fun s => match s.takeInbox 0x64 with
    | none => s
    | some (p, s) =>
      if !s.exchanges || !s.time.asked || pktOp p 0x18 4 != s.time.exch.toNat || p.payload.length != 16 then s
      else
        let s := { s with time := { s.time with asked := false } }
        let t1 : Int := pktOp p 0x10 8
        let t2 : Int := fieldN p.payload 0 8
        let t3 : Int := fieldN p.payload 8 8
        let t4 : Int := p.arrived
        let delta := (t4 - t1) - (t3 - t2)
        if bitN (pktOp p 0x1C 2) 0 && delta ≤ 20000 then s.counted ((t2 - t1) + (t3 - t4)) else s)

/-- TIME_HOLDOVER: 5 s have passed without a counted exchange (R456). -/
def execTimeHoldover (s : State) : Host.Outcome State Fault Refusal :=
  .next (
    if s.exchanges && !s.time.holdover && 5000000000 ≤ s.now - s.time.lastCount then
      ({ s with time := { s.time with holdover := true } }).eventBoth 0x25 none 0 0
    else s)

/-- TIME.CONFIG: an exchange in progress is discarded (R461), and the 5 s of R456 are counted from now (log 41). -/
def execTimeConfig (s : State) : Host.Outcome State Fault Refusal :=
  .next (s.onMgmt 0x30 (fun s m =>
    let v := mgNum m.payload
    let s := { s with time := { s.time with
      master := v % 2 ^ 15
      role := bitsN v 17 16
      configured := true
      asked := false
      lastCount := s.now } }
    s.mgmtRespond m 0 []))

/-- TIME.SET: the root steps forward to the value, or slews toward one that is not ahead, and has acquired. -/
def execTimeSet (s : State) : Host.Outcome State Fault Refusal :=
  .next (s.onMgmt 0x31 (fun s m =>
    let v := fieldN (mgBody m.payload) 0 8
    let s := if s.now < v then s.stepTime (v * 2 ^ 24) else s.slew (2 * ((v : Int) - (s.now : Int)))
    ({ s with time := { s.time with acquired := true } }).mgmtRespond m 0 []))

/-- TB_SET: accepted once a boot, forward only, and only without a TIME.CONFIG. -/
def execTbSet (value : W64) (s : State) : Host.Outcome State Fault Refusal :=
  .next (
    if !s.hears 0 then s
    else if value.toNat ≤ s.now ∨ s.time.setUsed ∨ s.time.configured then s.refuse 0 offTbSet
    else
      let s := s.stepTime (value.toNat * 2 ^ 24)
      { s with time := { s.time with acquired := true, setUsed := true } })

/-! ### What a step of 6.4 ns counts (R21, R149, R274, R305, R328, R347, R434) -/

/-- VAT_WAIT_TIME of the requesters with a request waiting. -/
def State.countVatWaits (s : State) : State :=
  (distinct ((s.vats.waiting.filter (fun r => r.eng < 4)).map (fun r => 4 * r.ctx + r.eng))).foldl (fun s k => s.count (offVatWaitTime (k / 4) (k % 4)) 1) s

/-- Whether a core holds bytes read from sequence state for a remote destination. -/
def State.heldSeq (s : State) (core : Nat) : Bool :=
  (s.core core).dmaQ.any (fun q => dmaOpc q.block == opCopy && q.reqs.any (fun r =>
    (match r.st with | .fetched _ => true | _ => false) && (s.side (dmaDst q.block + r.off)).isRemote))

/-- Whether the DMA engine of a core holds a request for want of a request slot (R311). -/
def State.waitsSlot (s : State) (core c : Nat) : Bool :=
  s.enginesBegin core && !s.slotFree c && (s.heldSeq core || s.outstanding core < 384 &&
  match (s.core core).dmaQ.find? (fun q => q.begun && q.nextOff < dmaTotal q.block) with
  | none => false
  | some q =>
    let b := q.block
    let far (a : Nat) : Bool := match s.side a with | .remote g _ => (s.peerCtx c g).isSome | _ => false
    (dmaOpc b == opCopy && far (dmaSrc b + q.nextOff)) || far (if dmaOpc b = opAtomic then dmaDst b else dmaDst b + q.nextOff))

/-- MEM_SLOT_WAIT and MEM_REPLY_STORE_FULL. -/
def State.countMemory (s : State) : State :=
  let cs := s.cores.filterMap (fun e => (s.coreCtx e.1).bind (fun c => if s.waitsSlot e.1 c then some c else none))
  let s := (distinct cs).foldl (fun s c => s.count (offMemSlotWait c) 1) s
  let held := s.fab.inbox.any (fun p => (p.typ == 0x10 || p.typ == 0x13) && decide (replyStore < s.replyUsed + replyLen p))
  if held then s.count (offMemCtr 5) 1 else s

/-- FAB_STALL: a packet at the head of an output waits for credits. -/
def State.countStalls (s : State) : State :=
  s.fab.ports.foldl (fun s p =>
    if p.2.phase = .up then
      p.2.queues.foldl (fun s q =>
        match q.2 with
        | h :: _ => if p.2.hasRoom h.pkt then s else s.count (offFabVc p.1 q.1 6) 1
        | [] => s) s
    else s) s

/-- Whether a collective has a contribution ready and no credit for it (R340). -/
def Coll.wantsCredit (x : Coll) : Bool :=
  let a := x.cmd
  a.reduces && x.started && !x.paused && x.credits.isEmpty &&
  (List.range a.nc).any (fun k => a.owner k != x.rank && !x.sent.any (fun e => e.kind == ckContrib && e.chunk == k))

/-- COLL_CREDIT_WAIT, and BARRIER_WAIT of the tricks whose barrier is not complete. -/
def State.countWaits (s : State) : State :=
  let cs := distinct ((s.coll.colls.filter Coll.wantsCredit).map (·.ctx))
  let s := cs.foldl (fun s c => s.count (offCollCtr c 7) 1) s
  { s with deal := { s.deal with tricks := s.deal.tricks.map (fun t => if t.live && t.waitFrom.isSome && !t.barrierMet then { t with waited := t.waited + 1 } else t) } }

/-- Add to a table of numbers. -/
def tabAdd (t : Tab Nat) (k n : Nat) : Tab Nat := tabSet 0 t k (tabGet 0 t k + n)

/-- ACCT_ENGINE_STEPS and ACCT_TABLE_STEPS, and the same for the split of energy (R434, R435). -/
def State.countEngines (s : State) (cores table : List Nat) : State :=
  let s := (distinct cores).foldl (fun s k =>
    match s.coreCtx k with
    | none => s
    | some c =>
      let s := if ((s.ctx? c).map (·.lent)).getD false then s.count (offAcctCtr c 0) 1 else s
      { s with ten := { s.ten with engSteps := tabAdd s.ten.engSteps (4 * c + clusterDie (coreCluster k)) 1 } }) s
  (distinct table).foldl (fun s c =>
    match s.ctx? c with
    | none => s
    | some x =>
      let s := if x.lent then s.count (offAcctCtr c 1) 1 else s
      { s with ten := { s.ten with tblSteps := tabAdd s.ten.tblSteps c 1 } }) s

/-- ACCT_QUEUE_STEPS and ACCT_PREEMPT_STEPS of serving contexts (R219). -/
def State.countServing (s : State) : State :=
  s.ten.ctxs.foldl (fun s e =>
    if e.2.lent then s
    else
      let n := (s.seq.slots.filter (fun k => k.2.ctx == e.1 && k.2.inQueue)).length
      let s := s.count (offAcctCtr e.1 6) n
      if e.2.phase = .stopping ∨ e.2.phase = .suspended ∨ e.2.phase = .resuming then s.count (offAcctCtr e.1 8) 1 else s) s

/-- A signed reading in sixteenths of a degree. -/
def tempOf (v : Nat) : Int := (BitVec.ofNat 16 v).toInt

/-- The bin of TEMP_HIST for a reading in sixteenths of a degree: 0 below 0 °C, i from 5(i − 1) °C, 27 from 130 °C. -/
def tempBin (t : Int) : Nat := if t < 0 then 0 else min 27 (t.toNat / 80 + 1)

/-- The hottest of some readings. -/
def hottest (l : List Int) : Int :=
  match l with
  | [] => 0
  | a :: r => r.foldl max a

/-- Readings of the compute dies. -/
def State.dieTemps (s : State) : List Int := (List.range 4).map (fun d => tempOf (s.regN (offTempDie d)))

/-- Whether a port's transmitter emits light: the port is not disabled, and its laser is not off (log 42). -/
def State.lit (s : State) (p : Nat) : Bool := (s.port p).phase != .disabled && !s.power.lasersOff && !s.power.hotPorts.contains p

/-- Steps of the reference in a second. -/
def secondSteps : Nat := 156250000

/-- Add 1 at a place of a list of counts. -/
def bumpAt (l : List Nat) (i : Nat) : List Nat := l.set i (l.getD i 0 + 1)

/-- One more step of the reference; each whole second counts in the lifetime ledger (Table 16.10). The die junctions are those of the compute dies and of the Table (log 42). -/
def State.countSecond (s : State) : State :=
  let n := s.life.secTick + 1
  if n < secondSteps then { s with life := { s.life with secTick := n } }
  else
    let l := s.life.live
    { s with life := { s.life with
      secTick := 0
      live := { l with
        powerOnS := l.powerOnS + 1
        optTxS := l.optTxS.mapIdx (fun p v => if s.lit p then v + 1 else v)
        tempHist := bumpAt l.tempHist (tempBin (hottest (tempOf (s.regN offTempTable) :: s.dieTemps))) } } }

/-- Whether the timebase counts: its reference is there, the wipe of the Table SRAM is over, and no trip has halted the Table. -/
def State.ticks (s : State) : Bool := !s.time.clockLost && s.sec.boot != .held && s.sec.boot != .wiping && !s.power.tripped

/-- Work that goes on as room comes: weight fetches, host copies, collectives, reclaims, a pushed image and descriptor reads. -/
def State.pumpAllWork (s : State) : State :=
  let s := s.whl.loads.foldl (fun s e => s.pumpLoad e.1) s
  (s.pumpCopies.pumpColls.pumpReclaims).pushOn.fetchAll

/-! ### Saves of the lifetime ledger (R457 to R460) -/

/-- Whether copy A is the one the next save writes: saves alternate, so the newer copy stands. -/
def Flash.saveToA (f : Flash) : Bool := !f.copyA.valid || (f.copyB.valid && f.copyA.data.older f.copyB.data)

/-- Write a copy of the ledger. -/
def Flash.putCopy (f : Flash) (c : LedgerCopy) : Flash := if f.saveToA then { f with copyA := c } else { f with copyB := c }

/-- A save starts: the snapshot carries the next SAVE_SEQ, once the part is provisioned, and FIRST_DEPLOY if this is the first save that finds the part Deployed and the timebase acquired (R458). From now the copy
written to is not valid (log 84). -/
def State.startSave (s : State) (forDown : Bool) : State :=
  let l := s.life.live
  let first := if l.firstDeploy = 0 ∧ s.lcState = 7 ∧ s.time.acquired then s.now else l.firstDeploy
  let l := { l with saveSeq := if s.lcState = 1 then l.saveSeq else l.saveSeq + 1, firstDeploy := first }
  { s with
    life := { s.life with live := l, snapshot := some l, forDown := forDown, lastStart := s.now }
    sec := { s.sec with flash := s.sec.flash.putCopy ⟨false, l⟩ } }

/-- LEDGER_SAVE: 595 s after the last save started, at an orderly power-down, or at step 2 of a transition, which writes the wipe-pending mark first and waits until every context is
gone. -/
def execLedgerSave (s : State) : Host.Outcome State Fault Refusal :=
  .next (
    if !s.firmware || s.life.snapshot.isSome then s
    else
      match s.sec.transition with
      | some m =>
        if s.ten.ctxs.isEmpty && s.sec.flash.mark.isNone then
          ({ s with sec := { s.sec with flash := { s.sec.flash with mark := some m } } }).startSave s.power.powerDown
        else if s.power.powerDown && !s.life.saved && s.sec.flash.mark.isSome then s.startSave true
        else s
      | none =>
        if s.power.powerDown then (if s.life.saved then s else s.startSave true)
        else if 595000000000 ≤ s.now - s.life.lastStart then s.startSave false
        else s)

/-- LEDGER_SAVE_DONE: the copy is written. SAVED is set when an orderly power-down waits for it (R483), and a transition goes on to its wipe (R445). -/
def execLedgerSaveDone (s : State) : Host.Outcome State Fault Refusal :=
  .next (match s.life.snapshot with
    | none => s
    | some l =>
      if !s.firmware then s
      else
        let s := { s with
          sec := { s.sec with flash := s.sec.flash.putCopy ⟨true, l⟩ }
          life := { s.life with snapshot := none, forDown := false, lastSave := s.now, saved := s.life.saved || s.life.forDown } }
        if s.sec.transition.isSome && s.sec.flash.mark.isSome then s.lifeWipe else s)

end Sys2Proof.Machine
end

