-- ==== Sys2Proof/Machine/Power.lean ====
section
/-!
DEFINITION. Package and power (spec/17_package_electrical.md, R471 to R485) and failed clusters (spec/01_architecture.md, R24, R28, R29): the thermal and power loop, the regulators, the
trip, the reference clock, the board-management SMBus, the handshake meter and the retirement of a cluster.
-/
namespace Sys2Proof.Machine

/-! ### Ports whose light or clock goes (R475, R480, R483) -/

/-- Every port that has left Disabled goes Down together, so that nothing waiting at one can leave by another; what waited fares as R296 gives. -/
def State.allPortsDown (s : State) : State :=
  let up := s.fab.ports.filter (fun e => e.2.phase == .up)
  let other := s.fab.ports.filter (fun e => e.2.phase == .training)
  let s := up.foldl (fun s e => s.setPort e.1 { s.port e.1 with phase := .down }) s
  let s := up.foldl (fun s e => (s.leaveUp e.1 .down).count (offFabPort e.1 4) 1) s
  other.foldl (fun s e => s.trainFail e.1) s

/-! ### VCORE_C (R471, R472) -/

/-- A set point in 5 mV steps as VOUT_COMMAND gives it, in units of 2^-12 V, truncated: 0.65 V is 0x0A66 (log 43). -/
def voutOf (steps : Nat) : Nat := steps * 5 * 4096 / 1000
/-- A VCORE_SET value as 5 mV steps. -/
def stepsOf (v : Nat) : Nat := ceilDiv (v * 1000) 4096 / 5

/-- The lowest and highest set points, 0.55 and 0.80 V, in 5 mV steps. -/
def vcoreMin : Nat := 110
def vcoreMax : Nat := 160

/-- The next set point on the way from one to another: at most 20 mV in one write. -/
def nextStep (now want : Nat) : Nat := if now < want then min want (now + 4) else max want (now - 4)

/-- A set point is confirmed: VCORE_SET shows it. -/
def State.confirmVr (s : State) (d v : Nat) : State := { s with power := { s.power with vcore := s.power.vcore.set d v } }.setRegN (offVcoreSet d) v

/-- Write VOUT_COMMAND to a regulator. Acknowledged, it becomes the set point; after three attempts without, the die holds its last confirmed set point and VR_FAULT is reported, with a
STATUS_WORD that the regulator gives and the spec does not (log 92). -/
def State.commandVr (s : State) (d steps : Nat) (ack : Bool) : State :=
  let v := voutOf steps
  let tries := if ack then 1 else 3
  let s := { s with power := { s.power with vrOut := s.power.vrOut ++ List.replicate tries (d, v) } }
  if ack then s.confirmVr d v
  else
    let s := { s with power := { s.power with vr := tabInsert s.power.vr d ⟨v, 3, s.now⟩ } }
    let (w, s) := s.freeWord
    (s.setTherm thVrFault true).eventBoth 0x30 none d (w.toNat % 65536)

/-- VR_RETRY: 10 ms after the last attempt on a die whose regulator has not acknowledged. -/
def execVrRetry (die : Fin 4) (ack : Bool) (s : State) : Host.Outcome State Fault Refusal :=
  .next (match tabFind s.power.vr die.val with
    | none => s
    | some p =>
      if !s.firmware ∨ s.now - p.last < 10000000 then s
      else
        let s := { s with power := { s.power with vrOut := s.power.vrOut ++ [(die.val, p.target)] } }
        if ack then ({ s with power := { s.power with vr := tabErase s.power.vr die } }).confirmVr die p.target
        else { s with power := { s.power with vr := tabInsert s.power.vr die { p with tries := p.tries + 1, last := s.now } } })

/-- VR_ALERT: VR_ALERT_N has fallen; the STATUS_WORD of each regulator is read and posted. -/
def execVrAlert (status : List (BitVec 16)) (s : State) : Host.Outcome State Fault Refusal :=
  .next (
    if !s.firmware then s
    else (List.range 4).foldl (fun s d => s.eventBoth 0x30 none d (status.getD d 0).toNat) s)

/-! ### The thermal and power loop (R478, R479) -/

/-- Sixteenths of a degree. -/
def degrees (t : Nat) : Int := 16 * t

/-- Store the readings of an interval. -/
def State.storeReadings (s : State) (e : ThermalEnv) : State :=
  let put (s : State) (n : Nat) (off : Nat → Nat) (l : List W16) : State := (List.range n).foldl (fun s i => s.setRegN (off i) (l.getD i 0).toNat) s
  let s := put s 4 offTempDie e.dies
  let s := s.setRegN offTempTable e.table.toNat
  let s := put s 12 offTempStack e.stackTemps
  (put s 20 offTempOpt e.optics).setRegN offPkgPowerW (min e.powerW 2047)

/-- Readings of the stacks and the optics. -/
def State.stackTemp (s : State) (k : Nat) : Int := tempOf (s.regN (offTempStack k))
def State.optTemp (s : State) (p : Nat) : Int := tempOf (s.regN (offTempOpt p))

/-- A set with hysteresis: an element joins at `on` or above and leaves below `off`. -/
def follow (l : List Nat) (n : Nat) (temp : Nat → Int) (on off : Int) : List Nat :=
  (List.range n).filter (fun i => on ≤ temp i || (l.contains i && off ≤ temp i))

/-- The throttle actions of the Table, the stacks and the optics (Table 17.9). -/
def State.throttleParts (s : State) : State :=
  let t := tempOf (s.regN offTempTable)
  let hot := degrees 100 ≤ t
  let s := if hot && !s.power.tableHot then (s.setTherm thTableHot true).eventBoth 0x32 none (t / 16).toNat 0 else s
  let paced := follow s.power.paced 12 s.stackTemp (degrees 95) (degrees 90)
  let optics := follow s.power.hotPorts 20 s.optTemp (degrees 85) (degrees 75)
  let dark := optics.filter (fun p => !s.power.hotPorts.contains p)
  let s := { s with power := { s.power with
    tableHot := hot
    hotRefresh := follow [] 12 s.stackTemp (degrees 85) (degrees 85)
    paced := paced
    hotPorts := optics } }
  let s := s.setTherm thStackPaced (!paced.isEmpty)
  dark.foldl (fun s p => if (s.port p).phase = .training then s.trainFail p else s.goDown p) s

/-- Whether READ_VOUT reports a value within the 20 mV of a set point's steady-state band (Table 17.4), both in units of 2^-12 V. -/
def voutInBand (reading set : Nat) : Bool := ((reading : Int) - set).natAbs * 1000 ≤ 20 * 4096

/-- Command a die toward a set point, with what READ_VOUT reports before each write that there is time for: a write is made once the previous value is within band (R471); `ack` says whether the
last is acknowledged. -/
def State.commandTo (s : State) (d want : Nat) (ack : Bool) : List W16 → State
  | [] => s
  | r :: rest =>
    let set := s.power.vcore.getD d 0
    let now := stepsOf set
    if want = now then s
    else if !voutInBand r.toNat set then s.commandTo d want ack rest
    else (s.commandVr d (nextStep now want) (ack || !rest.isEmpty)).commandTo d want ack rest

/-- Command each die toward the lower of its thermal set point and the cap set point, in as many writes as the interval has time for (log 43). A die whose regulator does not answer holds. -/
def State.commandDies (s : State) (e : ThermalEnv) : State :=
  (List.range 4).foldl (fun s d =>
    if tabHas s.power.vr d then s
    else
      let want := min vcoreMax (max vcoreMin (min (e.thermalSet.getD d vcoreMax) e.capSet))
      s.commandTo d want (e.acks.getD d true) (e.vouts.getD d [])) s

/-! ### Trip (R478, R480) -/

/-- Where a junction trips (Table 17.9), in sixteenths of a degree. -/
def tripAt : TripPart → Int
  | .die _ => degrees 115
  | .table => degrees 115
  | .stack _ => degrees 105
  | .optics _ => degrees 95

/-- Whether a sensor's reading has reached its part's trip point. -/
def sensorTrips (x : TripReading) : Bool := tripAt x.part ≤ x.reading.toInt

/-- The readings of an interval, each with its part. -/
def junctionReadings (e : ThermalEnv) : List TripReading :=
  (List.finRange 4).map (fun d => ⟨.die d, e.dies.getD d 0⟩) ++ [⟨.table, e.table⟩] ++
  (List.finRange 12).map (fun k => ⟨.stack k, e.stackTemps.getD k 0⟩) ++ (List.finRange 20).map (fun p => ⟨.optics p, e.optics.getD p 0⟩)

/-- A trip: every die halts, every laser is off, THERM_TRIP_N falls and stays low, and a save in progress is lost. -/
def State.trip (s : State) : State :=
  let s := { s with
    power := { s.power with tripped := true, thermTripN := false, lasersOff := true, diesHalted := true }
    life := { s.life with snapshot := none } }
  s.allPortsDown

/-- THERMAL_TRIP: a sensor has read its part's trip point. Which part tripped changes nothing. -/
def execThermalTrip (sensor : TripReading) (s : State) : Host.Outcome State Fault Refusal :=
  .next (if s.power.tripped ∨ s.sec.boot = .held ∨ !sensorTrips sensor then s else s.trip)

/-- THERMAL_CONTROL: 100 µs after the last loop. The set points are firmware's (the spec gives what they keep, not how they are computed); a cap set point below 0.55 V says that the cap
cannot be met there, and a die is throttled while its reading is at THROTTLE_T or above (log 43). A reading at its part's trip point trips the package (R478). -/
def execThermalControl (env : ThermalEnv) (s : State) : Host.Outcome State Fault Refusal :=
  .next (
    if !s.firmware ∨ s.now - s.power.thermTime < 100000 then s
    else
      let s := ({ s with power := { s.power with thermTime := s.now } }).storeReadings env
      if (junctionReadings env).any sensorTrips then s.trip
      else
      let s := s.throttleParts
      let s := s.setTherm thThrottled (s.dieTemps.any (fun t => decide (degrees (s.regN offThrottleT) ≤ t)))
      let unmet := env.capSet < vcoreMin
      let s := if unmet && !s.therm thCapUnmet then s.eventBoth 0x31 none (s.regN offPwrCapW) (s.regN offPkgPowerW) else s
      (s.setTherm thCapUnmet unmet).commandDies env)

/-! ### The reference clock (R475) -/

/-- REFCLK_LOST: FAB_REFCLK has been gone for 10 µs. -/
def execRefclkLost (s : State) : Host.Outcome State Fault Refusal :=
  .next (
    if s.time.clockLost then s
    else
      let s := { s with time := { s.time with clockLost := true } }
      if s.sec.boot = .held then s
      else
        let s := s.allPortsDown.setTherm thRefclkLost true
        if s.firmware then s.eventBoth 0x33 none 0 0 else s)

/-- REFCLK_RESTORED: steps are counted again from the value held. -/
def execRefclkRestored (s : State) : Host.Outcome State Fault Refusal :=
  .next { s with time := { s.time with clockLost := false } }

/-! ### Board-management SMBus (R482, R483) -/

/-- Send an answer on the SMBus. -/
def State.smbSend (s : State) (bs : List Byte) : State := { s with power := { s.power with smbOut := s.power.smbOut ++ [bs] } }

/-- POSITION: taken only while every port is Disabled. -/
def execPosition (pecOk : Bool) (data : BitVec 24) (s : State) : Host.Outcome State Fault Refusal :=
  .next (
    if !pecOk || s.fab.ports.any (fun e => e.2.phase != .disabled) then s
    else
      let v := data.toNat
      { s with fab := { s.fab with pos := some (bitsN v 8 0, bitsN v 11 9, bitsN v 14 12) } })

/-- The word that STATUS reads. -/
def State.smbStatus (s : State) : Nat :=
  s.power.pwrGood.toNat + 2 * (s.therm thThrottled).toNat + 4 * s.power.tripped.toNat + 8 * (s.therm thVrFault).toNat + 16 * s.life.saved.toNat +
    32 * (s.therm thCapUnmet).toNat + 256 * s.sec.bootCode

/-- STATUS. -/
def execStatus (pecOk : Bool) (s : State) : Host.Outcome State Fault Refusal := .next (if pecOk then s.smbSend (leBytes 2 s.smbStatus) else s)

/-- POWER_DOWN: no descriptor is accepted any more, every laser is off and the compute dies halt; the ledger save is due. -/
def execPowerDown (pecOk : Bool) (s : State) : Host.Outcome State Fault Refusal :=
  .next (
    if !pecOk ∨ !s.firmware ∨ s.power.powerDown then s
    else
      let s := { s with
        power := { s.power with powerDown := true, lasersOff := true, diesHalted := true }
        host := { s.host with noAccept := true } }
      s.allPortsDown)

/-- A reading in whole degrees; one between two is rounded to either, which the spec does not state (log 44). -/
def State.wholeDegrees (s : State) (t : Int) : Nat × State :=
  if t % 16 = 0 then ((BitVec.ofInt 8 (t / 16)).toNat, s)
  else
    let (up, s) := s.freeBool
    ((BitVec.ofInt 8 (t / 16 + (if up then 1 else 0))).toNat, s)

/-- TEMP: the hottest compute die, the Table, the hottest stack and optical engine, and THROTTLE_T. -/
def execTemp (pecOk : Bool) (s : State) : Host.Outcome State Fault Refusal :=
  .next (
    if !pecOk then s
    else
      let (a, s) := s.wholeDegrees (hottest s.dieTemps)
      let (b, s) := s.wholeDegrees (tempOf (s.regN offTempTable))
      let (c, s) := s.wholeDegrees (hottest ((List.range 12).map s.stackTemp))
      let (d, s) := s.wholeDegrees (hottest ((List.range 20).map s.optTemp))
      s.smbSend ([a, b, c, d, s.regN offThrottleT].flatMap (leBytes 1)))

/-- POWER. -/
def execPower (pecOk : Bool) (s : State) : Host.Outcome State Fault Refusal :=
  .next (if pecOk then s.smbSend (leBytes 2 (s.regN offPkgPowerW)) else s)

/-- The limits of PWR_CAP_W (Table 18.7). -/
def capOk (w : Nat) : Bool := 600 ≤ w && w ≤ 1800

/-- CAP: writes PWR_CAP_W; a value outside its limits has no effect (log 111). -/
def execCap (pecOk : Bool) (watts : BitVec 16) (s : State) : Host.Outcome State Fault Refusal :=
  .next (if pecOk && capOk watts.toNat && s.sec.boot != .held then s.setRegN offPwrCapW watts.toNat else s)

/-! ### Clusters (R24, R28, R29) -/

/-- Steps of 6.4 ns in a window of the handshake meter: 100 µs (R24). -/
def meterSteps : Nat := 15625

/-- HSK_METER_WINDOW: 15,625 steps of the timebase after the last window of the cluster, the mean handshakes per microsecond with 8 fraction bits; a mean between two values is rounded to
either (log 44). A retired cluster's meter stands. -/
def execHskMeterWindow (cluster : Cluster) (handshakes : Nat) (s : State) : Host.Outcome State Fault Refusal :=
  .next (
    let x := s.cluster cluster
    if s.retired cluster ∨ !s.ticks ∨ s.time.steps - x.meter < meterSteps then s
    else
      let v := handshakes * 256
      let (up, s) := if v % 100 = 0 then (false, s) else s.freeBool
      (s.setCluster cluster { x with meter := s.time.steps }).setRegN (offHskRate cluster) (min (v / 100 + (if up then 1 else 0)) (2 ^ 32 - 1)))

/-- CORE_ACK_TIMEOUT: a core with work issued has not acknowledged for 1 ms. -/
def execCoreAckTimeout (core : Core) (s : State) : Host.Outcome State Fault Refusal :=
  .next (
    let c := s.core core
    if s.enginesRun core && (!c.matQ.isEmpty || !c.vecQ.isEmpty || !c.dmaQ.isEmpty) then s.markFailed (coreCluster core) else s)

/-- CLUSTER_RETIRED: a cluster with a failed core is given up in the order of R28; its stores are wiped (R29) (log 97). The context torn down is the one that had work on it
when the failure was detected. -/
def execClusterRetired (cluster : Cluster) (s : State) : Host.Outcome State Fault Refusal :=
  .next (
    let n := cluster.val
    let x := s.cluster n
    if !s.firmware ∨ !x.failed ∨ s.retired n then s
    else
      let s := s.setCluster n { x with portClosed := true }
      let s := match x.failCtx with
        | some c => s.fault c clsHwLost n
        | none => s
      let s := (s.wipeClusters [n]).orReg (offClusterRetired (n / 64)) (BitVec.ofNat 64 (2 ^ (n % 64)))
      let s := { s with
        sec := { s.sec with flash := { s.sec.flash with retired := setAdd s.sec.flash.retired n } }
        power := { s.power with alertN := false } }
      s.eventBoth 0x10 none n 0)

end Sys2Proof.Machine
end

