-- ==== Sys2Proof/WellFormed.lean ====
section
/-!
DEFINITION. Which commands a sender can form. The operand types of `Instr` already bound register numbers, cores, functions,
ports and the like; what remains is the shape of lists and of the numbers that are no bit fields. Every meaning is total: an ill-formed command is not
refused by `exec`, it only cannot arrive.
-/
namespace Sys2Proof

/-- PF0's BAR0 is 32 MiB, a VF's 64 KiB (R382). -/
def pfBarBytes : Nat := 2 ^ 25
def vfBarBytes : Nat := 2 ^ 16

/-- A BAR0 write of one to eight bytes inside the function's BAR0 (R382); only 4 and 8 aligned bytes are good (R383), the others still arrive. -/
def barShape (fn : Fn) (offset size : Nat) : Bool :=
  decide (1 ≤ size ∧ size ≤ 8 ∧ offset + size ≤ (if fn.val = 0 then pfBarBytes else vfBarBytes))

/-- The 32-byte words of a stack: 96 GiB (R161). -/
def stackWords : Nat := 3 * 2 ^ 30

/-- A packet carries at most 2,048 bytes (R284). -/
def Packet.wf (p : Packet) : Bool := decide (p.payload.length ≤ 2048)

/-- Whether an end of a path exists on the package. -/
def NetEnd.wf : NetEnd → Bool
  | .cluster n => decide (n < 200)
  | .stack k ch => decide (k < 12 ∧ ch < 32)
  | .table => true

/-- The bank exists (Table 5.1). -/
def BankTurn.wf (t : BankTurn) : Bool :=
  if t.cluster = 200 then decide (t.unit = 0 ∧ t.bank < 256)
  else decide (t.cluster < 200 ∧ t.unit < 160 ∧ t.bank < (if t.unit < 32 then 1 else 16))

def SramUser.wf (u : SramUser) : Bool :=
  match u with
  | .engine core e => decide (core < 25600 ∧ e < 4)
  | .clusterDma n => decide (n < 200)
  | .dieNet => true
  | .block b => decide (b < 16)

/-- An access lies in one SRAM: a scratchpad, a cluster store, or the Table SRAM, which the Table's blocks alone reach (R142, R153). -/
def SramAcc.wf (a : SramAcc) : Bool :=
  a.user.wf && !(a.write && a.atomic) &&
  decide ((2 ^ 42 ≤ a.addr ∧ a.addr + a.len ≤ 2 ^ 42 + 200 * 2 ^ 22) ∨ (2 ^ 43 ≤ a.addr ∧ a.addr + a.len ≤ 2 ^ 43 + 25600 * 2 ^ 16) ∨
    (2 ^ 44 ≤ a.addr ∧ a.addr + a.len ≤ 2 ^ 44 + 2 ^ 28)) &&
  ((match a.user with | .block _ => true | _ => false) == decide (2 ^ 44 ≤ a.addr))

def NetBuf.wf (b : NetBuf) : Bool :=
  match b with
  | .port n g => decide (n < 200 ∧ g < 9)
  | .input n i => decide (n < 200 ∧ i < 6)
  | .inward n | .stack n | .ring n | .up n | .down n => decide (n < 200)

def NetTurn.wf (t : NetTurn) : Bool :=
  match t with
  | .router n out => decide (n < 200 ∧ out < 6)
  | .hop b q => b.wf && decide (q < 4) && (match b with | .input .. => false | _ => true)
  | .enter b q => b.wf && decide (q < 4)

def NetPkt.wf (p : NetPkt) : Bool :=
  decide (p.cls < 4 ∧ p.port < 9) && p.src.wf && p.dst.wf && p.legs.all (fun l => decide (l.cls < 4) && l.src.wf && l.dst.wf)

/-- The ranges of what a timebase step brings (R21, R149, R434). -/
def StepEnv.wf (e : StepEnv) : Bool :=
  e.accesses.all SramAcc.wf && e.bankTurns.all BankTurn.wf && e.netIn.all NetPkt.wf && e.netTurns.all NetTurn.wf &&
  e.cdma.all (fun c => decide (c.1 < 200)) &&
  e.vatUpsets.all (fun v => decide (v.1 < 6)) && e.fwFree.all (fun v => decide (v.1 < 6)) &&
  e.badCores.all (fun c => decide (c < 25600)) && e.badRouters.all (fun n => decide (n < 200)) && e.fec.all (fun p => decide (p.1 < 20)) &&
  e.barReads.all (fun r => decide (r.1 < 64)) && e.cfgWrites.all (fun w => match w with | .d3hot fn => decide (fn < 64) | .maxPayload n => decide (n < 3) | .maxRead n => decide (n < 6) | .numVfs n => decide (n < 64) | _ => true) && e.cfgReads.all (fun r => decide (r.1 < 64)) &&
  e.busyCores.all (fun c => decide (c < 25600)) && e.tableBusy.all (fun c => decide (c < 64))

/-- One reading for each die, stack and optical engine, one set point and one acknowledgement for each die (R478, R479). -/
def ThermalEnv.wf (e : ThermalEnv) : Bool :=
  e.dies.length == 4 && e.stackTemps.length == 12 && e.optics.length == 20 && e.thermalSet.length == 4 && e.acks.length == 4 && e.vouts.length == 4

/-- A command that a sender can form (log 98). -/
def Instr.wf : Instr → Bool
  | .registerWrite fn offset size _ => barShape fn offset size
  | .highestLowestReset offset _ => offset % 8 == 0 && offset < pfBarBytes
  | .conflictClr _ _ lost => lost.all (fun o => decide (o < pfBarBytes))
  | .fabCntClr _ same => same.all (fun o => decide (o < pfBarBytes))
  | .slotSel _ _ => true
  | .vfReset _ => true
  | .ringEn _ _ => true
  | .rcvGo _ part => decide (0 < part ∧ part ≤ 65536)
  | .pkgReset _ => true
  | .tbSet _ => true
  | .vatPoolConfig _ _ _ => true
  | .vatQuotaWrite _ _ _ _ => true
  | .fabPortCtl _ _ => true
  | .mxDrained _ _ => true
  | .mxDrainedTakeEffect _ => true
  | .msixVectorUnmask _ _ => true
  | .add _ _ _ _ => true
  | .sub _ _ _ _ => true
  | .and _ _ _ _ => true
  | .or _ _ _ _ => true
  | .xor _ _ _ _ => true
  | .sll _ _ _ _ => true
  | .srl _ _ _ _ => true
  | .sra _ _ _ _ => true
  | .mul _ _ _ _ => true
  | .mulhu _ _ _ _ => true
  | .min _ _ _ _ => true
  | .max _ _ _ _ => true
  | .minu _ _ _ _ => true
  | .maxu _ _ _ _ => true
  | .divu _ _ _ _ => true
  | .remu _ _ _ _ => true
  | .addi _ _ _ _ => true
  | .andi _ _ _ _ => true
  | .ori _ _ _ _ => true
  | .xori _ _ _ _ => true
  | .slli _ _ _ _ _ => true
  | .srli _ _ _ _ _ => true
  | .srai _ _ _ _ _ => true
  | .movi _ _ _ _ => true
  | .shori _ _ _ _ => true
  | .cmp _ _ _ _ _ _ => true
  | .cmpi _ _ _ _ _ => true
  | .pand _ _ _ _ _ => true
  | .por _ _ _ _ _ => true
  | .pxor _ _ _ _ _ => true
  | .pnot _ _ _ _ => true
  | .pset _ _ _ => true
  | .pclr _ _ _ => true
  | .tstb _ _ _ _ _ => true
  | .br _ _ _ _ => true
  | .j _ _ => true
  | .jal _ _ => true
  | .jalr _ _ _ _ => true
  | .dbnz _ _ _ => true
  | .ldB _ _ _ _ => true
  | .ldBu _ _ _ _ => true
  | .ldH _ _ _ _ => true
  | .ldHu _ _ _ _ => true
  | .ldW _ _ _ _ => true
  | .ldWu _ _ _ _ => true
  | .ldD _ _ _ _ => true
  | .stB _ _ _ _ => true
  | .stH _ _ _ _ => true
  | .stW _ _ _ _ => true
  | .stD _ _ _ _ => true
  | .amoAdd _ _ _ _ => true
  | .amoMin _ _ _ _ => true
  | .amoMax _ _ _ _ => true
  | .amoAnd _ _ _ _ => true
  | .amoOr _ _ _ _ => true
  | .amoXchg _ _ _ _ => true
  | .amoCas _ _ _ _ => true
  | .waitMx _ _ _ => true
  | .waitVx _ _ _ => true
  | .waitDma _ _ _ => true
  | .fenceL _ _ => true
  | .fenceG _ _ => true
  | .waitSatisfied _ => true
  | .waitw _ _ _ _ _ => true
  | .waitwWake _ => true
  | .waitwTimeout _ => true
  | .issueMxi _ _ _ => true
  | .issueVxc _ _ _ => true
  | .issueDmai _ _ _ => true
  | .queueRoomFreed _ => true
  | .sumrPop _ _ _ => true
  | .sumrLastMx _ _ _ => true
  | .sumrOrMx _ _ _ => true
  | .sumrDma _ _ _ => true
  | .trap _ _ _ => true
  | .yield _ _ => true
  | .rdtb _ _ _ _ => true
  | .csrr _ _ _ _ => true
  | .csrw _ _ _ _ => true
  | .setvl _ _ _ _ _ => true
  | .vadd _ _ _ _ _ _ => true
  | .vsub _ _ _ _ _ _ => true
  | .vmul _ _ _ _ _ _ => true
  | .vmac _ _ _ _ _ _ => true
  | .vmin _ _ _ _ _ _ => true
  | .vmax _ _ _ _ _ _ => true
  | .vabs _ _ _ _ _ _ => true
  | .vneg _ _ _ _ _ _ => true
  | .vrcp _ _ _ _ _ _ => true
  | .vsqrt _ _ _ _ _ _ => true
  | .vrsqrt _ _ _ _ _ _ => true
  | .vexp _ _ _ _ _ _ => true
  | .vmov _ _ _ _ _ _ => true
  | .vmerge _ _ _ _ _ _ => true
  | .vadds _ _ _ _ _ _ => true
  | .vsubs _ _ _ _ _ _ => true
  | .vmuls _ _ _ _ _ _ => true
  | .vmins _ _ _ _ _ _ => true
  | .vmaxs _ _ _ _ _ _ => true
  | .vsplat _ _ _ _ _ _ => true
  | .vext _ _ _ _ _ _ => true
  | .vcmp _ _ _ _ _ _ _ _ => true
  | .vredSum _ _ _ _ _ _ => true
  | .vredMax _ _ _ _ _ _ => true
  | .vredMin _ _ _ _ _ _ => true
  | .vredProd _ _ _ _ _ _ => true
  | .vredMean _ _ _ _ _ _ => true
  | .vredArgmax _ _ _ _ _ _ => true
  | .vredArgmin _ _ _ _ _ _ => true
  | .vredSoftmax _ _ _ _ _ _ => true
  | .vcvt _ _ _ _ _ _ _ _ _ => true
  | .mand _ _ _ _ _ => true
  | .mor _ _ _ _ _ => true
  | .mxor _ _ _ _ _ => true
  | .mandn _ _ _ _ _ => true
  | .mnot _ _ _ _ _ => true
  | .mset _ _ _ _ _ => true
  | .mclr _ _ _ _ _ => true
  | .mpop _ _ _ _ _ => true
  | .mfirst _ _ _ _ _ => true
  | .vld _ _ _ _ _ _ => true
  | .vst _ _ _ _ _ _ => true
  | .vldm _ _ _ _ _ _ _ => true
  | .vstm _ _ _ _ _ _ _ => true
  | .vxQuant _ => true
  | .vxAcomb _ => true
  | .vxTopf _ => true
  | .mxPass _ => true
  | .mxGroup _ => true
  | .mxGroupMerge _ => true
  | .mxRead _ => true
  | .mxClear _ => true
  | .mxLoadacc _ => true
  | .mxAddacc _ => true
  | .mxCommandComplete _ => true
  | .dmaCopy _ => true
  | .dmaFill _ => true
  | .atomicAdd _ => true
  | .atomicMin _ => true
  | .atomicMax _ => true
  | .atomicAnd _ => true
  | .atomicOr _ => true
  | .atomicXchg _ => true
  | .atomicCas _ => true
  | .dmaRequestComplete _ _ => true
  | .hskMeterWindow _ _ => true
  | .coreAckTimeout _ => true
  | .clusterRetired _ => true
  | .patrolScrub _ word _ => decide (word < stackWords)
  | .flatRemapComplete _ => true
  | .seqStateAccess _ _ => true
  | .attention _ => true
  | .attentionDone _ => true
  | .tilePack _ => true
  | .tileUnpack _ => true
  | .seqAdmit _ _ => true
  | .seqRetire _ _ => true
  | .seqModify _ _ => true
  | .seqStep _ _ => true
  | .stepBoundary _ => true
  | .boundaryComplete => true
  | .dealTrick _ => true
  | .dealReturn _ => true
  | .dealDirset _ _ => true
  | .dirsetApply _ _ => true
  | .trickRow => true
  | .trickBundle => true
  | .trickNotice => true
  | .trickStalled _ _ => true
  | .packetForward _ pkt _ => pkt.wf
  | .ack => true
  | .ackSend _ _ => true
  | .retransmit _ _ _ => true
  | .deadTarget _ => true
  | .linkState => true
  | .linkStateSend _ => true
  | .neighbourSilent _ => true
  | .trainingComplete _ _ => true
  | .portDown _ _ => true
  | .retrainTimer _ => true
  | .fabRetrain => true
  | .fabGwset => true
  | .fabRevive => true
  | .rdReq => true
  | .wrReq => true
  | .fillReq => true
  | .atReq => true
  | .batchPerform => true
  | .rdReply => true
  | .atReply => true
  | .wrStatus => true
  | .replyTimeout _ => true
  | .collLaunch _ _ => true
  | .collAbort _ _ => true
  | .collStart _ _ => true
  | .collData => true
  | .collZero => true
  | .collCredit => true
  | .collNack => true
  | .collCtrlPause => true
  | .collCtrlResume => true
  | .collCtrlAbort => true
  | .collCtrlRelease => true
  | .collWatchdog _ _ => true
  | .whlLoad _ _ => true
  | .epochDeclare _ _ => true
  | .weightRelease _ _ => true
  | .whlPull => true
  | .whlData => true
  | .whlMcast => true
  | .whlEnd => true
  | .whlNack => true
  | .pullTimeout _ _ => true
  | .pullRoundWait _ _ => true
  | .mcastIdle _ => true
  | .whlWatchdog _ => true
  | .hostReadCompletion _ _ => true
  | .sqTail _ _ _ => true
  | .cqHead _ _ _ => true
  | .evqHead _ => true
  | .cqModTimer _ _ => true
  | .nop _ _ => true
  | .hostCopy _ _ => true
  | .ringBarrier _ _ => true
  | .fwFlash _ _ _ _ => true
  | .functionLevelReset _ => true
  | .vfEnableClear => true
  | .linkReset => true
  | .functionResetDone _ => true
  | .ctxCreate _ _ => true
  | .ctxMap _ _ => true
  | .ctxPreempt _ _ => true
  | .coresStopped _ => true
  | .preemptComplete _ => true
  | .ctxResume _ _ => true
  | .resumeComplete _ _ => true
  | .ctxDestroy _ _ => true
  | .teardownDrainEnd _ => true
  | .ctxReclaim _ _ _ => true
  | .reclaimDeadline => true
  | .reclaimCopiesDone => true
  | .ctxKeyset _ _ _ => true
  | .acctWindowEnd => true
  | .railEnergyInterval energy => energy.length == 11
  | .packageReset _ => true
  | .packageResetRelease => true
  | .brownOut => true
  | .firmwareWatchdog => true
  | .tableSramWipeDone => true
  | .pressWipeDone _ => true
  | .clusterWipeDone _ => true
  | .debugUnlock _ => true
  | .provision _ _ => true
  | .rindWipeDone => true
  | .lcDeploy _ _ _ => true
  | .secAttest _ _ _ => true
  | .mgmtSend _ _ _ => true
  | .mgmtCmd => true
  | .attest => true
  | .certRead => true
  | .mgmtHome => true
  | .jobTeardown => true
  | .timeConfig => true
  | .timeSet => true
  | .lcAdvance => true
  | .mgmtKeyset => true
  | .ledgerRead => true
  | .timeExchange => true
  | .timeReq _ _ => true
  | .timeResp _ => true
  | .timeHoldover => true
  | .timebaseStep env => env.wf
  | .ledgerSave => true
  | .ledgerSaveDone => true
  | .thermalControl env => env.wf
  | .vrRetry _ _ => true
  | .vrAlert words => words.length == 4
  | .thermalTrip _ => true
  | .refclkLost => true
  | .refclkRestored => true
  | .position _ _ => true
  | .status _ => true
  | .powerDown _ => true
  | .temp _ => true
  | .power _ => true
  | .cap _ _ => true
  | .vectorInstructionComplete _ => true
  | .linkCredit _ vc units => if vc.val % 2 = 0 then decide (0 < units) else decide (units < 4)
  | .vfEnableSet _ _ => true
  | .collPreemptDeadline _ => true
  | .acctCtl _ => true

end Sys2Proof
end

