-- ==== Sys2Proof/Machine/RegRead.lean ====
section
/-!
DEFINITION. What a read of BAR0 returns (spec/18_register_map.md): every register of Tables 18.1 to 18.13 by its offset, stored or a view of the state, the MSI-X table, and which
offsets are reserved.
-/
namespace Sys2Proof.Machine

/-- A register value from (lowest bit, value) fields. -/
def regOf (l : List (Nat × Nat)) : Nat := l.foldl (fun a f => a + f.2 * 2 ^ f.1) 0

/-- Whether an offset is one of n registers from `base` on, `step` bytes apart. -/
def inBank (r base step n : Nat) : Bool := base ≤ r && r < base + step * n && (r - base) % step == 0
/-- Its number among them. -/
def bankNo (r base step : Nat) : Nat := (r - base) / step

/-! ### Slot records (Table 7.1) -/

/-- Word w of a slot's record (R198). -/
def State.slotWord (s : State) (n w : Nat) : Nat := (tabGet Slot.free s.seq.slots n).record / 2 ^ (64 * w) % 2 ^ 64

/-! ### The function block (Table 18.1) -/

/-- A register of a function block; none where the offset is reserved. -/
def State.readFn (s : State) (fn r : Nat) : Option Nat :=
  let stored := some (s.regN (fnReg fn r))
  let pf0 := fn == 0
  match r with
  | 0x0000 => some (regOf [(0, fn), (8, 0xA1), (16, if pf0 then 0x0960 else 0x0961)])
  | 0x0008 => some s.sec.arithRev.toNat
  | 0x0010 => some (s.regN (fnReg fn r) + 2 * (s.ctx? fn).isSome.toNat)
  | 0x0018 => stored
  | 0x0020 => stored
  | 0x0028 => stored
  | 0x0030 => stored
  | 0x0100 => stored
  | 0x0108 => stored
  | 0x0500 => some (s.regN (offHeadroom fn))
  | 0x0508 => some (s.regN (offNonfinite fn))
  | 0x0600 => if pf0 then some 0 else none
  | 0x0700 => if pf0 then some s.sec.bootCode else none
  | 0x0708 => if pf0 then stored else none
  | 0x0710 => if pf0 then stored else none
  | 0x0718 => if pf0 then some 0 else none
  | 0x0720 => if pf0 then stored else none
  | 0x0800 => stored
  | _ =>
    if 0x200 ≤ r && r < 0x400 && r % 0x40 ≤ 0x28 then stored
    else if pf0 && inBank r 0x400 8 4 then stored
    else if inBank r 0x840 8 8 then stored
    else none

/-- A register a function answers in recovery mode (R490). -/
def recoveryReg (fn r : Nat) : Bool := r == 0 || (fn == 0 && (inBank r 0x700 8 5))

/-! ### The management window (Tables 18.5 to 18.13) -/

/-- Identification and control (Table 18.5). -/
def State.readPkg (s : State) (o : Nat) : Option Nat :=
  let stored := some (s.regN (0x10000 + o))
  let good := s.goodClusters
  match o with
  | 0x000 => some 0x000000A109601F6D
  | 0x008 => some s.sec.arithRev.toNat
  | 0x010 => some s.sec.fwVersion.toNat
  | 0x018 => some s.sec.fwSvn
  | 0x020 => some good
  | 0x028 => some (128 * good)
  | 0x030 => some (32768 * good)
  | 0x038 => some (8 * good)
  | 0x040 => some (4 * good)
  | 0x048 => some (118 * good)
  | 0x0C0 => some 0
  | 0x0C8 => stored
  | _ => if inBank o 0x80 8 8 then stored else none

/-- 64 bits of a hash as a register holds them: byte 8j + b in bits [8b+7:8b]. -/
def hashWord (h : List Byte) (j : Nat) : Nat := fieldN h (8 * j) 8

/-- Security, life cycle, timebase and ledger (Table 18.6). -/
def State.readSec (s : State) (o : Nat) : Option Nat :=
  let f := s.sec.fuses
  let l := s.life.live
  match o with
  | 0x000 => some s.lcState
  | 0x008 => some (regOf [(0, s.sec.rindWiped.toNat), (1, s.sec.keyrecOk.toNat), (2, s.sec.rind.identity.isSome.toNat)])
  | 0x010 => some s.sec.flash.bootCount
  | 0x018 => some (f.lcBits.toNat + 16 * f.lcDecom.toNat)
  | 0x020 => some f.minSvn
  | 0x100 => some s.now
  | 0x108 => some s.time.inc.toNat
  | 0x110 => some s.tbFlags
  | 0x118 => some (s.time.master + s.time.role * 2 ^ 16)
  | 0x120 => some 0
  | 0x200 => some l.powerOnS
  | 0x208 => some l.powerCycles
  | 0x210 => some l.firstDeploy
  | 0x218 => some l.saveSeq
  | 0x220 => some s.life.lastSave
  | 0x228 => some (s.life.saved.toNat + 2 * s.life.snapshot.isSome.toNat)
  | _ =>
    if inBank o 0x40 8 4 then some (hashWord f.vendorHash (bankNo o 0x40 8))
    else if inBank o 0x60 8 4 then some (hashWord f.ownerHash (bankNo o 0x60 8))
    else if inBank o 0x80 8 4 then some (hashWord f.debugHash (bankNo o 0x80 8))
    else if inBank o 0x300 8 12 then some (l.stackBytes.getD (bankNo o 0x300 8) 0)
    else if inBank o 0x400 8 20 then some (l.optTxS.getD (bankNo o 0x400 8) 0)
    else if inBank o 0x500 8 28 then some (l.tempHist.getD (bankNo o 0x500 8) 0)
    else none

/-- Power and thermal (Table 18.7). -/
def State.readPower (s : State) (o : Nat) : Option Nat :=
  if inBank o 0 8 4 || inBank o 0x40 8 4 || inBank o 0x80 8 5 || inBank o 0x100 8 12 || inBank o 0x200 8 20 || inBank o 0x300 8 11 then
    some (s.regN (0x30000 + o))
  else none

/-- The code of a context state (Table 18.8). -/
def CtxPhase.code (p : CtxPhase) : Nat :=
  match p with
  | .active => 0 | .stopping => 1 | .suspended => 2 | .resuming => 3 | .reclaiming => 4 | .ending => 5

/-- A context block (Table 18.8). -/
def State.readCtx (s : State) (c o : Nat) : Option Nat :=
  let stored := some (s.regN (ctxReg c o))
  if o = 0 then
    some (match s.ctx? c with
      | some x => regOf [(0, 1), (1, x.phase.code), (4, x.lent.toNat), (8, x.count)]
      | none => 0)
  else if inBank o 0x180 8 24 then
    let i := bankNo o 0x180 8
    some (s.vatHeld c (i / 6) (i % 6))
  else if inBank o 0x008 8 13 || inBank o 0x080 8 25 || inBank o 0x240 8 24 || inBank o 0x400 8 25 || inBank o 0x500 8 10 || inBank o 0x580 8 8 then stored
  else none

/-- Vat pools (Table 18.9). -/
def State.readVat (s : State) (k o : Nat) : Option Nat :=
  if 6 ≤ k then none
  else if o = 0x30 then some (s.vatF k)
  else if inBank o 0 8 13 then some (s.regN (vatReg k o))
  else none

/-- Presses and ledger (Table 18.10). -/
def State.readPress (s : State) (o : Nat) : Option Nat :=
  if inBank o 0x380 8 12 then some (s.freeListOf (bankNo o 0x380 8)).size
  else if inBank o 0x400 8 12 then
    let k := bankNo o 0x400 8
    let l := s.remapsOf k
    some (regOf [(0, l.length), (16, (s.press.degraded.contains k).toNat), (17, (l.any (fun r => r.repl.isNone)).toNat)])
  else if o = 0 || inBank o 0x100 8 12 || inBank o 0x200 8 12 || inBank o 0x280 8 12 || inBank o 0x300 8 12 || inBank o 0x480 8 12 then
    some (s.regN (0x90000 + o))
  else none

/-- FAB_PORT_STATUS (Table 18.11). -/
def PortState.status (x : PortState) : Nat :=
  regOf [(0, x.phase.code), (3, (x.lanes == 4).toNat), (4, x.upper.toNat), (16, x.peer.getD 0), (31, x.peer.isSome.toNat)]

/-- Fabric (Table 18.11). -/
def State.readFab (s : State) (o : Nat) : Option Nat :=
  let stored := some (s.regN (0xA0000 + o))
  if o = 0 then
    some (match s.fab.pos with
      | some (ch, r, c) => regOf [(0, ch), (9, r), (12, c), (15, 1)]
      | none => 0)
  else if o = 8 then some 0
  else if inBank o 0x10 8 10 || inBank o 0x100 8 20 then stored
  else if inBank o 0x200 8 20 then some (s.port (bankNo o 0x200 8)).status
  else if 0x400 ≤ o && o < 0x900 && o % 8 == 0 && o % 0x40 < 0x30 then
    if o % 0x40 = 0x28 then some (s.port (bankNo o 0x400 0x40)).lanes else stored
  else if 0x1000 ≤ o && o < 0x1000 + 0x40 * 160 && o % 8 == 0 && o % 0x40 < 0x38 then
    let i := bankNo o 0x1000 0x40
    if o % 0x40 = 0x20 then some (s.waitBytes (i / 8) (i % 8)) else stored
  else if inBank o 0x4000 8 512 then some (s.gwEntry (bankNo o 0x4000 8)).toNat
  else none

/-- EPOCH_STATE: the epoch of an entry, or the Pending one for which a drain has reserved it, with its own number, owner and count (Tables 13.5, 18.12) (log 119). -/
def State.epochState (s : State) (i : Nat) : Nat :=
  let e := s.epochEntry i
  match (e.draining.bind s.load?).filter (fun l => l.phase == .waiting) with
  | some l => regOf [(0, l.target), (8, 1), (11, l.ctx), (32, 1 + s.epochUsers l.target)]
  | none => if e.st = 0 then 0 else regOf [(0, e.epoch), (8, e.st), (11, e.owner), (32, s.epochCount i)]

/-- Dealer, collectives, weights, memory operations and accounting (Table 18.12). -/
def State.readEngines (s : State) (o : Nat) : Option Nat :=
  let stored := some (s.regN (0xB0000 + o))
  if o = 0x200 then some s.memop.slots.length
  else if inBank o 0 8 3 || inBank o 0x20 8 5 || inBank o 0x140 8 4 || inBank o 0x208 8 6 || o = 0x240 then stored
  else if inBank o 0x100 8 4 then some (s.epochState (bankNo o 0x100 8))
  else none

/-- A telemetry block (Table 18.13). -/
def State.readTel (s : State) (n o : Nat) : Option Nat :=
  if o = 0x10 then some 0
  else if inBank o 0 8 2 || inBank o 0x100 8 24 || inBank o 0x400 8 320 || inBank o 0xE00 8 320 || inBank o 0x1800 8 640 || inBank o 0x2C00 8 640 then
    some (s.regN (telReg n o))
  else none

/-- A register of PF0's management window (Table 18.4); none where the offset is reserved. -/
def State.readMgmt (s : State) (r : Nat) : Option Nat :=
  if r < 0x20000 then s.readPkg (r - 0x10000)
  else if r < 0x30000 then s.readSec (r - 0x20000)
  else if r < 0x40000 then s.readPower (r - 0x30000)
  else if r < 0x80000 then s.readCtx ((r - 0x40000) / 0x1000) (r % 0x1000)
  else if r < 0x90000 then s.readVat ((r - 0x80000) / 0x100) (r % 0x100)
  else if r < 0xA0000 then s.readPress (r - 0x90000)
  else if r < 0xB0000 then s.readFab (r - 0xA0000)
  else if r < 0xC0000 then s.readEngines (r - 0xB0000)
  else if 0x100000 ≤ r ∧ r < 0x200000 then some (s.slotWord ((r - 0x100000) / 64) (r % 64 / 8))
  else if 0x400000 ≤ r ∧ r < 0x400000 + 0x4000 * 200 then s.readTel ((r - 0x400000) / 0x4000) (r % 0x4000)
  else none

/-! ### BAR0 (Table 14.5) -/

/-- A quadword of the MSI-X table. -/
def State.readMsix (s : State) (fn r : Nat) : Nat :=
  let e := tabGet MsixEntry.reset s.host.msix (64 * fn + (r - 0xA000) / 16)
  if r % 16 = 0 then e.addr.toNat else e.data.toNat + e.masked.toNat * 2 ^ 32

/-- The pending bits of a function. -/
def State.readPba (s : State) (fn : Nat) : Nat := (List.range 64).foldl (fun a v => if s.host.pba.contains (64 * fn + v) then a + 2 ^ v else a) 0

/-- A doorbell (Table 14.7). -/
def isDoorbell (fn r : Nat) : Bool := inBank r 0x8000 8 16 || (fn == 0 && r == 0x8080)

/-- The 8-byte value at an 8-byte-aligned offset of BAR0; none where it is reserved. -/
def State.readBar (s : State) (fn r : Nat) : Option Nat :=
  if r < 0x8000 then s.readFn fn r
  else if isDoorbell fn r then some 0
  else if 0xA000 ≤ r ∧ r < 0xA400 then some (s.readMsix fn r)
  else if r = 0xB000 then some (s.readPba fn)
  else if fn = 0 ∧ 0x10000 ≤ r ∧ r < 2 ^ 25 then s.readMgmt r
  else none

/-- What a read of 4 or 8 bytes of BAR0 returns (R383, R486, R490): 0 for a wrong shape, a reserved offset, or, in recovery mode, a register that does not act (log 11). -/
def State.barRead (s : State) (fn off size : Nat) : Nat :=
  if !(size == 4 || size == 8) || off % size != 0 then 0
  else
    let r := off / 8 * 8
    if s.recoveryOnly && r < 0x8000 && !recoveryReg fn r then 0
    else if s.recoveryOnly && 0x10000 ≤ r then 0
    else
      let v := (s.readBar fn r).getD 0
      if size = 8 then v else if off % 8 = 0 then v % 2 ^ 32 else v / 2 ^ 32

/-! ### PCI configuration space (R376, R378 to R380, R382; what a read of it returns, log 11) -/

/-- What a header field of a function reads (R378). A VF's Vendor ID and Device ID read 0xFFFF. -/
def cfgHeader (fn : Nat) : CfgField → Nat
  | .vendorId => if fn = 0 then 0x1F6D else 0xFFFF
  | .deviceId => if fn = 0 then 0x0960 else 0xFFFF
  | .revisionId => 0xA1
  | .classCode => 0x120000
  | .subsystemVendorId => 0x1F6D
  | .subsystemId => 0x0096
  | .headerType => 0
  | .interruptPin => 0

/-- Where a function's capability lies; none where the function lacks it (R379). -/
def cfgCapAt (fn : Nat) : CfgCap → Option Nat
  | .powerManagement => some 0x040
  | .msix => some 0x050
  | .express => some 0x070
  | .errorReporting => some 0x100
  | .ari => some 0x148
  | .sriov => if fn = 0 then some 0x158 else none
  | .serialNumber => if fn = 0 then some 0x1A0 else none
  | .secondaryExpress => if fn = 0 then some 0x1B0 else none
  | .dataLink => if fn = 0 then some 0x1D0 else none
  | .phys16 => if fn = 0 then some 0x1E0 else none
  | .phys32 => if fn = 0 then some 0x210 else none
  | .phys64 => if fn = 0 then some 0x240 else none

/-- What a capability field reads (R376, R379): a size in bytes, an offset in BAR0, or 1 for a support bit. -/
def State.cfgCap (s : State) : CapField → Nat
  | .noSoftReset => 0
  | .d3hotSupport => 1
  | .msixVectors => 64
  | .msixTable => 0xA000
  | .msixPba => 0xB000
  | .flrCapable => 1
  | .maxPayload => s.host.link.maxPayload
  | .maxRead => s.host.link.maxRead
  | .ecrcEnabled => s.host.link.ecrc.toNat
  | .ecrcError => s.host.link.ecrcError.toNat

/-- Where a function's BAR0 lies (R382): a VF's follows from the VF BAR0 base. -/
def State.barBase (s : State) (fn : Nat) : Nat := if fn = 0 then s.host.link.pfBar else s.host.link.vfBar + (fn - 1) * vfBarBytes

/-- Bytes of a function's BAR0. -/
def barBytes (fn : Nat) : Nat := if fn = 0 then pfBarBytes else vfBarBytes

/-- The function and offset of BAR0 that a bus address names. -/
def State.barDecode (s : State) (a : Nat) : Option (Nat × Nat) :=
  (List.range 64).findSome? (fun fn => if s.fnExists fn ∧ s.barBase fn ≤ a ∧ a < s.barBase fn + barBytes fn then some (fn, a - s.barBase fn) else none)

/-- A base address register's half of a 64-bit, non-prefetchable memory BAR at a base: its type bits say so. -/
def barReg (base : Nat) (j : Fin 6) : Nat := if j = 0 then base % 2 ^ 32 + 4 else if j = 1 then base / 2 ^ 32 % 2 ^ 32 else 0

/-- Base address register j of a function's header (R382): PF0's BAR0 is registers 0 and 1; a VF's header has none, its base being in the SR-IOV capability. -/
def State.cfgBar (s : State) (fn : Nat) (j : Fin 6) : Nat := if fn = 0 then barReg s.host.link.pfBar j else 0

/-- What an SR-IOV field reads (R379, R380). -/
def State.cfgSriov (s : State) : SriovField → Nat
  | .initialVfs => 63
  | .totalVfs => 63
  | .numVfs => s.host.numVfs
  | .vfEnable => s.host.vfEnable.toNat
  | .ariHierarchy => s.host.ari.toNat
  | .firstVfOffset => 1
  | .vfStride => 1
  | .vfDeviceId => 0x0961
  | .supportedPageSizes => 0x1F
  | .vfBar j => barReg s.host.link.vfBar j

/-- The Device Serial Number capability reads the lid serial number (R379). -/
def State.cfgSerial (s : State) : Nat := s.sec.serial.toNat

/-- What a read of a function's configuration space returns; 0 where the function lacks the capability. -/
def State.cfgRead (s : State) (fn : Nat) : CfgReg → Nat
  | .header f => cfgHeader fn f
  | .bar j => s.cfgBar fn j
  | .capAt c => (cfgCapAt fn c).getD 0
  | .cap f => s.cfgCap f
  | .sriov f => if fn = 0 then s.cfgSriov f else 0
  | .serial => if fn = 0 then s.cfgSerial else 0

end Sys2Proof.Machine
end

