-- ==== Sys2Proof/Machine/RegMap.lean ====
section
/-!
DEFINITION. Writes of setup registers (spec/18_register_map.md, R486 to R497, the access codes of R6, and R383, R386, R387): what each register accepts, what is refused and recorded, and the
registers whose write is an operation of its own.
-/
namespace Sys2Proof.Machine

/-- The state an outcome gives; `s` where it gives none. -/
def nextOr (s : State) (o : Host.Outcome State Fault Refusal) : State :=
  match o with
  | .next t => t
  | _ => s

/-- Store a register of function fn if the value keeps its rule; else the write is refused (R488). -/
def State.storeIf (s : State) (fn off : Nat) (ok : Bool) (v : Nat) : State := if ok then s.setRegN (fnReg fn off) v else s.refuse fn off

/-- A ring size (R386): a power of two from 64 to 65,536. -/
def ringSize (v : Nat) : Bool := (List.range 11).any (fun i => v == 64 * 2 ^ i)

/-! ### RING_EN (R386, R387) -/

/-- Reads of descriptors of a ring that are outstanding are forgotten. -/
def State.dropReads (s : State) (fn i : Nat) : State :=
  { s with host := { s.host with reads := s.host.reads.filter (fun e =>
      match e.2.use with | .descriptors r _ _ => !(e.2.fn == fn && r == i) | _ => true) } }

/-- A submission ring is enabled: its counts are 0, and its write-back word is written 0. -/
def State.openSq (s : State) (fn i : Nat) : State :=
  let r := s.ring fn i
  let s := (s.dropReads fn i).setRing fn i { r with head := 0, tail := 0, readTo := 0, fetched := [], shares := [] }
  s.hostWrite fn (s.regN (fnReg fn offWbBase) + 8 * i) (zeroBytes 8)

/-- A submission ring is disabled: descriptors not yet accepted are dropped, a DEAL.DIRSET that waits at its head among them. -/
def State.closeSq (s : State) (fn i : Nat) : State :=
  let r := s.ring fn i
  let s := (s.dropReads fn i).setRing fn i { r with fetched := [], shares := [] }
  { s with deal := { s.deal with dirsets := s.deal.dirsets.filter (fun x => !(x.1.fn == fn && x.1.ring == i)) } }

/-- A completion ring is enabled. -/
def State.openCq (s : State) (fn i : Nat) : State :=
  let s := s.setRing fn i { s.ring fn i with cqTail := 0, cqHead := 0, modCount := 0, modFirst := none }
  s.hostWrite fn (s.regN (fnReg fn offWbBase) + 0x40 + 8 * i) (zeroBytes 8)

/-- A completion ring is disabled: records that wait for it are dropped, and those behind them move up (log 21). -/
def State.closeCq (s : State) (fn i : Nat) : State :=
  let s := s.setBacklog fn ((s.backlogOf fn).filter (fun e => e.1 != i))
  s.drainBacklog fn (s.backlogOf fn)

/-- The event ring is enabled. -/
def State.openEvq (s : State) : State :=
  let s := { s with host := { s.host with evq := .reset } }
  s.hostWrite 0 (s.regN (fnReg 0 offWbBase) + 0x80) (zeroBytes 8)

/-- Whether a set of enables may replace the one in force, judged as it would stand (log 45): a submission ring needs its completion ring and a write-back block, and a completion ring is
not disabled while a descriptor of its pair has not completed. -/
def State.enablesOk (s : State) (fn new : Nat) : Bool :=
  let old := s.regN (fnReg fn offRingEn)
  (List.range 8).all (fun i =>
    (!bitN new i || (bitN new (8 + i) && (bitN old i || s.regN (fnReg fn offWbBase) != 0))) &&
    (!bitN old (8 + i) || bitN new (8 + i) || (s.ring fn i).open_ == 0))

/-- Write RING_EN of a function. While a DRAM wipe is still to be reported firmware accepts no descriptor ring (R157): a write that enables one then changes nothing (log 117). -/
def State.writeRingEn (s : State) (fn v : Nat) : State :=
  if !s.press.wiping.isEmpty && v % 2 ^ 8 != 0 then s else
  let new := if fn = 0 then v % 2 ^ 17 else v % 2 ^ 16
  let old := s.regN (fnReg fn offRingEn)
  if !s.enablesOk fn new then s.refuse fn offRingEn
  else
    let s := s.setRegN (fnReg fn offRingEn) new
    let s := (List.range 8).foldl (fun s i =>
      let s := if bitN new i && !bitN old i then s.openSq fn i else if bitN old i && !bitN new i then s.closeSq fn i else s
      if bitN new (8 + i) && !bitN old (8 + i) then s.openCq fn i else if bitN old (8 + i) && !bitN new (8 + i) then s.closeCq fn i else s) s
    if bitN new 16 && !bitN old 16 then s.openEvq
    else if bitN old 16 && !bitN new 16 then { s with host := { s.host with evBacklog := [] } }
    else s

/-- RING_EN. -/
def execRingEn (fn : Fn) (value : W64) (s : State) : Host.Outcome State Fault Refusal :=
  .next (if s.barOpen fn && !s.recoveryOnly then s.writeRingEn fn value.toNat else s)

/-! ### SLOT_SEL (R493) -/

/-- Whether a function may read a slot's record: PF0 every one, a VF those of its context's range. -/
def State.maySee (s : State) (fn n : Nat) : Bool := fn == 0 || (s.regN (offSlotBase fn) ≤ n && n < s.regN (offSlotBase fn) + s.regN (offSlotCount fn))

/-- Write SLOT_SEL: the whole record goes into SLOT_DATA in one step. -/
def State.writeSlotSel (s : State) (fn v : Nat) : State :=
  let n := v % 2 ^ 14
  let s := s.setRegN (fnReg fn offSlotSel) n
  (List.range 8).foldl (fun s w => s.setRegN (fnReg fn (offSlotData w)) (if s.maySee fn n then s.slotWord n w else 0)) s

/-- SLOT_SEL. -/
def execSlotSel (fn : Fn) (value : W64) (s : State) : Host.Outcome State Fault Refusal :=
  .next (if s.barOpen fn && !s.recoveryOnly then s.writeSlotSel fn value.toNat else s)

/-! ### VF_RESET (Table 14.9) -/

/-- VF_RESET: bit n starts a reset of VF n. -/
def execVfReset (value : W64) (s : State) : Host.Outcome State Fault Refusal :=
  .next (if s.pf0Open then s.startResets (s.liveVfs.filter (bitN value.toNat)) else s)

/-! ### Clears (R489) -/

/-- The bank-conflict counters of a cluster, by BAR0 offset (Table 18.13). -/
def isConflictCtr (n off : Nat) : Bool :=
  let o := off - telReg n 0
  telReg n 0 ≤ off && (inBank o 0x400 8 320 || inBank o 0xE00 8 320 || inBank o 0x1800 8 640 || inBank o 0x2C00 8 640)

/-- The counters of Table 10.12 that are kept as counts, by BAR0 offset. -/
def isFabCtr (off : Nat) : Bool :=
  let o := off - 0xA0000
  0xA0000 ≤ off && (inBank o 0x10 8 10 || (0x400 ≤ o && o < 0x900 && o % 8 == 0 && o % 0x40 < 0x28) ||
    (0x1000 ≤ o && o < 0x1000 + 0x40 * 160 && o % 8 == 0 && o % 0x40 < 0x38 && o % 0x40 != 0x20))

/-- Clear counters together; an increment of the same step is applied after the clear (log 96). -/
def State.clearCounters (s : State) (is : Nat → Bool) (same : List Nat) : State :=
  (distinct (same.filter is)).foldl (fun s a => s.setRegN a 1) (s.resetRegs is)

/-- CONFLICT_CLR; `lost` names, by BAR0 offset, the counters that an increment of the same step reaches. -/
def execConflictClr (cluster : Cluster) (value : W64) (lost : List Nat) (s : State) : Host.Outcome State Fault Refusal :=
  .next (if s.pf0Open && bitN value.toNat 0 then s.clearCounters (isConflictCtr cluster) lost else s)

/-- FAB_CNT_CLR. -/
def execFabCntClr (value : W64) (same : List Nat) (s : State) : Host.Outcome State Fault Refusal :=
  .next (if s.pf0Open && bitN value.toNat 0 then s.clearCounters isFabCtr same else s)

/-- The current value of the quantity that a highest or lowest register tracks, by the register's BAR0 offset. -/
def State.tracked (s : State) (off : Nat) : Option Nat :=
  if inBank off (offVatFreeMin 0) 0x100 6 then some (s.vatF (bankNo off (offVatFreeMin 0) 0x100))
  else if 0x40000 ≤ off && off < 0x80000 && inBank (off % 0x1000) 0x240 8 24 then
    let i := bankNo (off % 0x1000) 0x240 8
    some (s.vatHeld ((off - 0x40000) / 0x1000) (i / 6) (i % 6))
  else if inBank off (offFabVc 0 0 5) 0x40 160 then
    let i := bankNo off (offFabVc 0 0 5) 0x40
    some (s.waitBytes (i / 8) (i % 8))
  else if off = offMemCtr 1 then some s.memop.slots.length
  else none

/-- Bits of the field of a highest or lowest register: 21 for the vats' two (Tables 18.8, 18.9), 48 for the others. The rest is RSVD, and what is written there is ignored (R7). -/
def trackedBits (off : Nat) : Nat := if off < 0xA0000 then 21 else 48

/-- Write a highest or lowest register: a 0 in its field takes the current value, any other value does nothing. -/
def State.writeTracked (s : State) (off v : Nat) : State :=
  match s.tracked off with
  | some cur => if v % 2 ^ trackedBits off = 0 then s.setRegN off cur else s
  | none => s

/-- HIGHEST_LOWEST_RESET. -/
def execHighestLowestReset (offset : Nat) (value : W64) (s : State) : Host.Outcome State Fault Refusal :=
  .next (if s.pf0Open then s.writeTracked offset value.toNat else s)

/-! ### FAB_PORT_CTL (R278, R281) -/

/-- Write FAB_PORT_CTL: EN 1 starts training of a port that is disabled, and is refused without a position and in Manufacture; EN 0 disables the port. A package whose chassis number is
above 384 keeps every port disabled (log 94). -/
def State.writePortCtl (s : State) (p v : Nat) : State :=
  let x := s.port p
  if bitN v 0 then
    if s.fab.pos.isNone ∨ s.lcState = 1 then s.refuse 0 (offPortCtl p)
    else
      let s := s.setRegN (offPortCtl p) 1
      if x.phase ≠ .disabled ∨ !s.fab.pos.any (fun q => q.1 ≤ 384) then s
      else if s.canTrain p then s.setPhase p .training else s.trainFail p
  else
    let s := s.setRegN (offPortCtl p) 0
    if x.phase = .up then s.leaveUp p .disabled
    else if x.phase = .disabled then s
    else s.setPhase p .disabled

/-- FAB_PORT_CTL. -/
def execFabPortCtl (p : Port) (value : W64) (s : State) : Host.Outcome State Fault Refusal :=
  .next (if s.pf0Open then s.writePortCtl p value.toNat else s)

/-! ### Function-block registers -/

/-- Write a vector register: [5:0] VECTOR, [8] EN. -/
def vecBits (v : Nat) : Nat := v % 64 + v / 256 % 2 * 256

/-- Write SETUP_ERR: clearing VALID also sets COUNT to 0 (Table 18.3). -/
def State.writeSetupErr (s : State) (fn v : Nat) : State :=
  if bitN v 63 then s.setRegN (fnReg fn offSetupErr) (s.regN (fnReg fn offSetupErr) % 2 ^ 25) else s

/-- Write a register of ring i: base or size while the ring is enabled, and any value that breaks a limit, is refused (R386). -/
def State.writeRingReg (s : State) (fn r v : Nat) : State :=
  let i := (r - 0x200) / 0x40
  match r % 0x40 with
  | 0x00 => s.storeIf fn r (!s.sqEnabled fn i && v % 4096 == 0) v
  | 0x08 => let v := v % 2 ^ 17; s.storeIf fn r (!s.sqEnabled fn i && ringSize v) v
  | 0x10 => s.storeIf fn r (!s.cqEnabled fn i && v % 4096 == 0) v
  | 0x18 => let v := v % 2 ^ 17; s.storeIf fn r (!s.cqEnabled fn i && ringSize v) v
  | 0x20 => s.setRegN (fnReg fn r) (vecBits v)
  | 0x28 => let v := v % 2 ^ 26; s.storeIf fn r (v % 2 ^ 16 != 0) v
  | _ => s

/-- Write a register of a function block. `v` is the value that the register would hold; `w` what was written, with zero in a half not written. -/
def State.writeFn (s : State) (fn r v w : Nat) : State :=
  if r = offFnEventVector then s.setRegN (fnReg fn r) (vecBits v)
  else if r = offSetupErr then s.writeSetupErr fn w
  else if r = offRingEn then s.writeRingEn fn v
  else if r = offWbBase then s.storeIf fn r (v % 64 == 0 && v != 0) v
  else if 0x200 ≤ r ∧ r < 0x400 then s.writeRingReg fn r v
  else if r = offSlotSel then s.writeSlotSel fn v
  else if fn ≠ 0 then s
  else if r = offEvqBase then s.storeIf fn r (!s.evqEnabled && v % 4096 == 0) v
  else if r = offEvqSize then let v := v % 2 ^ 17; s.storeIf fn r (!s.evqEnabled && ringSize v) v
  else if r = offEvqVector then s.setRegN (fnReg fn r) (vecBits v)
  else if r = offVfReset then s.startResets (s.liveVfs.filter (bitN w))
  else if r = offRcvAddr then s.setRegN r v
  else if r = offRcvLen then s.setRegN r (v % 2 ^ 26)
  else if r = offRcvGo then nextOr s (execRcvGo (BitVec.ofNat 64 w) 0 s)
  else s

/-! ### Context blocks (R495) -/

/-- Whether two contexts' ranges meet; an empty range meets nothing. -/
def State.rangeClash (s : State) (c : Nat) (first count : Nat → Nat) : Bool :=
  (List.range 64).any (fun k => k != c && rangesMeet (s.regN (first c)) (s.regN (count c)) (s.regN (first k)) (s.regN (count k)))

/-- Whether a range register may stand as it does in `s`: it stays in its table and meets no other context's. -/
def State.rangeOk (s : State) (c : Nat) (first count : Nat → Nat) (top : Nat) : Bool :=
  s.regN (first c) + s.regN (count c) ≤ top && !s.rangeClash c first count

/-- Store a range register, or refuse it. -/
def State.storeRange (s : State) (c off v : Nat) (first count : Nat → Nat) (top : Nat) (free : Bool) : State :=
  let t := s.setRegN off v
  if free && t.rangeOk c first count top then t else s.refuse 0 off

/-- Whether every slot of a context is Free (R199). -/
def State.slotsFree (s : State) (c : Nat) : Bool := s.seq.slots.all (fun e => e.2.ctx != c || e.2.st == 0)

/-- Cache a context's peer table (R309): the bytes at the address, or none for an address of 0. -/
def State.cachePeers (s : State) (c a : Nat) : State :=
  let t := match s.flatPieces a 32768 with
    | some l => l.flatMap (fun p => s.readPhys p.2.1 p.2.2)
    | none => []
  { s with memop := { s.memop with peerTab := if a = 0 then tabErase s.memop.peerTab c else tabInsert s.memop.peerTab c t } }

/-- Write MEM_PEER_PTR: 0, or a native flat address aligned to 4 KiB. -/
def State.writePeerPtr (s : State) (c v : Nat) : State :=
  let off := offMemPeerPtr c
  if v = 0 ∨ (v % 4096 = 0 ∧ isNative v ∧ (s.flatPieces v 32768).isSome) then (s.setRegN off v).cachePeers c v else s.refuse 0 off

/-- Whether a trick of a context is in flight on this package. -/
def State.trickLive (s : State) (c : Nat) : Bool := s.deal.tricks.any (fun t => t.ctx == c && t.live)

/-- Write a register of context c's block. -/
def State.writeCtx (s : State) (c o v : Nat) : State :=
  let off := ctxReg c o
  if o = 0x008 then s.storeRange c off (v % 2 ^ 14) offSlotBase offSlotCount 16384 (s.slotsFree c)
  else if o = 0x010 then s.storeRange c off (v % 2 ^ 15) offSlotBase offSlotCount 16384 (s.slotsFree c)
  else if o = 0x018 then let v := v % 2 ^ 25; s.storeIf 0 off (s.slotsFree c && v ≤ 2 ^ 24) v
  else if o = 0x020 then s.storeRange c off (v % 2 ^ 16) offDirFirst offDirCount 65536 true
  else if o = 0x028 then s.storeRange c off (v % 2 ^ 17) offDirFirst offDirCount 65536 true
  else if o = 0x030 then s.storeIf 0 off (v % 64 == 0 && !s.trickLive c) v
  else if o = 0x038 then s.writePeerPtr c v
  else if o = 0x040 then let v := v % 2 ^ 17; s.storeIf 0 off (1 ≤ v && v ≤ 65536) v
  else if o = 0x048 then s.storeIf 0 off (v % 4096 == 0) v
  else if o = 0x050 then s.storeRange c off (v % 2 ^ 12) offAdpBase offAdpCount 4096 true
  else if o = 0x058 then s.storeRange c off (v % 2 ^ 13) offAdpBase offAdpCount 4096 true
  else if inBank o 0x080 8 24 then
    let v := v % 2 ^ 21
    if v ≤ 1048576 then (s.setRegN off v).serveVats else s.refuse 0 off
  else if o = 0x140 then (s.setRegN off (v % 16)).serveVats
  else if inBank o 0x240 8 24 then s.writeTracked off v
  else s

/-! ### Package-wide registers (R170, R496, R497) -/

/-- Clear the W1C bits of a mask that are written 1 (R6). A bit set by a later event is set again, as R8 has it: no event is lost. -/
def State.w1c (s : State) (off mask w : Nat) : State :=
  s.setReg off (s.reg off &&& ~~~(BitVec.ofNat 64 (w &&& mask)))

/-- The field of a pool that a register offset is. -/
def poolField (o : Nat) : Option PoolField :=
  match o with
  | 0x00 => some .bytes
  | 0x08 => some .ovfBase
  | 0x10 => some .ovfCount
  | 0x18 => some .low
  | 0x20 => some .crit
  | _ => none

/-- Write a vat pool register. -/
def State.writeVat (s : State) (k : Fin 6) (o v w : Nat) : State :=
  match poolField o with
  | some f => nextOr s (execVatPoolConfig k f (BitVec.ofNat 64 v) s)
  | none => if o = 0x28 then s.w1c (vatReg k o) 7 w else if o = 0x38 then s.writeTracked (vatReg k o) v else s

/-- Whether the frame registers keep the limits of R170. -/
def State.framesOk (s : State) : Bool :=
  let lf := s.regN offLegacyFrames
  lf ≤ 174762 && (List.range 12).all (fun k => lf + 6144 ≤ s.regN (offLedgerFirst k) && s.regN (offLedgerFirst k) ≤ stackFrames) &&
  ((List.range 12).map (fun k => stackFrames - s.regN (offLedgerFirst k))).foldl (· + ·) 0 ≤ 16777216

/-- Write LEGACY_FRAMES or a LEDGER_FIRST_FRAME: only while no slot holds pages and within the limits; the ledger is then initialised over the new regions, once marked entries have been
retired (R167, R177). -/
def State.writeFrames (s : State) (off v : Nat) : State :=
  let t := s.setRegN off v
  if s.seq.slots.any (fun e => !e.2.chain.isEmpty) || !t.framesOk then s.refuse 0 off
  else if s.press.ready then (s.retireMarkedFree.setRegN off v).initLedger
  else t

/-- Write a register of the Press block. -/
def State.writePress (s : State) (o v w : Nat) : State :=
  let off := 0x90000 + o
  if o = 0 then s.writeFrames off (v % 2 ^ 18)
  else if inBank o 0x100 8 12 then s.writeFrames off (v % 2 ^ 21)
  else if inBank o 0x480 8 12 then s.w1c off (2 ^ 23) w
  else s

/-- Write a register of the fabric block. -/
def State.writeFab (s : State) (o v w : Nat) : State :=
  if o = 8 then (if bitN w 0 then s.clearCounters isFabCtr [] else s)
  else if inBank o 0x100 8 20 then s.writePortCtl (bankNo o 0x100 8) v
  else s.writeTracked (0xA0000 + o) v

/-- The limits of an accounting window (R433). -/
def windowOk (v : Nat) : Bool := 1000000 ≤ v && v ≤ 3600000000000 && v % 1000000 == 0

/-- Write a register of the block of Table 18.12. -/
def State.writeEngines (s : State) (o v : Nat) : State :=
  let off := 0xB0000 + o
  if off = offDealWatchdog ∨ off = offCollWatchdog then let v := v % 2 ^ 16; s.storeIf 0 off (1 ≤ v && v ≤ 60000) v
  else if off = offWhlWatchdog then let v := v % 2 ^ 20; s.storeIf 0 off (1000 ≤ v && v ≤ 600000) v
  else if off = offAcctWindowNs then s.storeIf 0 off (windowOk v) v
  else if off = offAcctCtl then nextOr s (execAcctCtl (BitVec.ofNat 64 v) s)
  else if off = offAcctBase then s.storeIf 0 off (!s.acctOn && v % 4096 == 0) v
  else if off = offAcctSize then let v := v % 2 ^ 17; s.storeIf 0 off (!s.acctOn && ringSize v) v
  else if inBank o 0x140 8 4 then s.setRegN off v
  else s.writeTracked off v

/-- Write a register of the power block. -/
def State.writePower (s : State) (o v w : Nat) : State :=
  let off := 0x30000 + o
  if off = offThermStatus then s.w1c off 0x1C w
  else if off = offThrottleT then let v := v % 2 ^ 7; s.storeIf 0 off (60 ≤ v && v ≤ 105) v
  else if off = offPwrCapW then let v := v % 2 ^ 11; s.storeIf 0 off (capOk v) v
  else s

/-- Write a register of the management window. -/
def State.writeMgmt (s : State) (r v w : Nat) : State :=
  if r = offPkgReset then nextOr s (execPkgReset (BitVec.ofNat 64 w) s)
  else if r = offTbSet then nextOr s (execTbSet (BitVec.ofNat 64 v) s)
  else if 0x30000 ≤ r ∧ r < 0x40000 then s.writePower (r - 0x30000) v w
  else if 0x40000 ≤ r ∧ r < 0x80000 then s.writeCtx ((r - 0x40000) / 0x1000) (r % 0x1000) v
  else if h : 0x80000 ≤ r ∧ r < 0x80600 then s.writeVat ⟨(r - 0x80000) / 0x100, by omega⟩ (r % 0x100) v w
  else if 0x90000 ≤ r ∧ r < 0xA0000 then s.writePress (r - 0x90000) v w
  else if 0xA0000 ≤ r ∧ r < 0xB0000 then s.writeFab (r - 0xA0000) v w
  else if 0xB0000 ≤ r ∧ r < 0xC0000 then s.writeEngines (r - 0xB0000) v
  else if 0x400000 ≤ r ∧ r % 0x4000 = 0x10 ∧ bitN w 0 then s.clearCounters (isConflictCtr ((r - 0x400000) / 0x4000)) []
  else s

/-! ### BAR0 -/

/-- Write a quadword of the MSI-X table; a vector whose mask is cleared sends its pending message (R397). -/
def State.writeMsix (s : State) (fn r v : Nat) : State :=
  let i := 64 * fn + (r - 0xA000) / 16
  let e := tabGet MsixEntry.reset s.host.msix i
  let put (s : State) (e : MsixEntry) : State := { s with host := { s.host with msix := tabSet .reset s.host.msix i e } }
  if r % 16 = 0 then put s { e with addr := BitVec.ofNat 64 v }
  else
    let m := bitN v 32
    let s := put s ⟨e.addr, BitVec.ofNat 32 v, m⟩
    if !m && s.host.pba.contains i then
      ({ s with host := { s.host with pba := setDel s.host.pba i } }).emit fn (.msix fn (i % 64))
    else s

/-- Write a doorbell (R389): bits [63:32] are reserved. -/
def State.writeDoorbell (s : State) (fn : Fn) (r w : Nat) : State :=
  let v : W32 := BitVec.ofNat 32 w
  let i : Nat := (r - 0x8000) / 8
  if r = 0x8080 then nextOr s (execEvqHead v s)
  else if h : i < 8 then nextOr s (execSqTail fn ⟨i, h⟩ v s)
  else if h : i - 8 < 8 then nextOr s (execCqHead fn ⟨i - 8, h⟩ v s)
  else s

/-- Write the 8-byte word at an aligned offset of BAR0, of which 4 or 8 bytes are written (log 93). -/
def State.writeBar (s : State) (fn : Fn) (r v w : Nat) : State :=
  if r < 0x8000 then s.writeFn fn r v w
  else if isDoorbell fn r then s.writeDoorbell fn r w
  else if 0xA000 ≤ r ∧ r < 0xA400 then s.writeMsix fn r v
  else if 0x10000 ≤ r then s.writeMgmt r v w
  else s

/-- The value a register would hold after a write of 4 or 8 bytes at `off`, and what was written with zero in the half not written (R486). -/
def mergeWrite (old off size v : Nat) : Nat × Nat :=
  if size = 8 then (v % 2 ^ 64, v % 2 ^ 64)
  else if off % 8 = 0 then (old / 2 ^ 32 * 2 ^ 32 + v % 2 ^ 32, v % 2 ^ 32)
  else (old % 2 ^ 32 + v % 2 ^ 32 * 2 ^ 32, v % 2 ^ 32 * 2 ^ 32)

/-- Registers that a write reaches in bits [63:32] (Tables 18.1 to 18.12): the bases and pointers, SETUP_ERR, VF_RESET, TB_SET, ACCT_WINDOW_NS, EPOCH_SHARE, the two 48-bit
highest values, and the MSI-X table. -/
def wideReg (r : Nat) : Bool :=
  r == offSetupErr || r == offWbBase || (0x200 ≤ r && r < 0x400 && r % 0x10 == 0 && r % 0x40 < 0x20) || r == offEvqBase || r == offVfReset || r == offRcvAddr ||
  (0xA000 ≤ r && r < 0xA400) || r == offTbSet || (0x40000 ≤ r && r < 0x80000 && (r % 0x1000 == 0x30 || r % 0x1000 == 0x38 || r % 0x1000 == 0x48)) ||
  inBank r (offOvfBase 0) 0x100 6 || inBank r (offFabVc 0 0 5) 0x40 160 || r == offAcctWindowNs || r == offAcctBase || inBank r (offEpochShare 0) 8 4 || r == offMemCtr 1

/-- Whether 4 bytes are written at an upper half that is RSVD throughout, and act as nothing (Table 0.4). -/
def upperHalf (off size : Nat) : Bool := size == 4 && off % 8 == 4 && !wideReg (off - 4)

/-- Write the upper half of an 8-byte word: a refusal records the offset of that write (Table 18.3). -/
def State.writeUpper (s : State) (fn : Fn) (r v w : Nat) : State :=
  let a := fnReg fn offSetupErr
  let t := (s.setRegN a 0).writeBar fn r v w
  let u := t.setRegN a (s.regN a)
  if t.regN a = 0 then u else u.refuse fn (r + 4)

/-- REGISTER_WRITE: a write of BAR0. One of a wrong shape or at a reserved offset is ignored and counted (R383); in recovery mode only the recovery registers and the MSI-X table act
(R407, R490) (log 95). -/
def execRegisterWrite (fn : Fn) (offset size : Nat) (value : W64) (s : State) : Host.Outcome State Fault Refusal :=
  .next (
    let r := offset / 8 * 8
    if !s.barOpen fn then s
    else if s.recoveryOnly && !(recoveryReg fn r || (0xA000 ≤ r && r < 0xA400)) then s
    else if !(size == 4 || size == 8) || offset % size != 0 then s.badAccess fn
    else
      match s.readBar fn r with
      | none => s.badAccess fn
      | some old =>
        if upperHalf offset size then s
        else
          let (v, w) := mergeWrite old offset size value.toNat
          if offset % 8 = 4 ∧ r ≠ offSetupErr then s.writeUpper fn r v w else s.writeBar fn r v w)

/-! ### Reads of BAR0 and writes of configuration space by the host (R376, R383) -/

/-- Whether a read of BAR0 is of a wrong shape or at a reserved offset. In recovery mode a register that does not act reads 0 and is no such read (R490). -/
def State.badRead (s : State) (fn off size : Nat) : Bool :=
  let r := off / 8 * 8
  !(size == 4 || size == 8) || off % size != 0 ||
    (!(s.recoveryOnly && ((r < 0x8000 && !recoveryReg fn r) || 0x10000 ≤ r)) && (s.readBar fn r).isNone)

/-- The host reads BAR0 of a function: it gets its data, and a bad read counts in BAR_BAD_ACCESS (R383) (log 11). -/
def State.hostReads (s : State) (fn off size : Nat) : State :=
  if !s.barOpen fn then s
  else
    let t := if s.badRead fn off size then s.badAccess fn else s
    t.emit fn (.answer fn off size (s.barRead fn off size))

/-- A configuration request to a function is answered: with Request Retry Status while it is being reset (R403), otherwise as `k` does. A function that does not exist answers nothing. -/
def State.onConfig (s : State) (fn : Nat) (k : State → State) : State :=
  if !s.fnExists fn then s
  else if s.host.resetting.contains fn then s.sendTlp (.config fn .retry)
  else k s

/-- The host reads configuration space of a function. -/
def State.cfgReads (s : State) (fn : Nat) (r : CfgReg) : State := s.onConfig fn (fun s => s.sendTlp (.config fn (.data (s.cfgRead fn r))))

/-- The function a write of configuration space names. -/
def cfgTarget (w : CfgWrite) : Nat := match w with | .d3hot fn => fn | _ => 0

/-- The host writes a field of configuration space. NumVFs is written while VF Enable is clear (log 120). -/
def State.cfgWrite (s : State) (w : CfgWrite) : State :=
  s.onConfig (cfgTarget w) (fun s =>
    let h := s.host
    let l := h.link
    let h := match w with
      | .maxPayload n => { h with link := { l with payloadCode := n } }
      | .maxRead n => { h with link := { l with readCode := n } }
      | .ecrc on => { h with link := { l with ecrc := on } }
      | .clearEcrcError => { h with link := { l with ecrcError := false } }
      | .numVfs n => if h.vfEnable then h else { h with numVfs := n }
      | .d3hot fn => { h with link := { l with d3hot := setAdd l.d3hot fn } }
      | .pfBar b => { h with link := { l with pfBar := b / pfBarBytes * pfBarBytes } }
      | .vfBar b => { h with link := { l with vfBar := b / vfBarBytes * vfBarBytes } }
    { s with host := h }.sendTlp (.config (cfgTarget w) .done))

/-- What came from the host with a wrong ECRC is discarded while checking is enabled, and AER notes it (R376); otherwise it is taken for what it says, by its own command (log 134). -/
def State.badEcrc (s : State) : State := if s.host.link.ecrc then { s with host := { s.host with link := { s.host.link with ecrcError := true } } } else s

end Sys2Proof.Machine
end

