-- ==== Sys2Proof/Machine/Tick.lean ====
section
/-!
DEFINITION. A step of the timebase (spec/16_security_lifecycle_time.md, R452): what the environment brings in it, what counts at it, and the work that goes on.
-/
namespace Sys2Proof.Machine

/-! ### What else befalls the block during a step -/

/-- A memory word is damaged: the next read or scrub that meets it corrects it or finds it beyond correction (R144, R164). -/
def State.upset (s : State) (a : Nat) (wide : Bool) : State :=
  let w := if isDram a then a / 32 * 32 else a / 8 * 8
  let d := if wide || tabFind s.damage w == some .wide then SramDamage.wide else .single
  { s with damage := tabInsert s.damage w d }

/-- A core has failed its self-check, or its engines have met an error beyond correction (R28). -/
def State.badCore (s : State) (core : Nat) : State :=
  if core < 25600 && !s.retired (coreCluster core) then s.markFailed (coreCluster core) else s

/-- A router has failed: its die has, and firmware, when it runs, reports the package failed (R29). -/
def State.badRouter (s : State) (n : Nat) : State :=
  let s := { s with net := { s.net with badDies := setAdd s.net.badDies (clusterDie n) } }
  s.reportRouters

/-- FEC codewords of a port corrected, and not (R305). -/
def State.countFec (s : State) (e : Nat × Nat × Nat) : State :=
  if e.1 < 20 then (s.count (offFabPort e.1 2) e.2.1).count (offFabPort e.1 3) e.2.2 else s

/-- What the environment brings in a step, whether or not the timebase counts: the dies run on without their reference clock (R475). Of a package held in reset or tripped, only the levels of the board are seen. -/
def State.stepEvents (s : State) (env : StepEnv) : State :=
  let s := (s.boardLevels env.rails env.sysRst).countHold
  if s.sec.boot = .held ∨ s.power.tripped then s
  else
    let s := env.upsets.foldl (fun s e => s.upset e.1 e.2) s
    let s := env.vatUpsets.foldl (fun s e => s.vatUpset e.1 e.2.1 e.2.2.1 e.2.2.2) s
    let s := env.accesses.foldl State.envAccess s
    let s := (if s.power.diesHalted then [] else env.bankTurns).foldl State.bankTurn s
    let s := env.netIn.foldl State.netEnter s
    let s := env.netTurns.foldl State.netTurn s
    let s := env.cdma.foldl (fun s e => s.cdmaStep e.1 e.2) s
    let s := env.fec.foldl State.countFec s
    let s := if env.badEcrc then s.badEcrc else s
    let s := env.cfgWrites.foldl State.cfgWrite s
    let s := env.cfgReads.foldl (fun s e => s.cfgReads e.1 e.2) s
    let s := env.barReads.foldl (fun s e => s.hostReads e.1 e.2.1 e.2.2) s
    let s := s.endCheck.endFlash
    let s := if env.keyMisuse && s.canSign then s.wipeRind 3 else s
    let s := env.fwFree.foldl State.fwFree s
    let s := env.fwAsk.foldl (fun s e => s.fwAsk e.1 e.2) s
    env.badRouters.foldl State.badRouter (env.badCores.foldl State.badCore s)

/-- TIMEBASE_STEP: the timebase adds TB_INC. A step that reaches a window's end belongs to the next window (R433) (log 46) (log 101). -/
def execTimebaseStep (env : StepEnv) (s : State) : Host.Outcome State Fault Refusal :=
  .next (
    let s := s.stepEvents env
    if !s.ticks then s
    else
      let tb := s.time.tb + s.time.inc.toNat
      let s := s.crossWindow (tb / 2 ^ 24)
      let s := { s with time := { s.time with tb := tb, steps := s.time.steps + 1 } }
      let s := s.countRouters.countBankWaits
      let s := ((s.countVatWaits.countMemory).countStalls).countWaits
      let s := ((s.countEngines env.busyCores env.tableBusy).countServing).countSecond
      s.pumpAllWork.freeInputs)

end Sys2Proof.Machine
end

