-- ==== Sys2Proof/Machine/VectorForward.lean ====
section
/-!
DEFINITION. The vector instructions as the control core meets them: each is checked (R112, R126) and forwarded in program order to the
vector queue (R131). Vector.lean says what the engine does with it.
-/
namespace Sys2Proof.Machine

/-- The base of a VLD or VST is aligned to the element, and a narrow type takes no stride (R117). -/
def vmemLegal (base : W64) (rs2 : R5) (ty : Ty) : Bool :=
  let w := 2048 / vlmax ty.toNat
  if w < 8 then rs2 == 0 else base.toNat % (w / 8) == 0

/-- VADD (Table 4.11, R112). -/
def execVadd (core : Core) (vd vs1 vs2 : R5) (mk : M3) (ty : Ty) (s : State) : Host.Outcome State Fault Refusal :=
  .next (s.fwdVV core (arithType ty) .add vd vs1 vs2 mk ty)

/-- VSUB (Table 4.11, R112). -/
def execVsub (core : Core) (vd vs1 vs2 : R5) (mk : M3) (ty : Ty) (s : State) : Host.Outcome State Fault Refusal :=
  .next (s.fwdVV core (arithType ty) .sub vd vs1 vs2 mk ty)

/-- VMUL (Table 4.11, R112). -/
def execVmul (core : Core) (vd vs1 vs2 : R5) (mk : M3) (ty : Ty) (s : State) : Host.Outcome State Fault Refusal :=
  .next (s.fwdVV core (arithType ty) .mul vd vs1 vs2 mk ty)

/-- VMAC: vd = rn(vd + rn(vs1·vs2)) (R113) (Table 4.11, R112). -/
def execVmac (core : Core) (vd vs1 vs2 : R5) (mk : M3) (ty : Ty) (s : State) : Host.Outcome State Fault Refusal :=
  .next (s.fwdVV core (arithType ty) .mac vd vs1 vs2 mk ty)

/-- VMIN (Table 4.11, R112). -/
def execVmin (core : Core) (vd vs1 vs2 : R5) (mk : M3) (ty : Ty) (s : State) : Host.Outcome State Fault Refusal :=
  .next (s.fwdVV core (arithType ty) .min vd vs1 vs2 mk ty)

/-- VMAX (Table 4.11, R112). -/
def execVmax (core : Core) (vd vs1 vs2 : R5) (mk : M3) (ty : Ty) (s : State) : Host.Outcome State Fault Refusal :=
  .next (s.fwdVV core (arithType ty) .max vd vs1 vs2 mk ty)

/-- VABS; vs2 is RSVD. -/
def execVabs (core : Core) (vd vs1 vs2 : R5) (mk : M3) (ty : Ty) (s : State) : Host.Outcome State Fault Refusal :=
  .next (s.fwdVV core (arithType ty && vs2 == 0) .abs vd vs1 vs2 mk ty)

/-- VNEG; vs2 is RSVD. -/
def execVneg (core : Core) (vd vs1 vs2 : R5) (mk : M3) (ty : Ty) (s : State) : Host.Outcome State Fault Refusal :=
  .next (s.fwdVV core (arithType ty && vs2 == 0) .neg vd vs1 vs2 mk ty)

/-- VRCP: FP32, BF16 and FP16 only (R112, R113); vs2 is RSVD. -/
def execVrcp (core : Core) (vd vs1 vs2 : R5) (mk : M3) (ty : Ty) (s : State) : Host.Outcome State Fault Refusal :=
  .next (s.fwdVV core (floatType ty && vs2 == 0) .rcp vd vs1 vs2 mk ty)

/-- VSQRT: FP32, BF16 and FP16 only (R112, R113); vs2 is RSVD. -/
def execVsqrt (core : Core) (vd vs1 vs2 : R5) (mk : M3) (ty : Ty) (s : State) : Host.Outcome State Fault Refusal :=
  .next (s.fwdVV core (floatType ty && vs2 == 0) .sqrt vd vs1 vs2 mk ty)

/-- VRSQRT: FP32, BF16 and FP16 only (R112, R113); vs2 is RSVD. -/
def execVrsqrt (core : Core) (vd vs1 vs2 : R5) (mk : M3) (ty : Ty) (s : State) : Host.Outcome State Fault Refusal :=
  .next (s.fwdVV core (floatType ty && vs2 == 0) .rsqrt vd vs1 vs2 mk ty)

/-- VEXP: FP32, BF16 and FP16 only (R112, R113); vs2 is RSVD. -/
def execVexp (core : Core) (vd vs1 vs2 : R5) (mk : M3) (ty : Ty) (s : State) : Host.Outcome State Fault Refusal :=
  .next (s.fwdVV core (floatType ty && vs2 == 0) .exp vd vs1 vs2 mk ty)

/-- VMOV: a bit copy, any type. -/
def execVmov (core : Core) (vd vs1 vs2 : R5) (mk : M3) (ty : Ty) (s : State) : Host.Outcome State Fault Refusal :=
  .next (s.fwdVV core (anyType ty) .mov vd vs1 vs2 mk ty)

/-- VMERGE: vd = mask ? vs1 : vs2 below n; unmasked it is illegal. -/
def execVmerge (core : Core) (vd vs1 vs2 : R5) (mk : M3) (ty : Ty) (s : State) : Host.Outcome State Fault Refusal :=
  .next (s.fwdVV core (anyType ty && mk != 0) .merge vd vs1 vs2 mk ty)

/-- VADDS: vd = vs1 op the low type-width bits of rs. -/
def execVadds (core : Core) (vd vs1 rs : R5) (mk : M3) (ty : Ty) (s : State) : Host.Outcome State Fault Refusal :=
  .next (s.fwdVS core (arithType ty) .adds vd vs1 rs mk ty)

/-- VSUBS: vd = vs1 op the low type-width bits of rs. -/
def execVsubs (core : Core) (vd vs1 rs : R5) (mk : M3) (ty : Ty) (s : State) : Host.Outcome State Fault Refusal :=
  .next (s.fwdVS core (arithType ty) .subs vd vs1 rs mk ty)

/-- VMULS: vd = vs1 op the low type-width bits of rs. -/
def execVmuls (core : Core) (vd vs1 rs : R5) (mk : M3) (ty : Ty) (s : State) : Host.Outcome State Fault Refusal :=
  .next (s.fwdVS core (arithType ty) .muls vd vs1 rs mk ty)

/-- VMINS: vd = vs1 op the low type-width bits of rs. -/
def execVmins (core : Core) (vd vs1 rs : R5) (mk : M3) (ty : Ty) (s : State) : Host.Outcome State Fault Refusal :=
  .next (s.fwdVS core (arithType ty) .mins vd vs1 rs mk ty)

/-- VMAXS: vd = vs1 op the low type-width bits of rs. -/
def execVmaxs (core : Core) (vd vs1 rs : R5) (mk : M3) (ty : Ty) (s : State) : Host.Outcome State Fault Refusal :=
  .next (s.fwdVS core (arithType ty) .maxs vd vs1 rs mk ty)

/-- VSPLAT: vd = the low type-width bits of rs; vs1 is RSVD. -/
def execVsplat (core : Core) (vd vs1 rs : R5) (mk : M3) (ty : Ty) (s : State) : Host.Outcome State Fault Refusal :=
  .next (s.fwdVS core (anyType ty && vs1 == 0) .splat vd vs1 rs mk ty)

/-- VEXT: pushes element rs of vs1 as a summary; vd and mk are RSVD (R499). -/
def execVext (core : Core) (vd vs1 rs : R5) (mk : M3) (ty : Ty) (s : State) : Host.Outcome State Fault Refusal :=
  .next (s.fwdVS core (anyType ty && vd == 0 && mk == 0) .ext vd vs1 rs mk ty)

/-- VCMP: a mask of the elements for which the relation holds (R116). -/
def execVcmp (core : Core) (rsvd : P2) (md : M3) (vs1 vs2 : R5) (mk : M3) (ty fn : Ty) (s : State) : Host.Outcome State Fault Refusal :=
  .next (s.forward core (rsvd == 0 && arithType ty && fn.toNat < 6) (fun c =>
    { c.vinstr (.cmp fn.toNat) ty with md := md, vs1 := vs1, vs2 := vs2, mask := mk }))

/-- VRED.SUM (R118 to R120); vs2 is RSVD. -/
def execVredSum (core : Core) (vd vs1 vs2 : R5) (mk : M3) (ty : Ty) (s : State) : Host.Outcome State Fault Refusal :=
  .next (s.fwdVV core (arithType ty && vs2 == 0) (.red 0) vd vs1 vs2 mk ty)

/-- VRED.MAX (R118 to R120); vs2 is RSVD. -/
def execVredMax (core : Core) (vd vs1 vs2 : R5) (mk : M3) (ty : Ty) (s : State) : Host.Outcome State Fault Refusal :=
  .next (s.fwdVV core (arithType ty && vs2 == 0) (.red 1) vd vs1 vs2 mk ty)

/-- VRED.MIN (R118 to R120); vs2 is RSVD. -/
def execVredMin (core : Core) (vd vs1 vs2 : R5) (mk : M3) (ty : Ty) (s : State) : Host.Outcome State Fault Refusal :=
  .next (s.fwdVV core (arithType ty && vs2 == 0) (.red 2) vd vs1 vs2 mk ty)

/-- VRED.PROD (R118 to R120); vs2 is RSVD. -/
def execVredProd (core : Core) (vd vs1 vs2 : R5) (mk : M3) (ty : Ty) (s : State) : Host.Outcome State Fault Refusal :=
  .next (s.fwdVV core (arithType ty && vs2 == 0) (.red 3) vd vs1 vs2 mk ty)

/-- VRED.MEAN (R118 to R120); vs2 is RSVD. -/
def execVredMean (core : Core) (vd vs1 vs2 : R5) (mk : M3) (ty : Ty) (s : State) : Host.Outcome State Fault Refusal :=
  .next (s.fwdVV core (arithType ty && vs2 == 0) (.red 4) vd vs1 vs2 mk ty)

/-- VRED.ARGMAX (R118 to R120); vs2 is RSVD. -/
def execVredArgmax (core : Core) (vd vs1 vs2 : R5) (mk : M3) (ty : Ty) (s : State) : Host.Outcome State Fault Refusal :=
  .next (s.fwdVV core (arithType ty && vs2 == 0) (.red 5) vd vs1 vs2 mk ty)

/-- VRED.ARGMIN (R118 to R120); vs2 is RSVD. -/
def execVredArgmin (core : Core) (vd vs1 vs2 : R5) (mk : M3) (ty : Ty) (s : State) : Host.Outcome State Fault Refusal :=
  .next (s.fwdVV core (arithType ty && vs2 == 0) (.red 6) vd vs1 vs2 mk ty)

/-- VRED.SOFTMAX (R121); vs2 is RSVD. -/
def execVredSoftmax (core : Core) (vd vs1 vs2 : R5) (mk : M3) (ty : Ty) (s : State) : Host.Outcome State Fault Refusal :=
  .next (s.fwdVV core (floatType ty && vs2 == 0) (.red 7) vd vs1 vs2 mk ty)

/-- VCVT: PART out of range is an illegal instruction (R115). -/
def execVcvt (core : Core) (vd vs1 : R5) (src part dst : Ty) (sr ieee : Bool) (rsvd : P2) (s : State) : Host.Outcome State Fault Refusal :=
  .next (s.forward core
    (rsvd == 0 && anyType src && anyType dst && part.toNat < (cvtShape src.toNat dst.toNat part.toNat).1)
    (fun c => { c.vinstr (.cvt part.toNat dst.toNat sr ieee) src with vd := vd, vs1 := vs1 }))

/-- MAND (Table 4.11). -/
def execMand (core : Core) (md ma mb : M3) (rsvd : BitVec 13) (s : State) : Host.Outcome State Fault Refusal :=
  .next (s.fwdMask core .mand md ma mb rsvd)

/-- MOR (Table 4.11). -/
def execMor (core : Core) (md ma mb : M3) (rsvd : BitVec 13) (s : State) : Host.Outcome State Fault Refusal :=
  .next (s.fwdMask core .mor md ma mb rsvd)

/-- MXOR (Table 4.11). -/
def execMxor (core : Core) (md ma mb : M3) (rsvd : BitVec 13) (s : State) : Host.Outcome State Fault Refusal :=
  .next (s.fwdMask core .mxor md ma mb rsvd)

/-- MANDN (Table 4.11). -/
def execMandn (core : Core) (md ma mb : M3) (rsvd : BitVec 13) (s : State) : Host.Outcome State Fault Refusal :=
  .next (s.fwdMask core .mandn md ma mb rsvd)

/-- MNOT (Table 4.11). -/
def execMnot (core : Core) (md ma mb : M3) (rsvd : BitVec 13) (s : State) : Host.Outcome State Fault Refusal :=
  .next (s.fwdMask core .mnot md ma mb rsvd)

/-- MSET (Table 4.11). -/
def execMset (core : Core) (md ma mb : M3) (rsvd : BitVec 13) (s : State) : Host.Outcome State Fault Refusal :=
  .next (s.fwdMask core .mset md ma mb rsvd)

/-- MCLR (Table 4.11). -/
def execMclr (core : Core) (md ma mb : M3) (rsvd : BitVec 13) (s : State) : Host.Outcome State Fault Refusal :=
  .next (s.fwdMask core .mclr md ma mb rsvd)

/-- MPOP (Table 4.11). -/
def execMpop (core : Core) (md ma mb : M3) (rsvd : BitVec 13) (s : State) : Host.Outcome State Fault Refusal :=
  .next (s.fwdMask core .mpop md ma mb rsvd)

/-- MFIRST (Table 4.11). -/
def execMfirst (core : Core) (md ma mb : M3) (rsvd : BitVec 13) (s : State) : Host.Outcome State Fault Refusal :=
  .next (s.fwdMask core .mfirst md ma mb rsvd)

/-- VLD: a stride register other than s0 gives a strided access, illegal for types narrower than 8 bits; the base is aligned to the
element (R117). -/
def execVld (core : Core) (vd rs1 rs2 : R5) (mk : M3) (ty : Ty) (s : State) : Host.Outcome State Fault Refusal :=
  .next (s.forward core
    (anyType ty && vmemLegal ((s.core core).sreg rs1) rs2 ty)
    (fun c => { c.vinstr .ld ty with vd := vd, mask := mk, base := c.sreg rs1, scalar := c.sreg rs2, packed := rs2 == 0 }))

/-- VST: a stride register other than s0 gives a strided access, illegal for types narrower than 8 bits; the base is aligned to the
element (R117). -/
def execVst (core : Core) (vd rs1 rs2 : R5) (mk : M3) (ty : Ty) (s : State) : Host.Outcome State Fault Refusal :=
  .next (s.forward core
    (anyType ty && vmemLegal ((s.core core).sreg rs1) rs2 ty)
    (fun c => { c.vinstr .st ty with vd := vd, mask := mk, base := c.sreg rs1, scalar := c.sreg rs2, packed := rs2 == 0 }))

/-- VLDM: bits 0 to VL - 1 of a mask register (R117). The rs2, mk and type fields of its word, which R117 gives no meaning here, are not looked at (log 129). -/
def execVldm (core : Core) (rsvd : P2) (md : M3) (rs1 _rs2 : R5) (_mk : M3) (ty : Ty) (s : State) : Host.Outcome State Fault Refusal :=
  .next (s.forward core (rsvd == 0)
    (fun c => { c.vinstr .ldm ty with md := md, base := c.sreg rs1 }))

/-- VSTM: bits 0 to VL - 1 of a mask register (R117). The rs2, mk and type fields are not looked at (log 129). -/
def execVstm (core : Core) (rsvd : P2) (md : M3) (rs1 _rs2 : R5) (_mk : M3) (ty : Ty) (s : State) : Host.Outcome State Fault Refusal :=
  .next (s.forward core (rsvd == 0)
    (fun c => { c.vinstr .stm ty with md := md, base := c.sreg rs1 }))

end Sys2Proof.Machine
end

