-- ==== Sys2Proof/Machine/Dispatch.lean ====
section
/-!
DEFINITION. One arm per command, each a direct call of its meaning.
-/
namespace Sys2Proof.Machine

/-- The effect of a command on everything but the queue. -/
def exec (i : Instr) (s : State) : Host.Outcome State Fault Refusal :=
  match i with
  | .registerWrite fn offset size value => Sys2Proof.Machine.execRegisterWrite fn offset size value s
  | .highestLowestReset offset value => Sys2Proof.Machine.execHighestLowestReset offset value s
  | .conflictClr cluster value lost => Sys2Proof.Machine.execConflictClr cluster value lost s
  | .fabCntClr value same => Sys2Proof.Machine.execFabCntClr value same s
  | .slotSel fn value => Sys2Proof.Machine.execSlotSel fn value s
  | .vfReset value => Sys2Proof.Machine.execVfReset value s
  | .ringEn fn value => Sys2Proof.Machine.execRingEn fn value s
  | .rcvGo value part => Sys2Proof.Machine.execRcvGo value part s
  | .pkgReset value => Sys2Proof.Machine.execPkgReset value s
  | .tbSet value => Sys2Proof.Machine.execTbSet value s
  | .vatPoolConfig k field value => Sys2Proof.Machine.execVatPoolConfig k field value s
  | .vatQuotaWrite c e k value => Sys2Proof.Machine.execVatQuotaWrite c e k value s
  | .fabPortCtl p value => Sys2Proof.Machine.execFabPortCtl p value s
  | .mxDrained cluster drained => Sys2Proof.Machine.execMxDrained cluster drained s
  | .mxDrainedTakeEffect core => Sys2Proof.Machine.execMxDrainedTakeEffect core s
  | .msixVectorUnmask fn vector => Sys2Proof.Machine.execMsixVectorUnmask fn vector s
  | .add core rd rs1 rs2 => Sys2Proof.Machine.execAdd core rd rs1 rs2 s
  | .sub core rd rs1 rs2 => Sys2Proof.Machine.execSub core rd rs1 rs2 s
  | .and core rd rs1 rs2 => Sys2Proof.Machine.execAnd core rd rs1 rs2 s
  | .or core rd rs1 rs2 => Sys2Proof.Machine.execOr core rd rs1 rs2 s
  | .xor core rd rs1 rs2 => Sys2Proof.Machine.execXor core rd rs1 rs2 s
  | .sll core rd rs1 rs2 => Sys2Proof.Machine.execSll core rd rs1 rs2 s
  | .srl core rd rs1 rs2 => Sys2Proof.Machine.execSrl core rd rs1 rs2 s
  | .sra core rd rs1 rs2 => Sys2Proof.Machine.execSra core rd rs1 rs2 s
  | .mul core rd rs1 rs2 => Sys2Proof.Machine.execMul core rd rs1 rs2 s
  | .mulhu core rd rs1 rs2 => Sys2Proof.Machine.execMulhu core rd rs1 rs2 s
  | .min core rd rs1 rs2 => Sys2Proof.Machine.execMin core rd rs1 rs2 s
  | .max core rd rs1 rs2 => Sys2Proof.Machine.execMax core rd rs1 rs2 s
  | .minu core rd rs1 rs2 => Sys2Proof.Machine.execMinu core rd rs1 rs2 s
  | .maxu core rd rs1 rs2 => Sys2Proof.Machine.execMaxu core rd rs1 rs2 s
  | .divu core rd rs1 rs2 => Sys2Proof.Machine.execDivu core rd rs1 rs2 s
  | .remu core rd rs1 rs2 => Sys2Proof.Machine.execRemu core rd rs1 rs2 s
  | .addi core rd rs1 imm => Sys2Proof.Machine.execAddi core rd rs1 imm s
  | .andi core rd rs1 imm => Sys2Proof.Machine.execAndi core rd rs1 imm s
  | .ori core rd rs1 imm => Sys2Proof.Machine.execOri core rd rs1 imm s
  | .xori core rd rs1 imm => Sys2Proof.Machine.execXori core rd rs1 imm s
  | .slli core rd rs1 rsvd sh => Sys2Proof.Machine.execSlli core rd rs1 rsvd sh s
  | .srli core rd rs1 rsvd sh => Sys2Proof.Machine.execSrli core rd rs1 rsvd sh s
  | .srai core rd rs1 rsvd sh => Sys2Proof.Machine.execSrai core rd rs1 rsvd sh s
  | .movi core rd rsvd imm => Sys2Proof.Machine.execMovi core rd rsvd imm s
  | .shori core rd rsvd imm => Sys2Proof.Machine.execShori core rd rsvd imm s
  | .cmp core pd cc rs1 rs2 rsvd => Sys2Proof.Machine.execCmp core pd cc rs1 rs2 rsvd s
  | .cmpi core pd cc rs1 imm => Sys2Proof.Machine.execCmpi core pd cc rs1 imm s
  | .pand core pd pa pb rsvd => Sys2Proof.Machine.execPand core pd pa pb rsvd s
  | .por core pd pa pb rsvd => Sys2Proof.Machine.execPor core pd pa pb rsvd s
  | .pxor core pd pa pb rsvd => Sys2Proof.Machine.execPxor core pd pa pb rsvd s
  | .pnot core pd pa rsvd => Sys2Proof.Machine.execPnot core pd pa rsvd s
  | .pset core pd rsvd => Sys2Proof.Machine.execPset core pd rsvd s
  | .pclr core pd rsvd => Sys2Proof.Machine.execPclr core pd rsvd s
  | .tstb core pd rs1 bit rsvd => Sys2Proof.Machine.execTstb core pd rs1 bit rsvd s
  | .br core p t off => Sys2Proof.Machine.execBr core p t off s
  | .j core off => Sys2Proof.Machine.execJ core off s
  | .jal core off => Sys2Proof.Machine.execJal core off s
  | .jalr core rd rs1 rsvd => Sys2Proof.Machine.execJalr core rd rs1 rsvd s
  | .dbnz core rs off => Sys2Proof.Machine.execDbnz core rs off s
  | .ldB core rd rs1 imm => Sys2Proof.Machine.execLdB core rd rs1 imm s
  | .ldBu core rd rs1 imm => Sys2Proof.Machine.execLdBu core rd rs1 imm s
  | .ldH core rd rs1 imm => Sys2Proof.Machine.execLdH core rd rs1 imm s
  | .ldHu core rd rs1 imm => Sys2Proof.Machine.execLdHu core rd rs1 imm s
  | .ldW core rd rs1 imm => Sys2Proof.Machine.execLdW core rd rs1 imm s
  | .ldWu core rd rs1 imm => Sys2Proof.Machine.execLdWu core rd rs1 imm s
  | .ldD core rd rs1 imm => Sys2Proof.Machine.execLdD core rd rs1 imm s
  | .stB core rd rs1 imm => Sys2Proof.Machine.execStB core rd rs1 imm s
  | .stH core rd rs1 imm => Sys2Proof.Machine.execStH core rd rs1 imm s
  | .stW core rd rs1 imm => Sys2Proof.Machine.execStW core rd rs1 imm s
  | .stD core rd rs1 imm => Sys2Proof.Machine.execStD core rd rs1 imm s
  | .amoAdd core rd rs1 rs2 => Sys2Proof.Machine.execAmoAdd core rd rs1 rs2 s
  | .amoMin core rd rs1 rs2 => Sys2Proof.Machine.execAmoMin core rd rs1 rs2 s
  | .amoMax core rd rs1 rs2 => Sys2Proof.Machine.execAmoMax core rd rs1 rs2 s
  | .amoAnd core rd rs1 rs2 => Sys2Proof.Machine.execAmoAnd core rd rs1 rs2 s
  | .amoOr core rd rs1 rs2 => Sys2Proof.Machine.execAmoOr core rd rs1 rs2 s
  | .amoXchg core rd rs1 rs2 => Sys2Proof.Machine.execAmoXchg core rd rs1 rs2 s
  | .amoCas core rd rs1 rs2 => Sys2Proof.Machine.execAmoCas core rd rs1 rs2 s
  | .waitMx core rsvd n => Sys2Proof.Machine.execWaitMx core rsvd n s
  | .waitVx core rsvd n => Sys2Proof.Machine.execWaitVx core rsvd n s
  | .waitDma core rsvd n => Sys2Proof.Machine.execWaitDma core rsvd n s
  | .fenceL core rsvd => Sys2Proof.Machine.execFenceL core rsvd s
  | .fenceG core rsvd => Sys2Proof.Machine.execFenceG core rsvd s
  | .waitSatisfied core => Sys2Proof.Machine.execWaitSatisfied core s
  | .waitw core pd rs1 rs2 rsvd => Sys2Proof.Machine.execWaitw core pd rs1 rs2 rsvd s
  | .waitwWake core => Sys2Proof.Machine.execWaitwWake core s
  | .waitwTimeout core => Sys2Proof.Machine.execWaitwTimeout core s
  | .issueMxi core rs1 rsvd => Sys2Proof.Machine.execIssueMxi core rs1 rsvd s
  | .issueVxc core rs1 rsvd => Sys2Proof.Machine.execIssueVxc core rs1 rsvd s
  | .issueDmai core rs1 rsvd => Sys2Proof.Machine.execIssueDmai core rs1 rsvd s
  | .queueRoomFreed core => Sys2Proof.Machine.execQueueRoomFreed core s
  | .sumrPop core rd rsvd => Sys2Proof.Machine.execSumrPop core rd rsvd s
  | .sumrLastMx core rd rsvd => Sys2Proof.Machine.execSumrLastMx core rd rsvd s
  | .sumrOrMx core rd rsvd => Sys2Proof.Machine.execSumrOrMx core rd rsvd s
  | .sumrDma core rd rsvd => Sys2Proof.Machine.execSumrDma core rd rsvd s
  | .trap core rsvd imm => Sys2Proof.Machine.execTrap core rsvd imm s
  | .yield core rsvd => Sys2Proof.Machine.execYield core rsvd s
  | .rdtb core rd rsvd lag => Sys2Proof.Machine.execRdtb core rd rsvd lag s
  | .csrr core rd rsvd imm => Sys2Proof.Machine.execCsrr core rd rsvd imm s
  | .csrw core rs rsvd imm => Sys2Proof.Machine.execCsrw core rs rsvd imm s
  | .setvl core rd rs1 rsvd ty => Sys2Proof.Machine.execSetvl core rd rs1 rsvd ty s
  | .vadd core vd vs1 vs2 mk ty => Sys2Proof.Machine.execVadd core vd vs1 vs2 mk ty s
  | .vsub core vd vs1 vs2 mk ty => Sys2Proof.Machine.execVsub core vd vs1 vs2 mk ty s
  | .vmul core vd vs1 vs2 mk ty => Sys2Proof.Machine.execVmul core vd vs1 vs2 mk ty s
  | .vmac core vd vs1 vs2 mk ty => Sys2Proof.Machine.execVmac core vd vs1 vs2 mk ty s
  | .vmin core vd vs1 vs2 mk ty => Sys2Proof.Machine.execVmin core vd vs1 vs2 mk ty s
  | .vmax core vd vs1 vs2 mk ty => Sys2Proof.Machine.execVmax core vd vs1 vs2 mk ty s
  | .vabs core vd vs1 vs2 mk ty => Sys2Proof.Machine.execVabs core vd vs1 vs2 mk ty s
  | .vneg core vd vs1 vs2 mk ty => Sys2Proof.Machine.execVneg core vd vs1 vs2 mk ty s
  | .vrcp core vd vs1 vs2 mk ty => Sys2Proof.Machine.execVrcp core vd vs1 vs2 mk ty s
  | .vsqrt core vd vs1 vs2 mk ty => Sys2Proof.Machine.execVsqrt core vd vs1 vs2 mk ty s
  | .vrsqrt core vd vs1 vs2 mk ty => Sys2Proof.Machine.execVrsqrt core vd vs1 vs2 mk ty s
  | .vexp core vd vs1 vs2 mk ty => Sys2Proof.Machine.execVexp core vd vs1 vs2 mk ty s
  | .vmov core vd vs1 vs2 mk ty => Sys2Proof.Machine.execVmov core vd vs1 vs2 mk ty s
  | .vmerge core vd vs1 vs2 mk ty => Sys2Proof.Machine.execVmerge core vd vs1 vs2 mk ty s
  | .vadds core vd vs1 rs mk ty => Sys2Proof.Machine.execVadds core vd vs1 rs mk ty s
  | .vsubs core vd vs1 rs mk ty => Sys2Proof.Machine.execVsubs core vd vs1 rs mk ty s
  | .vmuls core vd vs1 rs mk ty => Sys2Proof.Machine.execVmuls core vd vs1 rs mk ty s
  | .vmins core vd vs1 rs mk ty => Sys2Proof.Machine.execVmins core vd vs1 rs mk ty s
  | .vmaxs core vd vs1 rs mk ty => Sys2Proof.Machine.execVmaxs core vd vs1 rs mk ty s
  | .vsplat core vd vs1 rs mk ty => Sys2Proof.Machine.execVsplat core vd vs1 rs mk ty s
  | .vext core vd vs1 rs mk ty => Sys2Proof.Machine.execVext core vd vs1 rs mk ty s
  | .vcmp core rsvd md vs1 vs2 mk ty fn => Sys2Proof.Machine.execVcmp core rsvd md vs1 vs2 mk ty fn s
  | .vredSum core vd vs1 vs2 mk ty => Sys2Proof.Machine.execVredSum core vd vs1 vs2 mk ty s
  | .vredMax core vd vs1 vs2 mk ty => Sys2Proof.Machine.execVredMax core vd vs1 vs2 mk ty s
  | .vredMin core vd vs1 vs2 mk ty => Sys2Proof.Machine.execVredMin core vd vs1 vs2 mk ty s
  | .vredProd core vd vs1 vs2 mk ty => Sys2Proof.Machine.execVredProd core vd vs1 vs2 mk ty s
  | .vredMean core vd vs1 vs2 mk ty => Sys2Proof.Machine.execVredMean core vd vs1 vs2 mk ty s
  | .vredArgmax core vd vs1 vs2 mk ty => Sys2Proof.Machine.execVredArgmax core vd vs1 vs2 mk ty s
  | .vredArgmin core vd vs1 vs2 mk ty => Sys2Proof.Machine.execVredArgmin core vd vs1 vs2 mk ty s
  | .vredSoftmax core vd vs1 vs2 mk ty => Sys2Proof.Machine.execVredSoftmax core vd vs1 vs2 mk ty s
  | .vcvt core vd vs1 src part dst sr ieee rsvd => Sys2Proof.Machine.execVcvt core vd vs1 src part dst sr ieee rsvd s
  | .mand core md ma mb rsvd => Sys2Proof.Machine.execMand core md ma mb rsvd s
  | .mor core md ma mb rsvd => Sys2Proof.Machine.execMor core md ma mb rsvd s
  | .mxor core md ma mb rsvd => Sys2Proof.Machine.execMxor core md ma mb rsvd s
  | .mandn core md ma mb rsvd => Sys2Proof.Machine.execMandn core md ma mb rsvd s
  | .mnot core md ma mb rsvd => Sys2Proof.Machine.execMnot core md ma mb rsvd s
  | .mset core md ma mb rsvd => Sys2Proof.Machine.execMset core md ma mb rsvd s
  | .mclr core md ma mb rsvd => Sys2Proof.Machine.execMclr core md ma mb rsvd s
  | .mpop core md ma mb rsvd => Sys2Proof.Machine.execMpop core md ma mb rsvd s
  | .mfirst core md ma mb rsvd => Sys2Proof.Machine.execMfirst core md ma mb rsvd s
  | .vld core vd rs1 rs2 mk ty => Sys2Proof.Machine.execVld core vd rs1 rs2 mk ty s
  | .vst core vd rs1 rs2 mk ty => Sys2Proof.Machine.execVst core vd rs1 rs2 mk ty s
  | .vldm core rsvd md rs1 rs2 mk ty => Sys2Proof.Machine.execVldm core rsvd md rs1 rs2 mk ty s
  | .vstm core rsvd md rs1 rs2 mk ty => Sys2Proof.Machine.execVstm core rsvd md rs1 rs2 mk ty s
  | .vxQuant core => Sys2Proof.Machine.execVxQuant core s
  | .vxAcomb core => Sys2Proof.Machine.execVxAcomb core s
  | .vxTopf core => Sys2Proof.Machine.execVxTopf core s
  | .mxPass core => Sys2Proof.Machine.execMxPass core s
  | .mxGroup core => Sys2Proof.Machine.execMxGroup core s
  | .mxGroupMerge core => Sys2Proof.Machine.execMxGroupMerge core s
  | .mxRead core => Sys2Proof.Machine.execMxRead core s
  | .mxClear core => Sys2Proof.Machine.execMxClear core s
  | .mxLoadacc core => Sys2Proof.Machine.execMxLoadacc core s
  | .mxAddacc core => Sys2Proof.Machine.execMxAddacc core s
  | .mxCommandComplete core => Sys2Proof.Machine.execMxCommandComplete core s
  | .dmaCopy core => Sys2Proof.Machine.execDmaCopy core s
  | .dmaFill core => Sys2Proof.Machine.execDmaFill core s
  | .atomicAdd core => Sys2Proof.Machine.execAtomicAdd core s
  | .atomicMin core => Sys2Proof.Machine.execAtomicMin core s
  | .atomicMax core => Sys2Proof.Machine.execAtomicMax core s
  | .atomicAnd core => Sys2Proof.Machine.execAtomicAnd core s
  | .atomicOr core => Sys2Proof.Machine.execAtomicOr core s
  | .atomicXchg core => Sys2Proof.Machine.execAtomicXchg core s
  | .atomicCas core => Sys2Proof.Machine.execAtomicCas core s
  | .dmaRequestComplete core n => Sys2Proof.Machine.execDmaRequestComplete core n s
  | .hskMeterWindow cluster handshakes => Sys2Proof.Machine.execHskMeterWindow cluster handshakes s
  | .coreAckTimeout core => Sys2Proof.Machine.execCoreAckTimeout core s
  | .clusterRetired cluster => Sys2Proof.Machine.execClusterRetired cluster s
  | .patrolScrub st word err => Sys2Proof.Machine.execPatrolScrub st word err s
  | .flatRemapComplete st => Sys2Proof.Machine.execFlatRemapComplete st s
  | .seqStateAccess core n => Sys2Proof.Machine.execSeqStateAccess core n s
  | .attention st => Sys2Proof.Machine.execAttention st s
  | .attentionDone st => Sys2Proof.Machine.execAttentionDone st s
  | .tilePack st => Sys2Proof.Machine.execTilePack st s
  | .tileUnpack st => Sys2Proof.Machine.execTileUnpack st s
  | .seqAdmit fn ring => Sys2Proof.Machine.execSeqAdmit fn ring s
  | .seqRetire fn ring => Sys2Proof.Machine.execSeqRetire fn ring s
  | .seqModify fn ring => Sys2Proof.Machine.execSeqModify fn ring s
  | .seqStep fn ring => Sys2Proof.Machine.execSeqStep fn ring s
  | .stepBoundary c => Sys2Proof.Machine.execStepBoundary c s
  | .boundaryComplete => Sys2Proof.Machine.execBoundaryComplete s
  | .dealTrick c => Sys2Proof.Machine.execDealTrick c s
  | .dealReturn c => Sys2Proof.Machine.execDealReturn c s
  | .dealDirset fn ring => Sys2Proof.Machine.execDealDirset fn ring s
  | .dirsetApply fn ring => Sys2Proof.Machine.execDirsetApply fn ring s
  | .trickRow => Sys2Proof.Machine.execTrickRow s
  | .trickBundle => Sys2Proof.Machine.execTrickBundle s
  | .trickNotice => Sys2Proof.Machine.execTrickNotice s
  | .trickStalled c trickId => Sys2Proof.Machine.execTrickStalled c trickId s
  | .packetForward p pkt trailer => Sys2Proof.Machine.execPacketForward p pkt trailer s
  | .ack => Sys2Proof.Machine.execAck s
  | .ackSend peer cls => Sys2Proof.Machine.execAckSend peer cls s
  | .retransmit peer cls seq => Sys2Proof.Machine.execRetransmit peer cls seq s
  | .deadTarget peer => Sys2Proof.Machine.execDeadTarget peer s
  | .linkState => Sys2Proof.Machine.execLinkState s
  | .linkStateSend chassisWide => Sys2Proof.Machine.execLinkStateSend chassisWide s
  | .neighbourSilent peer => Sys2Proof.Machine.execNeighbourSilent peer s
  | .trainingComplete p result => Sys2Proof.Machine.execTrainingComplete p result s
  | .portDown p cause => Sys2Proof.Machine.execPortDown p cause s
  | .retrainTimer p => Sys2Proof.Machine.execRetrainTimer p s
  | .fabRetrain => Sys2Proof.Machine.execFabRetrain s
  | .fabGwset => Sys2Proof.Machine.execFabGwset s
  | .fabRevive => Sys2Proof.Machine.execFabRevive s
  | .rdReq => Sys2Proof.Machine.execRdReq s
  | .wrReq => Sys2Proof.Machine.execWrReq s
  | .fillReq => Sys2Proof.Machine.execFillReq s
  | .atReq => Sys2Proof.Machine.execAtReq s
  | .batchPerform => Sys2Proof.Machine.execBatchPerform s
  | .rdReply => Sys2Proof.Machine.execRdReply s
  | .atReply => Sys2Proof.Machine.execAtReply s
  | .wrStatus => Sys2Proof.Machine.execWrStatus s
  | .replyTimeout slot => Sys2Proof.Machine.execReplyTimeout slot s
  | .collLaunch fn ring => Sys2Proof.Machine.execCollLaunch fn ring s
  | .collAbort fn ring => Sys2Proof.Machine.execCollAbort fn ring s
  | .collStart c collId => Sys2Proof.Machine.execCollStart c collId s
  | .collData => Sys2Proof.Machine.execCollData s
  | .collZero => Sys2Proof.Machine.execCollZero s
  | .collCredit => Sys2Proof.Machine.execCollCredit s
  | .collNack => Sys2Proof.Machine.execCollNack s
  | .collCtrlPause => Sys2Proof.Machine.execCollCtrlPause s
  | .collCtrlResume => Sys2Proof.Machine.execCollCtrlResume s
  | .collCtrlAbort => Sys2Proof.Machine.execCollCtrlAbort s
  | .collCtrlRelease => Sys2Proof.Machine.execCollCtrlRelease s
  | .collWatchdog c collId => Sys2Proof.Machine.execCollWatchdog c collId s
  | .whlLoad fn ring => Sys2Proof.Machine.execWhlLoad fn ring s
  | .epochDeclare fn ring => Sys2Proof.Machine.execEpochDeclare fn ring s
  | .weightRelease fn ring => Sys2Proof.Machine.execWeightRelease fn ring s
  | .whlPull => Sys2Proof.Machine.execWhlPull s
  | .whlData => Sys2Proof.Machine.execWhlData s
  | .whlMcast => Sys2Proof.Machine.execWhlMcast s
  | .whlEnd => Sys2Proof.Machine.execWhlEnd s
  | .whlNack => Sys2Proof.Machine.execWhlNack s
  | .pullTimeout load pull => Sys2Proof.Machine.execPullTimeout load pull s
  | .pullRoundWait load wheel => Sys2Proof.Machine.execPullRoundWait load wheel s
  | .mcastIdle load => Sys2Proof.Machine.execMcastIdle load s
  | .whlWatchdog load => Sys2Proof.Machine.execWhlWatchdog load s
  | .hostReadCompletion readId data => Sys2Proof.Machine.execHostReadCompletion readId data s
  | .sqTail fn ring value => Sys2Proof.Machine.execSqTail fn ring value s
  | .cqHead fn ring value => Sys2Proof.Machine.execCqHead fn ring value s
  | .evqHead value => Sys2Proof.Machine.execEvqHead value s
  | .cqModTimer fn ring => Sys2Proof.Machine.execCqModTimer fn ring s
  | .nop fn ring => Sys2Proof.Machine.execNop fn ring s
  | .hostCopy fn ring => Sys2Proof.Machine.execHostCopy fn ring s
  | .ringBarrier fn ring => Sys2Proof.Machine.execRingBarrier fn ring s
  | .fwFlash fn ring image readBackOk => Sys2Proof.Machine.execFwFlash fn ring image readBackOk s
  | .functionLevelReset fn => Sys2Proof.Machine.execFunctionLevelReset fn s
  | .vfEnableClear => Sys2Proof.Machine.execVfEnableClear s
  | .linkReset => Sys2Proof.Machine.execLinkReset s
  | .functionResetDone fn => Sys2Proof.Machine.execFunctionResetDone fn s
  | .ctxCreate fn ring => Sys2Proof.Machine.execCtxCreate fn ring s
  | .ctxMap fn ring => Sys2Proof.Machine.execCtxMap fn ring s
  | .ctxPreempt fn ring => Sys2Proof.Machine.execCtxPreempt fn ring s
  | .coresStopped c => Sys2Proof.Machine.execCoresStopped c s
  | .preemptComplete c => Sys2Proof.Machine.execPreemptComplete c s
  | .ctxResume fn ring => Sys2Proof.Machine.execCtxResume fn ring s
  | .resumeComplete c verified => Sys2Proof.Machine.execResumeComplete c verified s
  | .ctxDestroy fn ring => Sys2Proof.Machine.execCtxDestroy fn ring s
  | .teardownDrainEnd c => Sys2Proof.Machine.execTeardownDrainEnd c s
  | .ctxReclaim fn ring keepList => Sys2Proof.Machine.execCtxReclaim fn ring keepList s
  | .reclaimDeadline => Sys2Proof.Machine.execReclaimDeadline s
  | .reclaimCopiesDone => Sys2Proof.Machine.execReclaimCopiesDone s
  | .ctxKeyset fn ring key => Sys2Proof.Machine.execCtxKeyset fn ring key s
  | .acctWindowEnd => Sys2Proof.Machine.execAcctWindowEnd s
  | .railEnergyInterval energy => Sys2Proof.Machine.execRailEnergyInterval energy s
  | .packageReset lowNs => Sys2Proof.Machine.execPackageReset lowNs s
  | .packageResetRelease => Sys2Proof.Machine.execPackageResetRelease s
  | .brownOut => Sys2Proof.Machine.execBrownOut s
  | .firmwareWatchdog => Sys2Proof.Machine.execFirmwareWatchdog s
  | .tableSramWipeDone => Sys2Proof.Machine.execTableSramWipeDone s
  | .pressWipeDone st => Sys2Proof.Machine.execPressWipeDone st s
  | .clusterWipeDone c => Sys2Proof.Machine.execClusterWipeDone c s
  | .debugUnlock credential => Sys2Proof.Machine.execDebugUnlock credential s
  | .provision credential certificate => Sys2Proof.Machine.execProvision credential certificate s
  | .rindWipeDone => Sys2Proof.Machine.execRindWipeDone s
  | .lcDeploy fn ring key => Sys2Proof.Machine.execLcDeploy fn ring key s
  | .secAttest fn ring challenge => Sys2Proof.Machine.execSecAttest fn ring challenge s
  | .mgmtSend fn ring packet => Sys2Proof.Machine.execMgmtSend fn ring packet s
  | .mgmtCmd => Sys2Proof.Machine.execMgmtCmd s
  | .attest => Sys2Proof.Machine.execAttest s
  | .certRead => Sys2Proof.Machine.execCertRead s
  | .mgmtHome => Sys2Proof.Machine.execMgmtHome s
  | .jobTeardown => Sys2Proof.Machine.execJobTeardown s
  | .timeConfig => Sys2Proof.Machine.execTimeConfig s
  | .timeSet => Sys2Proof.Machine.execTimeSet s
  | .lcAdvance => Sys2Proof.Machine.execLcAdvance s
  | .mgmtKeyset => Sys2Proof.Machine.execMgmtKeyset s
  | .ledgerRead => Sys2Proof.Machine.execLedgerRead s
  | .timeExchange => Sys2Proof.Machine.execTimeExchange s
  | .timeReq t2 t3 => Sys2Proof.Machine.execTimeReq t2 t3 s
  | .timeResp t4 => Sys2Proof.Machine.execTimeResp t4 s
  | .timeHoldover => Sys2Proof.Machine.execTimeHoldover s
  | .timebaseStep env => Sys2Proof.Machine.execTimebaseStep env s
  | .ledgerSave => Sys2Proof.Machine.execLedgerSave s
  | .ledgerSaveDone => Sys2Proof.Machine.execLedgerSaveDone s
  | .thermalControl env => Sys2Proof.Machine.execThermalControl env s
  | .vrRetry die ack => Sys2Proof.Machine.execVrRetry die ack s
  | .vrAlert status => Sys2Proof.Machine.execVrAlert status s
  | .thermalTrip sensor => Sys2Proof.Machine.execThermalTrip sensor s
  | .refclkLost => Sys2Proof.Machine.execRefclkLost s
  | .refclkRestored => Sys2Proof.Machine.execRefclkRestored s
  | .position pecOk data => Sys2Proof.Machine.execPosition pecOk data s
  | .status pecOk => Sys2Proof.Machine.execStatus pecOk s
  | .powerDown pecOk => Sys2Proof.Machine.execPowerDown pecOk s
  | .temp pecOk => Sys2Proof.Machine.execTemp pecOk s
  | .power pecOk => Sys2Proof.Machine.execPower pecOk s
  | .cap pecOk watts => Sys2Proof.Machine.execCap pecOk watts s
  | .vectorInstructionComplete core => Sys2Proof.Machine.execVectorInstructionComplete core s
  | .linkCredit p vc units => Sys2Proof.Machine.execLinkCredit p vc units s
  | .vfEnableSet numVfs ari => Sys2Proof.Machine.execVfEnableSet numVfs ari s
  | .collPreemptDeadline c => Sys2Proof.Machine.execCollPreemptDeadline c s
  | .acctCtl value => Sys2Proof.Machine.execAcctCtl value s

end Sys2Proof.Machine
end

