-- ==== Sys2Proof/Safety.lean ====
section
/-!
DEFINITION. What counts as a safe run, and the words the statements are made of: when a range of memory reads without an error, when a core runs the
instruction at its program counter, and what holds of memory in every state.
-/
namespace Sys2Proof

/-- A timebase step in which nothing befalls the block. -/
def StepEnv.quiet : StepEnv where
  accesses := []
  bankTurns := []
  netIn := []
  netTurns := []
  cdma := []
  upsets := []
  vatUpsets := []
  fwAsk := []
  fwFree := []
  barReads := []
  cfgWrites := []
  cfgReads := []
  badEcrc := false
  rails := none
  sysRst := none
  badCores := []
  badRouters := []
  keyMisuse := false
  fec := []
  busyCores := []
  tableBusy := []

end Sys2Proof

namespace Sys2Proof.Machine

/-- An outcome that goes on. -/
def goesOn : Host.Outcome State Fault Refusal → Prop
  | .next _ => True
  | .fault _ => False
  | .refused _ => False

/-- From `s`, `k` steps go on. -/
def runsSafely : Nat → State → Prop
  | 0, _ => True
  | k + 1, s =>
    match step s with
    | .next t => runsSafely k t
    | .fault _ => False
    | .refused _ => False

/-- `n` bytes at a physical address read without an error: no damaged SRAM word and no poisoned row meets them (R144). -/
def State.clean (s : State) (a n : Nat) : Bool :=
  s.damage.all (fun e => isDram e.1 || !rangesMeet e.1 8 a n) && s.rowPoison.all (fun w => !rangesMeet (64 * w) 64 a n)

/-- Whether the word at a core's program counter can be fetched: aligned, inside a local window, and without an error (R125, R144). -/
def State.fetches (s : State) (core : Nat) : Bool :=
  (s.core core).pc.toNat % 4 == 0 && (match localPhys core (s.core core).pc.toNat 4 with | some a => s.clean a 4 | none => false)

/-- A core executes the instruction at its program counter. -/
def State.executes (s : State) (core : Nat) : Bool := s.canRun core && s.fetches core

/-- A core after an instruction that changes its own state alone and steps on. -/
def State.stepsOn (s : State) (core : Nat) (f : CoreState → CoreState) : State := s.modCore core (fun c => (f c).advance)

/-- The command answers a next state of which P holds. -/
def leadsTo (s : State) (i : Instr) (P : State → Prop) : Prop := ∃ t, exec i s = .next t ∧ P t

/-- The command answers a next state of which P holds, of a package whose dies no thermal trip has halted (R480). -/
def runsTo (s : State) (i : Instr) (P : State → Prop) : Prop := s.power.tripped = false → leadsTo s i P

/-- No word of SRAM or DRAM holds an error. -/
def State.sound (s : State) : Bool := s.damage.isEmpty && s.dramPoison.isEmpty && s.rowPoison.isEmpty

/-- The bytes of some pieces, in order. -/
def State.pieceBytes (s : State) (l : List Piece) : List Byte := l.flatMap (fun p => s.readPhys p.2.1 p.2.2)

/-- Whether an engine of context c may read n bytes at a package address, the clusters they name are held, and none is of a wheel that is still being fetched. -/
def State.readable (s : State) (c a n : Nat) : Bool := n == 0 || (match s.packageAccess c a n false with | .pieces l => !s.meetsUnheld l | _ => false)


/-- The bytes an engine of context c reads there, while memory holds no error. -/
def State.view (s : State) (c a n : Nat) : List Byte :=
  if n = 0 then [] else (match s.packageAccess c a n false with | .pieces l => s.pieceBytes l | _ => [])

/-- Every byte of memory outside some ranges, each a first address and a length, is the same in t as in s. -/
def State.sameOutside (s t : State) (l : List (Nat × Nat)) : Prop := ∀ a, (∀ r ∈ l, ¬(r.1 ≤ a ∧ a < r.1 + r.2)) → t.byteAt a = s.byteAt a

/-- A record posted on a completion ring is written at once: the ring is enabled and has room, and nothing waits before it (R398). -/
def State.canRecord (s : State) (fn i : Nat) : Bool := !s.fnStopped fn && s.cqEnabled fn i && (s.backlogOf fn).isEmpty && s.cqRoom fn i

/-- A record of t stands in the slot of host memory that the ring's tail named in s (R396). -/
def State.recorded (s t : State) (fn i : Nat) (rec_ : List Byte) : Prop :=
  PcieOut.write fn (s.regN (fnReg fn (offCqBase i)) + 32 * ((s.ring fn i).cqTail.toNat % s.cqSize fn i)) rec_ ∈ t.host.pcieOut

/-- A table's keys rise. -/
def keysRise {α : Type} (t : Tab α) : Bool := decide (t.Pairwise (fun a b => a.1 < b.1))

/-- The table of peers and the streams of each are in key order. -/
def State.streamsRise (s : State) : Bool := keysRise s.fab.peers && s.fab.peers.all (fun e => keysRise e.2.tx && keysRise e.2.rx)

/-- A packet put on its stream enters the send window at once (R293). -/
def State.streamRoom (s : State) (g cls : Nat) : Prop :=
  s.streamsRise = true ∧ s.isSelf g = false ∧ (s.peer g).dead = false ∧ ((s.peer g).txOf cls).waiting = [] ∧ ((s.peer g).txOf cls).unacked.length < 256 ∧ s.storeUsed + 2084 ≤ 2 ^ 29

/-- No request waits for a vat, and every vat that is held lies in the Table SRAM: giving one back writes nothing to DRAM (R262). -/
def State.vatsQuiet (s : State) : Bool := s.vats.waiting.isEmpty && s.vats.held.all (fun h => !h.vat.ovf)

/-- The packets of t's stream are those of s and one more, with the stream's next SEQ. -/
def State.sentOne (s t : State) (g cls : Nat) (p : Packet) : Prop :=
  ((t.peer g).txOf cls).unacked.map (·.pkt) = ((s.peer g).txOf cls).unacked.map (·.pkt) ++ [{ p with seq := ((s.peer g).txOf cls).nextSeq }]

/-- A context whose teardown has begun, with the class, reason and DETAIL its record will carry (R418, Table 15.6). -/
def State.ends (t : State) (c cls reason detail : Nat) : Prop :=
  ∃ x e, t.ctx? c = some x ∧ x.phase = .ending ∧ x.ending = some e ∧ e.cls = cls ∧ e.reason = reason ∧ e.detail = BitVec.ofNat 64 detail

/-- A counter after n more, which stops at 2^48 - 1 (R484). -/
def State.countedBy (s t : State) (a n : Nat) : Prop := t.reg a = BitVec.ofNat 64 (min ((s.reg a).toNat + n) (2 ^ 48 - 1))

/-- The canonical form of the tables that statements compare: strictly rising keys and no entry that reads as an unlisted one does, in memory, the cores, the sequence slots, the admission epochs, the ports, the fabric's streams and what each
suspended context keeps; and the fixed numbers of pools, epochs and page lists. -/
def State.canonical (s : State) : Bool :=
  memWf s.mem && tabWf CoreState.reset s.cores && tabWf Slot.free s.seq.slots && tabWf 0 s.whl.admission && tabWf PortState.reset s.fab.ports && s.streamsRise &&
  s.ten.ctxs.all (fun e => match e.2.saved with | none => true | some v => memWf v.mem && tabWf CoreState.reset v.cores) &&
  s.vats.pools.length == 6 && s.whl.epochs.length == 4 && s.press.free.length == 12

end Sys2Proof.Machine
end

