-- ==== Sys2Proof/Certificates/Slice0/Obligations.lean ====
section
/-!
DEFINITION. The statements for the provers. Each docstring says what the statement formalises and the rules of spec/ it rests on.
-/
open Sys2Proof Sys2Proof.Machine

/-! ### The block and its queue -/

/-- A step takes the command at the front of the queue and runs it with the queue's rest. On an empty queue the block idles: a step changes nothing (the model's own choice, log 46). -/
def Obligations.StepRunsTheFrontCommand : Prop :=
  (∀ (c : Instr) (rest : List Instr) (s : State),
     step { s with pending := c :: rest } = exec c { s with pending := rest }) ∧
  (∀ s : State, s.pending = [] → step s = .next s)

/-! ### Scalar instructions (R124 to R130) -/

/-- The register operations of Table 4.6 and the immediates of Table 4.5: what rd becomes, with s0 as R124 has it, and nothing else but the
program counter (R127, R128). Compares and predicate operations (Tables 4.6 and 4.7): what pd becomes. -/
def Obligations.ScalarOperationsWriteTheirRegister : Prop :=
  (∀ (s : State) (core : Core) (rd rs1 rs2 : R5) (imm : Imm) (sh : BitVec 6), s.executes core = true →
     let a := (s.core core).sreg rs1
     let b := (s.core core).sreg rs2
     let w : W64 → Host.Outcome State Fault Refusal := fun v => .next (s.stepsOn core (fun c => c.setSreg rd v))
     exec (.add core rd rs1 rs2) s = w (a + b) ∧ exec (.sub core rd rs1 rs2) s = w (a - b) ∧
     exec (.and core rd rs1 rs2) s = w (a &&& b) ∧ exec (.or core rd rs1 rs2) s = w (a ||| b) ∧
     exec (.xor core rd rs1 rs2) s = w (a ^^^ b) ∧
     exec (.sll core rd rs1 rs2) s = w (a <<< (b.truncate 6).toNat) ∧
     exec (.srl core rd rs1 rs2) s = w (a >>> (b.truncate 6).toNat) ∧
     exec (.sra core rd rs1 rs2) s = w (BitVec.ofInt 64 (a.toInt / 2 ^ (b.truncate 6).toNat)) ∧
     exec (.mul core rd rs1 rs2) s = w (BitVec.ofInt 64 (a.toInt * b.toInt)) ∧
     exec (.mulhu core rd rs1 rs2) s = w (((a.zeroExtend 128 * b.zeroExtend 128) >>> 64).truncate 64) ∧
     exec (.min core rd rs1 rs2) s = w (if a.toInt < b.toInt then a else b) ∧
     exec (.max core rd rs1 rs2) s = w (if a.toInt < b.toInt then b else a) ∧
     exec (.minu core rd rs1 rs2) s = w (if a < b then a else b) ∧ exec (.maxu core rd rs1 rs2) s = w (if a < b then b else a) ∧
     exec (.divu core rd rs1 rs2) s = w (if b = 0 then BitVec.allOnes 64 else a / b) ∧
     exec (.remu core rd rs1 rs2) s = w (if b = 0 then a else a % b) ∧
     exec (.addi core rd rs1 imm) s = w (BitVec.ofInt 64 (a.toInt + imm.toInt)) ∧
     exec (.andi core rd rs1 imm) s = w (a &&& imm.zeroExtend 64) ∧ exec (.ori core rd rs1 imm) s = w (a ||| imm.zeroExtend 64) ∧
     exec (.xori core rd rs1 imm) s = w (a ^^^ imm.zeroExtend 64) ∧
     exec (.slli core rd rs1 0 sh) s = w (a <<< sh.toNat) ∧ exec (.srli core rd rs1 0 sh) s = w (a >>> sh.toNat) ∧
     exec (.srai core rd rs1 0 sh) s = w (BitVec.ofInt 64 (a.toInt / 2 ^ sh.toNat)) ∧
     exec (.movi core rd 0 imm) s = w (BitVec.ofInt 64 imm.toInt) ∧
     exec (.shori core rd 0 imm) s = w (((s.core core).sreg rd <<< 16) ||| imm.zeroExtend 64)) ∧
  (∀ (s : State) (core : Core) (pd pa pb : P2) (rs1 rs2 : R5) (imm : Imm) (bit : BitVec 6), s.executes core = true →
     let a := (s.core core).sreg rs1
     let b := (s.core core).sreg rs2
     let i : W64 := BitVec.ofInt 64 imm.toInt
     let x := (s.core core).pred pa
     let y := (s.core core).pred pb
     let w : Bool → Host.Outcome State Fault Refusal := fun v => .next (s.stepsOn core (fun c => c.setPred pd v))
     exec (.cmp core pd 0 rs1 rs2 0) s = w (decide (a = b)) ∧ exec (.cmp core pd 1 rs1 rs2 0) s = w (decide (a ≠ b)) ∧
     exec (.cmp core pd 2 rs1 rs2 0) s = w (decide (a.toInt < b.toInt)) ∧ exec (.cmp core pd 3 rs1 rs2 0) s = w (decide (b.toInt ≤ a.toInt)) ∧
     exec (.cmp core pd 4 rs1 rs2 0) s = w (decide (a < b)) ∧ exec (.cmp core pd 5 rs1 rs2 0) s = w (decide (b ≤ a)) ∧
     exec (.cmpi core pd 0 rs1 imm) s = w (decide (a = i)) ∧ exec (.cmpi core pd 1 rs1 imm) s = w (decide (a ≠ i)) ∧
     exec (.cmpi core pd 2 rs1 imm) s = w (decide (a.toInt < i.toInt)) ∧ exec (.cmpi core pd 3 rs1 imm) s = w (decide (i.toInt ≤ a.toInt)) ∧
     exec (.cmpi core pd 4 rs1 imm) s = w (decide (a < i)) ∧ exec (.cmpi core pd 5 rs1 imm) s = w (decide (i ≤ a)) ∧
     exec (.pand core pd pa pb 0) s = w (x && y) ∧ exec (.por core pd pa pb 0) s = w (x || y) ∧ exec (.pxor core pd pa pb 0) s = w (x ^^ y) ∧
     exec (.pnot core pd pa 0) s = w (!x) ∧ exec (.pset core pd 0) s = w true ∧ exec (.pclr core pd 0) s = w false ∧
     exec (.tstb core pd rs1 bit 0) s = w (a.getLsbD bit.toNat))

/-- Branches, jumps and DBNZ (R124, R127, R129): where the program counter goes, and what is written on the way. JALR's target is aligned. -/
def Obligations.BranchesMoveThePc : Prop :=
  ∀ (s : State) (core : Core) (p : P2) (t : Bool) (rd rs : R5) (o23 : BitVec 23) (o26 : BitVec 26) (o21 : BitVec 21), s.executes core = true →
    let c := s.core core
    let next : W64 := c.pc + 4
    let go : CoreState → Host.Outcome State Fault Refusal := fun c' => .next (s.setCore core c')
    exec (.br core p t o23) s = go { c with pc := if c.pred p = t then c.pc + 4 * BitVec.ofInt 64 o23.toInt else next } ∧
    exec (.j core o26) s = go { c with pc := c.pc + 4 * BitVec.ofInt 64 o26.toInt } ∧
    exec (.jal core o26) s = go { c.setSreg 31 next with pc := c.pc + 4 * BitVec.ofInt 64 o26.toInt } ∧
    ((c.sreg rs).toNat % 4 = 0 → exec (.jalr core rd rs 0) s = go { c.setSreg rd next with pc := c.sreg rs }) ∧
    (c.sreg rs = 0 → exec (.dbnz core rs o21) s = go { c with pc := next }) ∧
    (c.sreg rs = 1 → exec (.dbnz core rs o21) s = go { c.setSreg rs 0 with pc := next }) ∧
    (c.sreg rs ≠ 0 → c.sreg rs ≠ 1 →
      exec (.dbnz core rs o21) s = go { c.setSreg rs (c.sreg rs - 1) with pc := c.pc + 4 * BitVec.ofInt 64 o21.toInt })

/-- Scalar loads (R125, R127): aligned and in a local window, with no error to meet, rd takes the bytes, sign- or zero-extended, and the access stands before the bank that holds them (R145). Scalar stores (R125, R127): the low bytes of the register go to the bytes addressed, every other byte of memory, every register of every
core and the program counters of the others stay. Local atomics (R130): rd takes the old word, the word becomes what the operation says, and every other byte stays. -/
def Obligations.LocalAccessesMoveTheirBytes : Prop :=
  (∀ (s : State) (core : Core) (rd rs1 : R5) (imm : Imm) (n a : Nat), s.executes core = true →
     scalarPhys core ((s.core core).sreg rs1 + imm.signExtend 64).toNat n = some a → s.clean a n = true →
     let v := leNat ((List.range n).map (fun i => s.byteAt (a + i)))
     let w : W64 → Host.Outcome State Fault Refusal := fun v => .next ((s.presentOwn core n (some a) false false).stepsOn core (fun c => c.setSreg rd v))
     (n = 1 → exec (.ldB core rd rs1 imm) s = w ((BitVec.ofNat 8 v).signExtend 64) ∧ exec (.ldBu core rd rs1 imm) s = w (BitVec.ofNat 64 v)) ∧
     (n = 2 → exec (.ldH core rd rs1 imm) s = w ((BitVec.ofNat 16 v).signExtend 64) ∧ exec (.ldHu core rd rs1 imm) s = w (BitVec.ofNat 64 v)) ∧
     (n = 4 → exec (.ldW core rd rs1 imm) s = w ((BitVec.ofNat 32 v).signExtend 64) ∧ exec (.ldWu core rd rs1 imm) s = w (BitVec.ofNat 64 v)) ∧
     (n = 8 → exec (.ldD core rd rs1 imm) s = w (BitVec.ofNat 64 v))) ∧
  (∀ (s : State) (core : Core) (rd rs1 : R5) (imm : Imm) (n a : Nat) (c : Instr), s.executes core = true →
     scalarPhys core ((s.core core).sreg rs1 + imm.signExtend 64).toNat n = some a →
     ((n = 1 ∧ c = .stB core rd rs1 imm) ∨ (n = 2 ∧ c = .stH core rd rs1 imm) ∨ (n = 4 ∧ c = .stW core rd rs1 imm) ∨
       (n = 8 ∧ c = .stD core rd rs1 imm)) →
     ∃ t, exec c s = .next t ∧
       (∀ i < n, t.byteAt (a + i) = BitVec.extractLsb' (8 * i) 8 ((s.core core).sreg rd)) ∧
       (∀ b, b < a ∨ a + n ≤ b → t.byteAt b = s.byteAt b) ∧
       t.core core = (s.core core).advance ∧ (∀ k, k ≠ core.val → t.core k = s.core k) ∧ t.regs = s.regs ∧ t.clusters = s.clusters ∧
       t.ten = s.ten) ∧
  (∀ (s : State) (core : Core) (rd rs1 rs2 : R5) (a : Nat), s.executes core = true →
     scalarPhys core ((s.core core).sreg rs1).toNat 8 = some a → s.clean a 8 = true →
     let old : W64 := BitVec.ofNat 64 (leNat ((List.range 8).map (fun i => s.byteAt (a + i))))
     let b := (s.core core).sreg rs2
     let does : Instr → W64 → Prop := fun c w => ∃ t, exec c s = .next t ∧
       (∀ i < 8, t.byteAt (a + i) = BitVec.extractLsb' (8 * i) 8 w) ∧ (∀ x, x < a ∨ a + 8 ≤ x → t.byteAt x = s.byteAt x) ∧
       t.core core = ((s.core core).setSreg rd old).advance ∧ (∀ k, k ≠ core.val → t.core k = s.core k) ∧ t.regs = s.regs ∧
       t.clusters = s.clusters ∧ t.ten = s.ten
     does (.amoAdd core rd rs1 rs2) (old + b) ∧ does (.amoMin core rd rs1 rs2) (if old.toInt < b.toInt then old else b) ∧
     does (.amoMax core rd rs1 rs2) (if old.toInt < b.toInt then b else old) ∧ does (.amoAnd core rd rs1 rs2) (old &&& b) ∧
     does (.amoOr core rd rs1 rs2) (old ||| b) ∧ does (.amoXchg core rd rs1 rs2) b ∧
     does (.amoCas core rd rs1 rs2) (if old = (s.core core).sreg rd then b else old))

/-! ### Waits, issue, summary words and system functions (R101, R106, R110, R114, R122, R123, R131 to R133, R139) -/

/-- WAIT on an engine goes on at once when its queue holds at most n commands and else makes the core wait; FENCE.L goes on at once, the model's choice of log 99 (a store
reaches its bank at once); FENCE.G goes on when every DMA command of the core has completed and none of its remote write pieces awaits its acknowledgement.
A core that waits so goes on when the condition holds. WAITW (R133): a word that is at least rs2, unsigned, sets pd and the core goes on; else the core waits, each time the word is read again as much,
and when WAIT_LIMIT ns of timebase have passed pd is false and it goes on. ISSUE (R131): the 64 bytes of the block are copied into the engine's queue at the moment of issue; when the queue holds its 8 matrix commands, 16
vector entries or 32 DMA commands the core waits, and the block goes in once there is room. -/
def Obligations.WaitsAndIssuesFollowTheQueues : Prop :=
  (∀ (s : State) (core : Core) (n : BitVec 8),
     let c := s.core core
     let quiet : Prop := c.dmaQ = [] ∧ ∀ e ∈ s.memop.slots, ∀ r, e.2.owner = .dma core r → s.coreCtx core = some e.2.ctx → e.2.kind ≠ 0x11 ∧ e.2.kind ≠ 0x12
     let hold : Wait → Host.Outcome State Fault Refusal := fun w => .next (s.setCore core { c with wait := w })
     let go : Host.Outcome State Fault Refusal := .next (s.setCore core { c with wait := .none, pc := c.pc + 4 })
     (s.executes core = true →
       (n.toNat ≤ 8 → exec (.waitMx core 0 n) s = if c.matQ.length ≤ n.toNat then go else hold (.mx n.toNat)) ∧
       (n.toNat ≤ 16 → exec (.waitVx core 0 n) s = if c.vecQ.length ≤ n.toNat then go else hold (.vx n.toNat)) ∧
       (n.toNat ≤ 32 → exec (.waitDma core 0 n) s = if c.dmaQ.length ≤ n.toNat then go else hold (.dma n.toNat)) ∧
       exec (.fenceL core 0) s = go ∧
       (quiet → exec (.fenceG core 0) s = go) ∧ (¬ quiet → exec (.fenceG core 0) s = hold .fenceG)) ∧
     (s.canWake core = true →
       (∀ k, c.wait = .mx k → exec (.waitSatisfied core) s = if c.matQ.length ≤ k then go else .next s) ∧
       (∀ k, c.wait = .vx k → exec (.waitSatisfied core) s = if c.vecQ.length ≤ k then go else .next s) ∧
       (∀ k, c.wait = .dma k → exec (.waitSatisfied core) s = if c.dmaQ.length ≤ k then go else .next s) ∧
       (c.wait = .fenceG → quiet → exec (.waitSatisfied core) s = go))) ∧
  (∀ (s : State) (core : Core) (pd : P2) (rs1 rs2 : R5) (a : Nat),
     let c := s.core core
     let word := leNat ((List.range 8).map (fun i => s.byteAt (a + i)))
     let go : Bool → Host.Outcome State Fault Refusal := fun b => .next (s.setCore core { c.setPred pd b with wait := .none, pc := c.pc + 4 })
     (s.executes core = true → scalarPhys core (c.sreg rs1).toNat 8 = some a → s.clean a 8 = true →
       exec (.waitw core pd rs1 rs2 0) s =
         if (c.sreg rs2).toNat ≤ word then go true
         else .next (s.setCore core { c with wait := .word pd (c.sreg rs1) (c.sreg rs2) s.time.tb })) ∧
     (∀ (addr v : W64) (t0 : Nat), s.canWake core = true → c.wait = .word pd addr v t0 → scalarPhys core addr.toNat 8 = some a → s.clean a 8 = true →
       exec (.waitwWake core) s = (if v.toNat ≤ word then go true else .next s) ∧
       (word < v.toNat → c.waitLimit.toNat * 2 ^ 24 ≤ s.time.tb - t0 → exec (.waitwTimeout core) s = go false))) ∧
  (∀ (s : State) (core : Core) (rs1 : R5) (a : Nat),
     let c := s.core core
     let blk := (List.range 64).map (fun i => s.byteAt (a + i))
     let put : CoreState → Host.Outcome State Fault Refusal := fun c' => .next (s.setCore core { c' with wait := .none, pc := c.pc + 4 })
     let mx := put { c with matQ := c.matQ ++ [⟨blk, false, 0, none⟩] }
     let vx := put { c with vecQ := c.vecQ ++ [.block blk] }
     let dm := put { c with dmaQ := c.dmaQ ++ [⟨blk, false, 0, []⟩] }
     let hold : Nat → Host.Outcome State Fault Refusal := fun k => .next (s.setCore core { c with wait := .issue k (c.sreg rs1) })
     s.clean a 64 = true →
     (s.executes core = true → scalarPhys core (c.sreg rs1).toNat 64 = some a →
       exec (.issueMxi core rs1 0) s = (if c.matQ.length < 8 then mx else hold 0) ∧
       exec (.issueVxc core rs1 0) s = (if c.vecQ.length < 16 then vx else hold 1) ∧
       exec (.issueDmai core rs1 0) s = (if c.dmaQ.length < 32 then dm else hold 2)) ∧
     (∀ w : W64, s.canWake core = true → scalarPhys core w.toNat 64 = some a →
       (c.wait = .issue 0 w → exec (.queueRoomFreed core) s = if c.matQ.length < 8 then mx else .next s) ∧
       (c.wait = .issue 1 w → exec (.queueRoomFreed core) s = if c.vecQ.length < 16 then vx else .next s) ∧
       (c.wait = .issue 2 w → exec (.queueRoomFreed core) s = if c.dmaQ.length < 32 then dm else .next s)))

/-- SUMR and the summary queue (R123, R106, R135): the oldest word goes to rd; with none there and a producer in flight the core waits; with none
and none in flight it is an illegal instruction; an instruction that would push into a full queue waits and its engine with it. The other
functions read the latest matrix status, the OR of the statuses, which is then 0, and the DMA status. -/
def Obligations.SummaryWordsArriveInOrder : Prop :=
  ∀ (s : State) (core : Core) (rd : R5),
    let c := s.core core
    (s.executes core = true →
      (∀ w rest, c.summary = w :: rest →
        exec (.sumrPop core rd 0) s = .next (s.stepsOn core (fun c => CoreState.setSreg { c with summary := rest } rd w))) ∧
      (c.summary = [] → c.vecQ.any VItem.pushes = true → exec (.sumrPop core rd 0) s = .next (s.setCore core { c with wait := .summary rd })) ∧
      (c.summary = [] → c.vecQ.any VItem.pushes = false → exec (.sumrPop core rd 0) s = .next (s.faultIllegal core)) ∧
      exec (.sumrLastMx core rd 0) s = .next (s.stepsOn core (fun c => c.setSreg rd (c.lastMx.zeroExtend 64))) ∧
      exec (.sumrOrMx core rd 0) s = .next (s.stepsOn core (fun k => CoreState.setSreg { k with orMx := 0 } rd (c.orMx.zeroExtend 64))) ∧
      exec (.sumrDma core rd 0) s = .next (s.stepsOn core (fun c => c.setSreg rd c.dmaStatus))) ∧
    (∀ v rest, c.vecQ = .instr v :: rest → (VItem.instr v).pushes = true → 8 ≤ c.summary.length → exec (.vectorInstructionComplete core) s = .next s)

/-- YIELD with no pre-emption pending does nothing but go on, and stops a core whose context is being stopped (R139). RDTB gives the local copy of
the timebase, at most two steps behind and never less than this core has read before (R27). SETVL sets VL (R110). CSRs (Table 4.10): what each number reads, what a write stores or, for VSTAT, clears; a write to a read-only CSR and any access to a reserved number is an
illegal instruction. -/
def Obligations.SystemFunctionsAnswer : Prop :=
  (∀ (s : State) (core : Core) (rd rs1 : R5) (lag : Fin 3) (ctx : Nat) (f : EFmt) (ty : Ty), s.executes core = true →
     let c := s.core core
     (s.coreCtx core = some ctx →
       (s.ctxPhase? ctx = some .active → exec (.yield core false) s = .next (s.setCore core { c with pc := c.pc + 4 })) ∧
       (s.ctxPhase? ctx = some .stopping → exec (.yield core false) s = .next (s.setCore core { c with pc := c.pc + 4, run := .stopped })) ∧
       (s.ctxPhase? ctx = some .reclaiming → exec (.yield core false) s = .next (s.setCore core { c with pc := c.pc + 4, run := .stopped }))) ∧
     (∃ v, (s.time.tb - 2 * s.time.inc.toNat) / 2 ^ 24 ≤ v ∧ c.lastRdtb ≤ v ∧ (c.lastRdtb ≤ s.time.tb / 2 ^ 24 → v ≤ s.time.tb / 2 ^ 24) ∧
       exec (.rdtb core rd false lag) s = .next (s.stepsOn core (fun c => CoreState.setSreg { c with lastRdtb := v } rd (BitVec.ofNat 64 v)))) ∧
     (efmtOf ty.toNat = some f →
       let n := min (c.sreg rs1).toNat (2048 / efmtWidth f)
       exec (.setvl core rd rs1 0 ty) s = .next (s.stepsOn core (fun c => CoreState.setSreg { c with vl := n } rd (BitVec.ofNat 64 n))))) ∧
  (∀ (s : State) (core : Core) (r : R5) (imm : Imm) (cl log ctx : Nat), s.executes core = true → core.val / 128 = cl →
     (s.cluster cl).owner = some (ctx, log) →
     let c := s.core core
     let rd : W64 → Host.Outcome State Fault Refusal := fun v => .next (s.stepsOn core (fun c => c.setSreg r v))
     let wr : (CoreState → CoreState) → Host.Outcome State Fault Refusal := fun f => .next (s.stepsOn core f)
     exec (.csrr core r false 0) s = rd (BitVec.ofNat 64 (core.val % 128 + 256 * cl + 65536 * log)) ∧
     exec (.csrr core r false 1) s = rd (BitVec.ofNat 64 ctx) ∧
     exec (.csrr core r false 2) s = rd (c.step.zeroExtend 64) ∧ exec (.csrr core r false 3) s = rd c.srTensor ∧
     exec (.csrr core r false 4) s = rd c.srIndex ∧ exec (.csrr core r false 5) s = rd c.waitLimit ∧
     exec (.csrr core r false 6) s = rd (c.vstat.zeroExtend 64) ∧ exec (.csrr core r false 7) s = rd (BitVec.ofNat 64 c.vl) ∧
     exec (.csrr core r false 8) s = rd (s.sec.arithRev.zeroExtend 64) ∧
     (9 ≤ imm.toNat → exec (.csrr core r false imm) s = .next (s.faultIllegal core)) ∧
     exec (.csrw core r false 3) s = wr (fun k => { k with srTensor := c.sreg r }) ∧
     exec (.csrw core r false 4) s = wr (fun k => { k with srIndex := (c.sreg r) % 2 ^ 48 }) ∧
     exec (.csrw core r false 5) s = wr (fun k => { k with waitLimit := c.sreg r }) ∧
     exec (.csrw core r false 6) s = wr (fun k => { k with vstat := c.vstat &&& ~~~ (c.sreg r).truncate 3 }) ∧
     (imm.toNat < 3 ∨ 7 ≤ imm.toNat → exec (.csrw core r false imm) s = .next (s.faultIllegal core)))

/-! ### Vector instructions (R108 to R123, R131, R499) -/

/-- Vector instructions enter the vector queue in program order with what the control core reads when it forwards them: VL, the scalar operand,
stride and base, and the stochastic-rounding CSRs (R110, R112, R115, R117, R131, Table 4.11). With 16 entries queued the core waits, and the
instruction goes in when there is room. The room a waiting vector instruction needs has come (R131). -/
def Obligations.VectorInstructionsEnterTheQueue : Prop :=
  (∀ (s : State) (core : Core) (vd vs1 vs2 r : R5) (mk md ma mb : M3) (ty dst part fn : Ty) (sr ieee : Bool), s.executes core = true →
     let c := s.core core
     let q : VInstr → Host.Outcome State Fault Refusal := fun v =>
       .next (if c.vecQ.length < 16 then s.setCore core { c with vecQ := c.vecQ ++ [.instr v], pc := c.pc + 4 }
         else s.setCore core { c with wait := .forward v })
     let base : VOp → Ty → VInstr := fun op ty => ⟨op, 0, 0, 0, 0, 0, 0, 0, ty, 0, 0, true, c.vl, c.srTensor.truncate 32, c.srIndex⟩
     let vv : VOp → R5 → VInstr := fun op vs2 => { base op ty with vd := vd, vs1 := vs1, vs2 := vs2, mask := mk }
     let vs : VOp → R5 → VInstr := fun op vs1 => { base op ty with vd := vd, vs1 := vs1, mask := mk, scalar := c.sreg r }
     let mm : VOp → VInstr := fun op => { base op 0 with md := md, ma := ma, mb := mb }
     let mem : VOp → R5 → VInstr := fun op st => { base op ty with vd := vd, mask := mk, base := c.sreg r, scalar := c.sreg st, packed := st == 0 }
     (ty = 0x3 ∨ ty = 0x8 ∨ ty = 0x9 ∨ ty = 0xA ∨ ty = 0xB →
       exec (.vadd core vd vs1 vs2 mk ty) s = q (vv .add vs2) ∧ exec (.vsub core vd vs1 vs2 mk ty) s = q (vv .sub vs2) ∧
       exec (.vmul core vd vs1 vs2 mk ty) s = q (vv .mul vs2) ∧ exec (.vmac core vd vs1 vs2 mk ty) s = q (vv .mac vs2) ∧
       exec (.vmin core vd vs1 vs2 mk ty) s = q (vv .min vs2) ∧ exec (.vmax core vd vs1 vs2 mk ty) s = q (vv .max vs2) ∧
       exec (.vabs core vd vs1 0 mk ty) s = q (vv .abs 0) ∧ exec (.vneg core vd vs1 0 mk ty) s = q (vv .neg 0) ∧
       exec (.vadds core vd vs1 r mk ty) s = q (vs .adds vs1) ∧ exec (.vsubs core vd vs1 r mk ty) s = q (vs .subs vs1) ∧
       exec (.vmuls core vd vs1 r mk ty) s = q (vs .muls vs1) ∧ exec (.vmins core vd vs1 r mk ty) s = q (vs .mins vs1) ∧
       exec (.vmaxs core vd vs1 r mk ty) s = q (vs .maxs vs1) ∧
       (fn.toNat < 6 → exec (.vcmp core 0 md vs1 vs2 mk ty fn) s =
         q { base (.cmp fn.toNat) ty with md := md, vs1 := vs1, vs2 := vs2, mask := mk }) ∧
       exec (.vredSum core vd vs1 0 mk ty) s = q (vv (.red 0) 0) ∧ exec (.vredMax core vd vs1 0 mk ty) s = q (vv (.red 1) 0) ∧
       exec (.vredMin core vd vs1 0 mk ty) s = q (vv (.red 2) 0) ∧ exec (.vredProd core vd vs1 0 mk ty) s = q (vv (.red 3) 0) ∧
       exec (.vredMean core vd vs1 0 mk ty) s = q (vv (.red 4) 0) ∧ exec (.vredArgmax core vd vs1 0 mk ty) s = q (vv (.red 5) 0) ∧
       exec (.vredArgmin core vd vs1 0 mk ty) s = q (vv (.red 6) 0)) ∧
     (ty = 0x8 ∨ ty = 0x9 ∨ ty = 0xA →
       exec (.vrcp core vd vs1 0 mk ty) s = q (vv .rcp 0) ∧ exec (.vsqrt core vd vs1 0 mk ty) s = q (vv .sqrt 0) ∧
       exec (.vrsqrt core vd vs1 0 mk ty) s = q (vv .rsqrt 0) ∧ exec (.vexp core vd vs1 0 mk ty) s = q (vv .exp 0) ∧
       exec (.vredSoftmax core vd vs1 0 mk ty) s = q (vv (.red 7) 0)) ∧
     (1 ≤ ty.toNat → ty.toNat ≤ 11 →
       exec (.vmov core vd vs1 vs2 mk ty) s = q (vv .mov vs2) ∧ (mk ≠ 0 → exec (.vmerge core vd vs1 vs2 mk ty) s = q (vv .merge vs2)) ∧
       exec (.vsplat core vd 0 r mk ty) s = q (vs .splat 0) ∧
       exec (.vext core 0 vs1 r 0 ty) s = q { base .ext ty with vs1 := vs1, scalar := c.sreg r } ∧
       (1 ≤ dst.toNat → dst.toNat ≤ 11 →
         (∀ f g, efmtOf ty.toNat = some f → efmtOf dst.toNat = some g →
           part.toNat < max (efmtWidth f / efmtWidth g) (efmtWidth g / efmtWidth f)) →
         exec (.vcvt core vd vs1 ty part dst sr ieee 0) s = q { base (.cvt part.toNat dst.toNat sr ieee) ty with vd := vd, vs1 := vs1 }) ∧
       (∀ f, efmtOf ty.toNat = some f → (efmtWidth f < 8 ∨ (c.sreg r).toNat % (efmtWidth f / 8) = 0) →
         exec (.vld core vd r 0 mk ty) s = q (mem .ld 0) ∧ exec (.vst core vd r 0 mk ty) s = q (mem .st 0) ∧
         (8 ≤ efmtWidth f → exec (.vld core vd r vs2 mk ty) s = q (mem .ld vs2) ∧ exec (.vst core vd r vs2 mk ty) s = q (mem .st vs2)))) ∧
     exec (.mand core md ma mb 0) s = q (mm .mand) ∧ exec (.mor core md ma mb 0) s = q (mm .mor) ∧
     exec (.mxor core md ma mb 0) s = q (mm .mxor) ∧ exec (.mandn core md ma mb 0) s = q (mm .mandn) ∧
     exec (.mnot core md ma mb 0) s = q (mm .mnot) ∧ exec (.mset core md ma mb 0) s = q (mm .mset) ∧
     exec (.mclr core md ma mb 0) s = q (mm .mclr) ∧ exec (.mpop core md ma mb 0) s = q (mm .mpop) ∧
     exec (.mfirst core md ma mb 0) s = q (mm .mfirst) ∧
     exec (.vldm core 0 md r vs2 mk ty) s = q { base .ldm ty with md := md, base := c.sreg r } ∧
     exec (.vstm core 0 md r vs2 mk ty) s = q { base .stm ty with md := md, base := c.sreg r }) ∧
  (∀ (s : State) (core : Core) (v : VInstr), s.canWake core = true → (s.core core).wait = .forward v →
     let c := s.core core
     exec (.queueRoomFreed core) s = .next (if c.vecQ.length < 16 then
       s.setCore core { c with vecQ := c.vecQ ++ [.instr v], wait := .none, pc := c.pc + 4 } else s))

/-- The element operations write the active elements of vd, set in VSTAT the events those elements raise, and leave every other element, register, core and byte of memory as it was (R110, R111, R113,
R114, Table 4.11). VMERGE takes its mask as the choice and writes every element below n. VCVT (R115): each source element of its part is converted, rounded stochastically by the element's index when SR is set (R57), into the destination element of its part; every other element of vd, every
other register and core and memory stay. VSTAT takes the events of the conversions (R114), and saturated and non-finite elements are counted for the context (R53). Integer elements saturate at the limits of their type and raise SAT when they do; none wraps (R114). Compares, mask operations, MPOP, MFIRST and VEXT (R109, R116, R499, Table 4.11): the mask bits written, or the summary word pushed. -/
def Obligations.ElementOperationsWriteActiveElements : Prop :=
  (∀ (s : State) (core : Core) (v : VInstr) (rest : List VItem) (f : EFmt),
     s.enginesBegin core = true → (s.core core).vecQ = .instr v :: rest → efmtOf v.ty.toNat = some f →
     let c := s.core core
     let w := efmtWidth f
     let n := min v.vl (2048 / w)
     let el : R5 → Nat → Nat := fun r i => (c.vreg r).toNat / 2 ^ (w * i) % 2 ^ w
     let a := el v.vs1
     let b := el v.vs2
     let k := v.scalar.toNat % 2 ^ w
     let on : Nat → Bool := fun i => v.mask == 0 || (c.mreg v.mask).getLsbD i
     let writes : (Nat → Bool) → (Nat → ERes) → Prop := fun act res => ∃ t, exec (.vectorInstructionComplete core) s = .next t ∧
       (∀ i < 2048 / w, ((t.core core).vreg v.vd).toNat / 2 ^ (w * i) % 2 ^ w = if i < n ∧ act i = true then (res i).code % 2 ^ w else el v.vd i) ∧
       (∀ e < 3, (t.core core).vstat.getLsbD e = (c.vstat.getLsbD e || (List.range n).any (fun i => act i && (res i).ev.testBit e))) ∧
       (∀ r, r ≠ v.vd → (t.core core).vreg r = c.vreg r) ∧ (t.core core).vecQ = rest ∧ (t.core core).masks = c.masks ∧
       (t.core core).sregs = c.sregs ∧ (t.core core).pc = c.pc ∧ (t.core core).summary = c.summary ∧
       (∀ j, j ≠ core.val → t.core j = s.core j) ∧ t.mem = s.mem ∧ t.ten = s.ten
     (v.op = .add → writes on (fun i => elem2 f 0 (a i) (b i))) ∧ (v.op = .sub → writes on (fun i => elem2 f 1 (a i) (b i))) ∧
     (v.op = .mul → writes on (fun i => elem2 f 2 (a i) (b i))) ∧ (v.op = .min → writes on (fun i => elem2 f 3 (a i) (b i))) ∧
     (v.op = .max → writes on (fun i => elem2 f 4 (a i) (b i))) ∧
     (v.op = .mac → writes on (fun i =>
       let p := elem2 f 2 (a i) (b i)
       let r := elem2 f 0 (el v.vd i) p.code
       ⟨r.code, p.ev ||| r.ev⟩)) ∧
     (v.op = .adds → writes on (fun i => elem2 f 0 (a i) k)) ∧ (v.op = .subs → writes on (fun i => elem2 f 1 (a i) k)) ∧
     (v.op = .muls → writes on (fun i => elem2 f 2 (a i) k)) ∧ (v.op = .mins → writes on (fun i => elem2 f 3 (a i) k)) ∧
     (v.op = .maxs → writes on (fun i => elem2 f 4 (a i) k)) ∧
     (v.op = .abs ∨ v.op = .neg ∨ v.op = .rcp ∨ v.op = .sqrt ∨ v.op = .rsqrt ∨ v.op = .exp → writes on (fun i => elem1 f v.op (a i))) ∧
     (v.op = .mov → writes on (fun i => ⟨a i, 0⟩)) ∧ (v.op = .splat → writes on (fun _ => ⟨k, 0⟩)) ∧
     (v.op = .merge → writes (fun _ => true) (fun i => ⟨if on i then a i else b i, 0⟩))) ∧
  (∀ (s : State) (core : Core) (v : VInstr) (rest : List VItem) (fs fd : EFmt) (part dst ctx : Nat) (sr ieee : Bool) (x : CtxState),
     s.enginesBegin core = true → (s.core core).vecQ = .instr v :: rest → v.op = .cvt part dst sr ieee → efmtOf v.ty.toNat = some fs → efmtOf dst = some fd →
     s.coreCtx core = some ctx → s.ctx? ctx = some x →
     let c := s.core core
     let ws := efmtWidth fs
     let wd := efmtWidth fd
     let n := min v.vl (min (2048 / ws) (2048 / wd))
     let from_ := if 2048 / wd < 2048 / ws then part * (2048 / wd) else 0
     let to_ := if 2048 / ws < 2048 / wd then part * (2048 / ws) else 0
     let src : Nat → FNum := fun i => decodeElem fs ((c.vreg v.vs1).toNat / 2 ^ (ws * (i + from_)) % 2 ^ ws)
     let rnd : Nat → Rnd := fun i => if sr then .sr (srBits x.srKey v.srTensor ((v.srIndex + BitVec.ofNat 64 (i + to_)) % 2 ^ 48) c.step) else .rne
     let y : Nat → Conv := fun i => convert fd (rnd i) ((ieee && (dst == 0x2 || dst == 0x8 || dst == 0xA)) || dst == 0x9) (src i)
     let count : (Nat → Bool) → Nat := fun p => (List.range n).countP p
     ∃ t, exec (.vectorInstructionComplete core) s = .next t ∧
       (∀ j < 2048 / wd, ((t.core core).vreg v.vd).toNat / 2 ^ (wd * j) % 2 ^ wd =
         if to_ ≤ j ∧ j < to_ + n then (y (j - to_)).code % 2 ^ wd else (c.vreg v.vd).toNat / 2 ^ (wd * j) % 2 ^ wd) ∧
       (∀ e < 3, (t.core core).vstat.getLsbD e = (c.vstat.getLsbD e || (List.range n).any (fun i => (cvtEvents fd (src i) (y i)).testBit e))) ∧
       s.countedBy t (offHeadroom ctx) (count (fun i => (y i).headroom)) ∧ s.countedBy t (offNonfinite ctx) (count (fun i => (src i).isNan || (src i).isInf)) ∧
       (∀ r, r ≠ v.vd → (t.core core).vreg r = c.vreg r) ∧ (t.core core).vecQ = rest ∧ (t.core core).masks = c.masks ∧ (t.core core).sregs = c.sregs ∧
       (t.core core).pc = c.pc ∧ (t.core core).summary = c.summary ∧ (∀ j, j ≠ core.val → t.core j = s.core j) ∧ t.mem = s.mem ∧ t.ten = s.ten) ∧
  (∀ (w a b : Nat), w = 8 ∨ w = 32 → a < 2 ^ w → b < 2 ^ w →
     let lo : Int := -(2 ^ (w - 1))
     let hi : Int := 2 ^ (w - 1) - 1
     let x := intOf w a
     let y := intOf w b
     let sat : ERes → Int → Prop := fun r v => intOf w r.code = max lo (min hi v) ∧ (r.ev = if v < lo ∨ hi < v then vstatSat else 0)
     sat (elem2 (.int w) 0 a b) (x + y) ∧ sat (elem2 (.int w) 1 a b) (x - y) ∧ sat (elem2 (.int w) 2 a b) (x * y) ∧
     sat (elem2 (.int w) 3 a b) (min x y) ∧ sat (elem2 (.int w) 4 a b) (max x y) ∧
     sat (elem1 (.int w) .abs a) (max x (-x)) ∧ sat (elem1 (.int w) .neg a) (-x)) ∧
  (∀ (s : State) (core : Core) (v : VInstr) (rest : List VItem) (f : EFmt),
     s.enginesBegin core = true → (s.core core).vecQ = .instr v :: rest →
     let c := s.core core
     let a := c.mreg v.ma
     let b := c.mreg v.mb
     let same : State → Prop := fun t => (t.core core).vecQ = rest ∧ (t.core core).vregs = c.vregs ∧ (t.core core).sregs = c.sregs ∧
       (∀ j, j ≠ core.val → t.core j = s.core j) ∧ t.mem = s.mem ∧ t.ten = s.ten
     let mask : (Nat → Bool) → Prop := fun g => ∃ t, exec (.vectorInstructionComplete core) s = .next t ∧ same t ∧
       (∀ i < 1024, ((t.core core).mreg v.md).getLsbD i = g i) ∧ (∀ m, m ≠ v.md → (t.core core).mreg m = c.mreg m) ∧
       (t.core core).summary = c.summary
     let push : W64 → Prop := fun word => (∀ r, c.wait ≠ .summary r) → c.summary.length < 8 →
       ∃ t, exec (.vectorInstructionComplete core) s = .next t ∧ same t ∧ (t.core core).masks = c.masks ∧ (t.core core).summary = c.summary ++ [word]
     (v.op = .mand → mask (fun i => a.getLsbD i && b.getLsbD i)) ∧ (v.op = .mor → mask (fun i => a.getLsbD i || b.getLsbD i)) ∧
     (v.op = .mxor → mask (fun i => a.getLsbD i ^^ b.getLsbD i)) ∧ (v.op = .mandn → mask (fun i => a.getLsbD i && !b.getLsbD i)) ∧
     (v.op = .mnot → mask (fun i => !a.getLsbD i)) ∧ (v.op = .mset → mask (fun _ => true)) ∧ (v.op = .mclr → mask (fun _ => false)) ∧
     (v.op = .mpop → push (summaryWord ((List.range v.vl).countP (fun i => a.getLsbD i)) ⟨false, false, false, false⟩ 0 9 v.vl)) ∧
     (v.op = .mfirst →
       (∀ i < v.vl, a.getLsbD i = true → (∀ j < i, a.getLsbD j = false) → push (summaryWord i ⟨false, false, false, false⟩ 0 10 v.vl)) ∧
       ((∀ j < v.vl, a.getLsbD j = false) → push (summaryWord 0xFFFFFFFF ⟨true, false, false, false⟩ 0 10 v.vl))) ∧
     (efmtOf v.ty.toNat = some f →
       let w := efmtWidth f
       let n := min v.vl (2048 / w)
       let el : R5 → Nat → Nat := fun r i => (c.vreg r).toNat / 2 ^ (w * i) % 2 ^ w
       (∀ fn, v.op = .cmp fn → mask (fun i => if i < n ∧ (v.mask = 0 ∨ (c.mreg v.mask).getLsbD i = true) then cmpHolds f fn (el v.vs1 i) (el v.vs2 i)
         else (c.mreg v.md).getLsbD i)) ∧
       (v.op = .ext → push (if v.scalar.toNat < n then summaryWord (el v.vs1 v.scalar.toNat) ⟨false, false, false, false⟩ v.ty.toNat 8 1
         else summaryWord 0 ⟨true, false, false, false⟩ v.ty.toNat 8 0))))

/-- The tree of R118 over a list of 2^k codes is the balanced tree: the operation on the trees of its two halves. Reductions (R119, R120, R121): the summary word pushed, element 0 of vd or, for softmax, the row below n; every other register, every other core and
memory stay. -/
def Obligations.ReductionsCombineInATree : Prop :=
  (∀ (op : Nat → Nat → ERes) (k : Nat) (l r : List Nat), k ≤ 10 → l.length = 2 ^ k → r.length = 2 ^ k →
     (treeReduce op 12 (l ++ r)).1 = (op (treeReduce op 12 l).1 (treeReduce op 12 r).1).code) ∧
  (∀ (s : State) (core : Core) (v : VInstr) (rest : List VItem) (f : EFmt) (fn : Nat),
     s.enginesBegin core = true → (s.core core).vecQ = .instr v :: rest → efmtOf v.ty.toNat = some f → v.op = .red fn → fn < 8 →
     (∀ r, (s.core core).wait ≠ .summary r) → (s.core core).summary.length < 8 →
     let c := s.core core
     let w := efmtWidth f
     let N := 2048 / w
     let n := min v.vl N
     let el : R5 → Nat → Nat := fun r i => (c.vreg r).toNat / 2 ^ (w * i) % 2 ^ w
     let act := (List.range N).map (fun i => if i < n ∧ (v.mask = 0 ∨ (c.mreg v.mask).getLsbD i = true) then some (el v.vs1 i) else none)
     let does : (Nat → Nat) → W64 → Prop := fun res word => ∃ t, exec (.vectorInstructionComplete core) s = .next t ∧
       (t.core core).summary = c.summary ++ [word] ∧ (t.core core).vecQ = rest ∧
       (∀ i < N, ((t.core core).vreg v.vd).toNat / 2 ^ (w * i) % 2 ^ w = res i % 2 ^ w) ∧ (∀ r, r ≠ v.vd → (t.core core).vreg r = c.vreg r) ∧
       (t.core core).masks = c.masks ∧ (t.core core).sregs = c.sregs ∧ (∀ j, j ≠ core.val → t.core j = s.core j) ∧ t.mem = s.mem ∧ t.ten = s.ten
     (fn ≤ 4 →
       let r := reduceCodes f fn act
       does (fun i => if i = 0 then r.value else el v.vd i) (summaryWord r.value r.flags v.ty.toNat fn r.count) ∧
       ((∀ o ∈ act, o = none) → r.count = 0 ∧ r.flags = ⟨true, false, false, false⟩)) ∧
     (fn = 5 ∨ fn = 6 →
       let r := argCodes f (fn == 5) act
       does (el v.vd) (summaryWord r.value r.flags v.ty.toNat fn r.count) ∧
       ((∀ o ∈ act, o = none) → r.count = 0 ∧ r.flags = ⟨true, false, false, false⟩ ∧ r.value = 0xFFFFFFFF)) ∧
     (fn = 7 → ∀ g, f = .fp g →
       let r := softmaxCodes g act n
       does (fun i => if i < n then r.row.getD i 0 else el v.vd i) (summaryWord r.value r.flags v.ty.toNat 7 r.count) ∧
       ((∀ o ∈ act, ∀ x, o = some x → decodeFp g x = .inf true) → (∀ i < n, r.row.getD i 0 = 0) ∧ r.flags = ⟨true, false, false, false⟩ ∧ r.count = 0) ∧
       ((∃ x, some x ∈ act ∧ decodeFp g x = .nan) → (∀ i < n, r.row.getD i 0 = encodeIeee g .nan) ∧ r.flags = ⟨false, true, false, false⟩)))

/-- VLD and VST of whole-byte elements side by side (R117): element i is at base + i·w/8, masked and tail elements are neither written nor read, and every
other byte of memory and every other register stay. VLDM reads bits 0 to VL - 1 of a mask register, and VSTM writes them and leaves the other bits of its
last byte. -/
def Obligations.VectorMemoryMovesElements : Prop :=
  ∀ (s : State) (core : Core) (v : VInstr) (rest : List VItem) (f : EFmt) (p : Nat),
    s.enginesBegin core = true → (s.core core).vecQ = .instr v :: rest → efmtOf v.ty.toNat = some f →
    let c := s.core core
    let w := efmtWidth f
    let n := min v.vl (2048 / w)
    let el : State → R5 → Nat → Nat := fun t r i => ((t.core core).vreg r).toNat / 2 ^ (w * i) % 2 ^ w
    let on : Nat → Bool := fun i => decide (i < n) && (v.mask == 0 || (c.mreg v.mask).getLsbD i)
    (8 ≤ w → v.packed = true → v.base.toNat + n * (w / 8) ≤ 2 ^ 64 → localPhys core v.base.toNat (n * (w / 8)) = some p →
      (v.op = .ld → s.clean p (n * (w / 8)) = true → ∃ t, exec (.vectorInstructionComplete core) s = .next t ∧
        (∀ i < 2048 / w, el t v.vd i = if on i then leNat ((List.range (w / 8)).map (fun j => s.byteAt (p + i * (w / 8) + j))) else el s v.vd i) ∧
        (∀ r, r ≠ v.vd → (t.core core).vreg r = c.vreg r) ∧ (t.core core).vecQ = rest ∧ t.mem = s.mem) ∧
      (v.op = .st → ∃ t, exec (.vectorInstructionComplete core) s = .next t ∧
        (∀ i < n, ∀ j < w / 8, t.byteAt (p + i * (w / 8) + j) =
          if on i then BitVec.ofNat 8 (el s v.vd i / 256 ^ j) else s.byteAt (p + i * (w / 8) + j)) ∧
        (∀ x, x < p ∨ p + n * (w / 8) ≤ x → t.byteAt x = s.byteAt x) ∧ (t.core core).vregs = c.vregs ∧ (t.core core).vecQ = rest)) ∧
    (localPhys core v.base.toNat ((v.vl + 7) / 8) = some p → 0 < v.vl → v.vl ≤ 1024 → s.clean p ((v.vl + 7) / 8) = true →
      (v.op = .ldm → ∃ t, exec (.vectorInstructionComplete core) s = .next t ∧
        (∀ i < 1024, ((t.core core).mreg v.md).getLsbD i = if i < v.vl then (s.byteAt (p + i / 8)).getLsbD (i % 8) else (c.mreg v.md).getLsbD i) ∧
        (∀ m, m ≠ v.md → (t.core core).mreg m = c.mreg m) ∧ t.mem = s.mem) ∧
      (v.op = .stm → ∃ t, exec (.vectorInstructionComplete core) s = .next t ∧
        (∀ i < 8 * ((v.vl + 7) / 8), (t.byteAt (p + i / 8)).getLsbD (i % 8) =
          if i < v.vl then (c.mreg v.md).getLsbD i else (s.byteAt (p + i / 8)).getLsbD (i % 8)) ∧
        (∀ x, x < p ∨ p + (v.vl + 7) / 8 ≤ x → t.byteAt x = s.byteAt x) ∧ (t.core core).masks = c.masks))

/-- The vector block commands at the head of the queue (R55, R136, R137, R138), for a legal block whose operands read without an error. VX.QUANT of one row of
one block writes the element codes and the scale and holds its monitor record until it completes; VX.ACOMB of one head writes the row and holds
its summary word; VX.TOPF sets the mask bits of the chosen neurons and clears none. A reserved opcode or an illegal block
faults the context. -/
def Obligations.VectorBlockCommandsWork : Prop :=
  ∀ (s : State) (core : Core) (b : List Byte) (rest : List VItem),
    s.enginesBegin core = true → (s.core core).vecQ = .block b :: rest →
    let c := s.core core
    let op := fieldN b 0 1
    let worked : State → Option (Nat × List Byte) → Option W64 → Prop := fun t wr push =>
      t.core core = { c with vecQ := .worked b wr push :: rest } ∧ (∀ j, j ≠ core.val → t.core j = s.core j) ∧ t.ten = s.ten
    let at_ : Nat → Nat → Nat → Prop := fun a n p => localPhys core a n = some p
    let nat_ : State → Nat → Nat → Nat := fun t p n => leNat ((List.range n).map (fun i => t.byteAt (p + i)))
    (op ≠ 0x11 → op ≠ 0x12 → op ≠ 0x13 → exec (.vxQuant core) s = .next (s.faultBad core op)) ∧
    (op = 0x11 → quantLegal core b = false → exec (.vxQuant core) s = .next (s.faultBad core op)) ∧
    (op = 0x12 → acombLegal core b = false → exec (.vxAcomb core) s = .next (s.faultBad core op)) ∧
    (op = 0x13 → topfLegal core b = false → exec (.vxTopf core) s = .next (s.faultBad core op)) ∧
    (∀ pin pout psc : Nat, op = 0x11 → quantLegal core b = true →
      let q := quantCmd b
      let nin := q.cols * (q.inWidth / 8)
      let nout := q.cols * q.outWidth / 8
      let nsc := schemeBytes q.scheme
      q.rows = 1 → q.cols ≤ schemeLen q.scheme → q.amaxEn = false → q.cols * q.outWidth % 8 = 0 → at_ q.inPtr nin pin → at_ q.outPtr nout pout →
      at_ q.scalePtr nsc psc → (pout + nout ≤ psc ∨ psc + nsc ≤ pout) → s.clean pin nin = true →
      ∀ fi, efmtOf q.inFmt = some fi →
      let xs := (List.range q.cols).map (fun i => decodeElem fi (nat_ s pin nin / 2 ^ (q.inWidth * i) % 2 ^ q.inWidth))
      let r := quantBlock q.scheme q.outFmt q.sr q.ieee
        (fun e => srBits (s.srKeyOf core) q.tensor ((q.index + BitVec.ofNat 64 e) &&& 0xFFFFFFFFFFFF#64) c.step) xs
      ∃ t, exec (.vxQuant core) s = .next t ∧
        worked t (some (q.monPtr, (QMon.start.add r).record q.sr s.sec.arithRev)) none ∧
        (∀ i < q.cols, nat_ t pout nout / 2 ^ (q.outWidth * i) % 2 ^ q.outWidth = r.codes.getD i 0 % 2 ^ q.outWidth) ∧
        (q.scheme ≠ 0 → nat_ t psc nsc = r.scale % 256 ^ nsc) ∧
        (∀ x, (x < pout ∨ pout + nout ≤ x) → (x < psc ∨ psc + nsc ≤ x) → t.byteAt x = s.byteAt x)) ∧
    (∀ pout : Nat, op = 0x12 → acombLegal core b = true →
      let q := acombCmd b
      let nout := q.dim * (q.outWidth / 8)
      q.heads = 1 → q.writeMl = false → q.empty = 0 → at_ q.out nout pout →
      (∀ st ∈ q.stackTemps, ∃ p, at_ (q.partAddr st 0) (16 + 4 * q.dim) p ∧ s.clean p (16 + 4 * q.dim) = true) →
      ∀ fo, efmtOf q.outFmt = some (.fp fo) →
      let ps : List Partial := q.stackTemps.map (fun st =>
        let a := q.partAddr st 0
        ⟨s.localNat core a 4, s.localNat core (a + 4) 4, elemsOf 32 q.dim (s.localNat core (a + 16) (4 * q.dim))⟩)
      let row : (Nat → Nat) → W64 → Prop := fun code word => ∃ t, exec (.vxAcomb core) s = .next t ∧ worked t none (some word) ∧
        (∀ i < q.dim, nat_ t pout nout / 2 ^ (fo.width * i) % 2 ^ fo.width = code i % 2 ^ fo.width) ∧
        (∀ x, (x < pout ∨ pout + nout ≤ x) → t.byteAt x = s.byteAt x)
      (ps.any Partial.bad = true → row (fun _ => encodeIeee fo .nan) (summaryWord 0 ⟨false, true, false, false⟩ 0 11 1)) ∧
      (ps.any Partial.bad = false →
        (combineHead q.dim ps = none → row (fun _ => 0) (summaryWord 1 ⟨true, false, false, false⟩ 0 11 0)) ∧
        (∀ m l o, combineHead q.dim ps = some (m, l, o) →
          row (fun i => acombCode fo (fdiv (decodeFp fmtFP32 (o.getD i 0)) (decodeFp fmtFP32 l))) (summaryWord 0 ⟨false, false, false, false⟩ 0 11 1)))) ∧
    (∀ pm : Nat, op = 0x13 → topfLegal core b = true →
      let n := fieldN b 4 4
      let rows := fieldN b 0x0C 2
      let nm := 2 * ((n + 15) / 16)
      at_ (fieldN b 0x20 8) nm pm → s.clean pm nm = true →
      (∀ i < rows, ∃ p, at_ (fieldN b 0x10 8 + i * fieldN b 0x18 4) (4 * n) p ∧ s.clean p (4 * n) = true) →
      let chosen : Nat → Nat → Bool := fun i j =>
        (topMask (fieldN b 8 4) ((elemsOf 32 n (s.localNat core (fieldN b 0x10 8 + i * fieldN b 0x18 4) (4 * n))).map (decodeFp fmtFP32))).getD j false
      ∃ t, exec (.vxTopf core) s = .next t ∧ worked t none none ∧
        (∀ j < 8 * nm, (t.byteAt (pm + j / 8)).getLsbD (j % 8) =
          ((s.byteAt (pm + j / 8)).getLsbD (j % 8) || (List.range rows).any (fun i => decide (j < n) && chosen i j))) ∧
        (∀ x, (x < pm ∨ pm + nm ≤ x) → t.byteAt x = s.byteAt x))

/-! ### The matrix engine (R44, R48, R66, R67, R71, R82 to R97, R103 to R106) -/

/-- MX.CLEAR, MX.LOADACC, MX.ADDACC and MX.READ at the head of the matrix queue (R66, R104, R105): the pairs, status words and bytes they write. A loaded pair is not pinned, the model's
choice of log 113. The command stays in the queue with its status until it completes. Source rows and the row written lie in the core's local windows. A matrix command completes in queue order: its status word is what SUMR reads, is ORed into what fn 2 reads, and goes to STATUS_PTR when it has one (R106). MX_DRAINED (R71, Table 18.5): firmware's setting of a cluster is a bit of its register, and takes effect on an engine that holds no command, while no trip has halted the dies (R480). -/
def Obligations.MatrixCommandsWork : Prop :=
  (∀ (s : State) (core : Core) (b : List Byte) (st0 : W32) (rest : List MxEntry),
     s.enginesBegin core = true → (s.core core).matQ = ⟨b, false, st0, none⟩ :: rest →
     let c := s.core core
     let f1 := fieldN b 1 1
     let acc := f1 % 4
     let rows := fieldN b 4 2
     let queued : State → Nat → Prop := fun t st => (t.core core).matQ = ⟨b, true, BitVec.ofNat 32 st, none⟩ :: rest ∧ (t.core core).vregs = c.vregs ∧
       (t.core core).sregs = c.sregs ∧ (∀ k, k ≠ core.val → t.core k = s.core k) ∧ t.ten.ctxs = s.ten.ctxs
     (fieldN b 0 1 = 4 → f1 < 16 → fieldZero b 2 62 = true → ∃ t, exec (.mxClear core) s = .next t ∧ queued t 0 ∧ t.mem = s.mem ∧
       (∀ a i j, a < 4 → i < 16 → j < 16 → (t.core core).pair a i j = if bitN f1 a then Pair.zero else c.pair a i j) ∧
       (∀ a < 4, (t.core core).accWord a = if bitN f1 a then 0 else c.accWord a)) ∧
     (fieldN b 0 1 = 5 ∨ fieldN b 0 1 = 6 → f1 < 8 → (fieldN b 0 1 = 5 → f1 < 4) → fieldZero b 2 2 = true → fieldZero b 6 2 = true → fieldZero b 0x0C 12 = true →
       fieldZero b 0x20 32 = true → 1 ≤ rows → rows ≤ 16 → ∀ p : Nat → Nat,
       (∀ i < rows, localPhys core (fieldN b 0x18 8 + i * fieldN b 8 4) 128 = some (p i) ∧ s.clean (p i) 128 = true) →
       let hi : Nat → Nat → W32 := fun i j => BitVec.ofNat 32 (leNat ((List.range 4).map (fun x => s.byteAt (p i + 8 * j + x))))
       let lo : Nat → Nat → W32 := fun i j => BitVec.ofNat 32 (leNat ((List.range 4).map (fun x => s.byteAt (p i + 8 * j + 4 + x))))
       let added : Nat → Nat → Pair := fun i j => (pairAdd (bitN f1 2) (pairAdd (bitN f1 2) (c.pair acc i j) (f32Val (hi i j))).1 (f32Val (lo i j))).1
       let others : State → Prop := fun t => t.mem = s.mem ∧
         (∀ a i j, a < 4 → i < 16 → j < 16 → a ≠ acc ∨ rows ≤ i → (t.core core).pair a i j = c.pair a i j) ∧ (∀ a < 4, a ≠ acc → (t.core core).accWord a = c.accWord a)
       (fieldN b 0 1 = 5 → ∃ t, exec (.mxLoadacc core) s = .next t ∧ queued t 0 ∧ others t ∧ (t.core core).accWord acc = 0 ∧
         (∀ i j, i < rows → j < 16 → (t.core core).pair acc i j = ⟨hi i j, lo i j, false⟩)) ∧
       (fieldN b 0 1 = 6 → ∃ t, exec (.mxAddacc core) s = .next t ∧ queued t ((t.core core).accWord acc) ∧ others t ∧
         (∀ i j, i < rows → j < 16 → (t.core core).pair acc i j = added i j))) ∧
     (∀ p : Nat, fieldN b 0 1 = 3 →
       let f2 := fieldN b 2 1
       let fmt := f2 % 4
       let step := fieldN b 3 1 % 4 + 1
       let first := fieldN b 3 1 / 4 % 2
       let e := outSize fmt
       f1 < 16 → f2 < 16 → fieldN b 3 1 < 8 → step ≤ 2 → rows = 1 → fieldN b 0x20 8 < 2 ^ 48 → fieldZero b 0x3A 6 = true → fieldN b 0x30 8 = 0 →
       localPhys core (fieldN b 0x18 8) (e * (first + 15 * step + 1)) = some p →
       let sr : Nat → Option Nat := fun n => if bitN f2 2 then
         some (srBits (s.srKeyOf core) (BitVec.ofNat 32 (fieldN b 0x14 4)) (BitVec.ofNat 64 ((fieldN b 0x20 8 + n) % 2 ^ 48)) c.step) else none
       let out : Nat → List Byte := fun j => if bitN (fieldN b 0x38 2) j then zeroBytes e
         else (readElem c acc 0 j fmt (BitVec.ofNat 32 (fieldN b 0x0C 4)) (BitVec.ofNat 32 (fieldN b 0x10 4)) (bitN f2 3) (sr (first + j * step))).1
       ∃ t, exec (.mxRead core) s = .next t ∧ (∃ st, queued t st) ∧
         (∀ j < 16, ∀ x < e, t.byteAt (p + e * (first + j * step) + x) =
           if bitN (fieldN b 6 2) j then (out j).getD x 0 else s.byteAt (p + e * (first + j * step) + x)) ∧
         (∀ x, x < p ∨ p + e * (first + 15 * step + 1) ≤ x → t.byteAt x = s.byteAt x) ∧
         (∀ i j, i < 16 → j < 16 → (t.core core).pair acc i j = if bitN f1 2 then Pair.zero else c.pair acc i j))) ∧
  (∀ (s : State) (core : Core) (e : MxEntry) (rest : List MxEntry) (p : Nat),
     s.enginesRun core = true → (s.core core).matQ = e :: rest →
     let c := s.core core
     let ptr := if fieldN e.block 0 1 = 2 then fieldN e.block 0x28 8 else if fieldN e.block 0 1 = 3 then fieldN e.block 0x30 8 else 0
     (e.run = false → exec (.mxCommandComplete core) s = .next s) ∧
     (e.run = true → ∃ t, exec (.mxCommandComplete core) s = .next t ∧
       t.core core = { c with matQ := rest, lastMx := e.status, orMx := c.orMx ||| e.status, mxOut := mxOutPop c.mxOut } ∧ (∀ k, k ≠ core.val → t.core k = s.core k) ∧
       (ptr = 0 → t.mem = s.mem) ∧
       (localPhys core ptr 4 = some p → (∀ i < 4, t.byteAt (p + i) = e.status.extractLsb' (8 * i) 8) ∧
         (∀ x, x < p ∨ p + 4 ≤ x → t.byteAt x = s.byteAt x)))) ∧
  (∀ (s : State) (cluster : Cluster) (core : Core) (drained : Bool), s.power.tripped = false →
     let n := cluster.val
     let r : Nat → W64 := fun k => s.reg (offMxDrained k)
     (∃ t, exec (.mxDrained cluster drained) s = .next t ∧
       (∀ i < 64, (t.reg (offMxDrained (n / 64))).getLsbD i = if i = n % 64 then drained else (r (n / 64)).getLsbD i) ∧
       (∀ a, a ≠ offMxDrained (n / 64) → t.reg a = s.reg a) ∧ t.cores = s.cores ∧ t.mem = s.mem) ∧
     exec (.mxDrainedTakeEffect core) s = .next (if (s.core core).matQ = [] then
       s.setCore core { s.core core with drained := (r (core.val / 128 / 64)).getLsbD (core.val / 128 % 64) } else s))

/-- MX.PASS (R67, R38, R42 to R44, R48): with M = 0 it completes at once and changes nothing; with the loaded weights and formats without scales, pair (i, j) of the
accumulator takes the contributions of activation row i to column j in ascending block order, from zero when CLEAR is set, and rows at
or beyond M keep their values. -/
def Obligations.MatrixPassAddsContributions : Prop :=
  ∀ (s : State) (core : Core) (b : List Byte) (st0 : W32) (rest : List MxEntry),
    s.enginesBegin core = true → (s.core core).matQ = ⟨b, false, st0, none⟩ :: rest → fieldN b 0 1 = 1 →
    let c := s.core core
    let f1 := fieldN b 1 1
    let acc := f1 % 4
    let fmt := fieldN b 2 1 % 16
    let m := fieldN b 4 2
    let kv := fieldN b 6 2
    f1 < 64 → bitN f1 4 = true → fieldN b 3 1 = 0 → fieldZero b 0x28 24 = true → pairLegal fmt (fieldN b 2 1 / 16) 0 = true → fieldZero b 8 4 = true →
    1 ≤ kv → kv ≤ kPass fmt → c.weights.loaded = true → c.weights.wfmt = fmt → c.weights.scheme = 0 → c.weights.axis = false → c.weights.slice = 0 →
    (m = 0 → (∃ q, localPhys core (fieldN b 0x10 8) 1 = some q) → exec (.mxPass core) s = .next (s.setCore core { c with matQ := ⟨b, true, BitVec.ofNat 32 (c.accWord acc), none⟩ :: rest })) ∧
    (∀ (p : Nat → Nat) (fa : EFmt), 1 ≤ m → m ≤ 16 → efmtOf (fieldN b 2 1 / 16) = some fa →
      let nb := (kv * efmtWidth fa + 7) / 8
      (∀ i < m, localPhys core (fieldN b 0x10 8 + i * fieldN b 0x0C 4) nb = some (p i) ∧ s.clean (p i) nb = true) →
      let elems : Nat → List FNum := fun i => (List.range kv).map (fun k =>
        decodeElem fa (leNat ((List.range nb).map (fun x => s.byteAt (p i + x))) / 2 ^ (efmtWidth fa * k) % 2 ^ efmtWidth fa))
      let start : Nat → Nat → Pair := fun i j => if bitN f1 2 then Pair.zero else c.pair acc i j
      ∃ t, exec (.mxPass core) s = .next t ∧ t.mem = s.mem ∧ t.ten.ctxs = s.ten.ctxs ∧ (∀ k, k ≠ core.val → t.core k = s.core k) ∧
        (t.core core).matQ = ⟨b, true, BitVec.ofNat 32 ((t.core core).accWord acc), none⟩ :: rest ∧ (t.core core).weights = c.weights ∧
        (∀ i j, i < m → j < 16 → (t.core core).pair acc i j =
          ((rowContribs c.weights 16 ⟨elems i, []⟩ j).foldl (fun q x => (pairContrib (bitN f1 5) q x).1) (start i j))) ∧
        (∀ i j, m ≤ i → i < 16 → j < 16 → (t.core core).pair acc i j = start i j) ∧
        (∀ a i j, a < 4 → a ≠ acc → i < 16 → j < 16 → (t.core core).pair a i j = c.pair a i j))

/-- MX.GROUP of one unit, and the merge of a strip cut in two (R82, R85 to R94): with one row, one column and one part, BF16 without scales and FP32 out, the element at C
is the readout of the contribution a·w, and merging adds the second segment's partial, hi first, to the first one, which is
taken as not pinned (the model's choice, log 113). Tables, operands and C lie in the core's local windows. -/
def Obligations.GroupWalkerComputesAnElement : Prop :=
  ∀ (s : State) (core : Core) (b : List Byte) (st0 : W32) (rest : List MxEntry) (pt pa pc pd : Nat),
    s.enginesBegin core = true → (s.core core).matQ = ⟨b, false, st0, none⟩ :: rest → fieldN b 0 1 = 2 →
    let nat_ : Nat → Nat → Nat := fun p n => leNat ((List.range n).map (fun x => s.byteAt (p + x)))
    let raw := (List.range 96).map (fun x => s.byteAt (pt + x))
    let e := groupEntry 0 raw
    let w32 : Nat → W32 := fun p => BitVec.ofNat 32 (nat_ p 4)
    fieldZero b 2 2 = true → fieldN b 4 2 = 1 → fieldN b 6 2 = 0 → fieldN b 8 2 = 1 → fieldZero b 0x0A 2 = true → fieldZero b 0x0C 4 = true → fieldN b 0x10 8 % 32 = 0 →
    fieldZero b 0x24 4 = true → fieldZero b 0x28 8 = true → fieldZero b 0x30 16 = true →
    localPhys core (fieldN b 0x10 8) 96 = some pt → s.clean pt 96 = true → groupLegal core raw = true →
    e.m = 1 → e.n = 1 → e.wfmt = 8 → e.afmt = 8 → e.scheme = 0 → e.outfmt = 0 → e.axis = false → e.sr = false → e.up = false → e.down = false → e.select = false →
    localPhys core e.c 4 = some pc →
    let wrote : State → W32 → W32 → Prop := fun t hi lo => (∃ st, (t.core core).matQ = ⟨b, true, st, none⟩ :: rest) ∧
      leNat ((List.range 4).map (fun x => t.byteAt (pc + x))) = (readPair ⟨hi, lo, false⟩ e.tsA e.tsW 0 e.ieee none).code % 2 ^ 32 ∧
      (∀ x, x < pc ∨ pc + 4 ≤ x → t.byteAt x = s.byteAt x) ∧ (∀ i j, i < 16 → j < 16 → (t.core core).pair 0 i j = Pair.zero) ∧
      (∀ k, k ≠ core.val → t.core k = s.core k) ∧ t.ten.ctxs = s.ten.ctxs
    (∀ pw : Nat, fieldN b 1 1 = 0 → e.k = 1 → e.split = false → e.ieee = true → localPhys core e.a 2 = some pa → s.clean pa 2 = true → localPhys core e.wdir 64 = some pd →
      s.clean pd 64 = true → nat_ pd 8 % 32 = 0 → nat_ (pd + 0x10) 3 = 0 → localPhys core (nat_ pd 8) 512 = some pw → s.clean pw 512 = true →
      let p := (pairContrib true Pair.zero (contribution [blockSum [fmul (decodeFp fmtBF16 (nat_ pa 2)) (decodeFp fmtBF16 (nat_ pw 2))],
        .fin false 1 1 0, .fin false 1 1 0])).1
      ∃ t, exec (.mxGroup core) s = .next t ∧ wrote t p.hi p.lo) ∧
    (∀ ps : Nat, fieldN b 1 1 = 2 → 17 ≤ e.k → e.k ≤ 32 → e.split = true → e.splitNnz = 256 → e.ieee = true → localPhys core e.wdir 128 = some pd → s.clean pd 128 = true →
      bitN (nat_ (pd + 0x12) 1) 0 = false → bitN (nat_ (pd + 0x52) 1) 0 = false →
      localPhys core e.seg 16384 = some ps → s.clean ps 16384 = true →
      let p := (pairAdd true (pairAdd true ⟨w32 ps, w32 (ps + 4), false⟩ (f32Val (w32 (ps + 8192)))).1 (f32Val (w32 (ps + 8196)))).1
      p.pinned = false → ∃ t, exec (.mxGroupMerge core) s = .next t ∧ wrote t p.hi p.lo)

/-! ### DMA commands (R135, R151, Table 4.12) -/

/-- The engine begins a COPY, FILL or ATOMIC that is alone in its queue, legal and all on this package: one of at most 2,048 bytes is sent as one request, which
takes the core's next number, and with whether the context's map allowed its sides then (R135, R151, R414). A request of such a command, which its packets have carried to its end (R17), lands (R135, R147, Table 4.12): a COPY moves its bytes, a FILL writes its pattern aligned to the 8-byte words of memory, an ATOMIC
writes its new word and puts the old one at RESULT_PTR; the command leaves the queue, and every other byte stays. Source and destination lie in the
core's local windows. -/
def Obligations.DmaRequestsAreSentAndLand : Prop :=
  (∀ (s : State) (core : Core) (b : List Byte),
     s.enginesBegin core = true → (s.core core).dmaQ = [⟨b, false, 0, []⟩] → s.outstanding core < 384 →
     dmaFields core b = true → s.dmaTargets b = true →
     let c := s.core core
     let n := if fieldN b 0 1 = 0x22 then 1 else fieldN b 4 4
     let sent : Instr → Prop := fun i => ∃ t, exec i s = .next t ∧
       t.core core = { c with dmaQ := [⟨b, true, n, [⟨c.dmaNext, 0, n, .sent, s.dmaMapped core b 0 n⟩]⟩], dmaNext := c.dmaNext + 1 } ∧ (∀ j, j ≠ core.val → t.core j = s.core j) ∧
       t.mem = s.mem ∧ t.regs = s.regs ∧ t.ten = s.ten
     (∀ a d, fieldN b 0 1 = 0x21 → n ≤ 2048 → s.side (fieldN b 8 8) = .here a → s.side (fieldN b 0x10 8) = .here d → pieceGrid (fieldN b 8 8) = none →
       pieceGrid (fieldN b 0x10 8) = none → sent (.dmaCopy core)) ∧
     (∀ d, fieldN b 0 1 = 0x23 → n ≤ 2048 → s.side (fieldN b 0x10 8) = .here d → pieceGrid (fieldN b 0x10 8) = none → sent (.dmaFill core)) ∧
     (∀ d, fieldN b 0 1 = 0x22 → s.side (fieldN b 0x10 8) = .here d →
       (fieldN b 1 1 % 8 = 0 → sent (.atomicAdd core)) ∧ (fieldN b 1 1 % 8 = 1 → sent (.atomicMin core)) ∧ (fieldN b 1 1 % 8 = 2 → sent (.atomicMax core)) ∧
       (fieldN b 1 1 % 8 = 3 → sent (.atomicAnd core)) ∧ (fieldN b 1 1 % 8 = 4 → sent (.atomicOr core)) ∧ (fieldN b 1 1 % 8 = 5 → sent (.atomicXchg core)) ∧
       (fieldN b 1 1 % 8 = 6 → sent (.atomicCas core)))) ∧
  (∀ (s : State) (core : Core) (ctx id n : Nat) (b : List Byte) (d : Nat) (mapped : Bool),
     s.enginesRun core = true → s.coreCtx core = some ctx → (s.core core).dmaQ = [⟨b, true, n, [⟨id, 0, n, .sent, mapped⟩]⟩] →
     s.net.carries core id = false →
     let wide := bitN (fieldN b 1 1) 3
     let k := if wide then 8 else 4
     let len := if fieldN b 0 1 = 0x22 then k else n
     n = (if fieldN b 0 1 = 0x22 then 1 else fieldN b 4 4) →
     s.side (fieldN b 0x10 8) = .here (fieldN b 0x10 8) → localPhys core (fieldN b 0x10 8) len = some d →
     let done : State → Prop := fun t => exec (.dmaRequestComplete core id) s = .next t ∧ t.core core = { s.core core with dmaQ := [] } ∧
       (∀ j, j ≠ core.val → t.core j = s.core j) ∧ t.ten.ctxs = s.ten.ctxs
     (∀ a, fieldN b 0 1 = 0x21 → s.side (fieldN b 8 8) = .here (fieldN b 8 8) → localPhys core (fieldN b 8 8) n = some a → s.clean a n = true → ∃ t, done t ∧
       (∀ i < n, t.byteAt (d + i) = s.byteAt (a + i)) ∧ (∀ x, x < d ∨ d + n ≤ x → t.byteAt x = s.byteAt x)) ∧
     (fieldN b 0 1 = 0x23 → ∃ t, done t ∧ (∀ i < n, t.byteAt (d + i) = BitVec.ofNat 8 (fieldN b 8 8 / 256 ^ ((fieldN b 0x10 8 + i) % 8))) ∧
       (∀ x, x < d ∨ d + n ≤ x → t.byteAt x = s.byteAt x)) ∧
     (∀ r, fieldN b 0 1 = 0x22 → localPhys core (fieldN b 0x18 8) k = some r → (r + k ≤ d ∨ d + k ≤ r) → s.clean d k = true → fieldN b 1 1 % 8 ≤ 6 →
       let old := leNat ((List.range k).map (fun i => s.byteAt (d + i)))
       let x := fieldN b 8 8 % 2 ^ (8 * k)
       let lt : Nat → Nat → Prop := fun p q => if bitN (fieldN b 1 1) 4 then intOf (8 * k) p < intOf (8 * k) q else p < q
       ∃ t new, done t ∧ leNat ((List.range k).map (fun i => t.byteAt (d + i))) = new ∧ leNat ((List.range k).map (fun i => t.byteAt (r + i))) = old ∧
         (∀ y, (y < d ∨ d + k ≤ y) → (y < r ∨ r + k ≤ y) → t.byteAt y = s.byteAt y) ∧
         (fieldN b 1 1 % 8 = 0 → new = (old + x) % 2 ^ (8 * k)) ∧ (fieldN b 1 1 % 8 = 1 → (lt x old → new = x) ∧ (¬ lt x old → new = old)) ∧
         (fieldN b 1 1 % 8 = 2 → (lt old x → new = x) ∧ (¬ lt old x → new = old)) ∧ (fieldN b 1 1 % 8 = 3 → new = old &&& x) ∧
         (fieldN b 1 1 % 8 = 4 → new = old ||| x) ∧ (fieldN b 1 1 % 8 = 5 → new = x) ∧
         (fieldN b 1 1 % 8 = 6 → new = if old = fieldN b 0x20 8 % 2 ^ (8 * k) then x else old)))

/-! ### Setup registers (R383, R386, R397, R404, R486 to R497) -/

/-- A register write is stored or refused (R261, R265, R386, R433, R478, R488): inside its limits the value stands and every other register stays; outside them the register is
unchanged, SETUP_ERR of the writing function holds the offset, one more refused write and VALID, and no context faults. A refused write of the upper 4 bytes records its own offset
(Table 18.3). That THROTTLE_T, the three watchdog registers and MEM_REQ_LIMIT refuse a value outside the range their rules give is the model's choice (log 93), as are the widths of 4-byte writes. -/
def Obligations.RegisterWritesAreStoredOrRefused : Prop :=
  ∀ (s : State) (fn : Fn) (v : W64) (c : Ctx) (e : Fin 4) (k : Fin 6),
    s.barOpen fn = true → s.sec.boot = .running →
    let n := v.toNat
    let stored : Nat → Nat → Nat → Prop := fun f off x => ∃ t, exec (.registerWrite fn off 8 v) s = .next t ∧
      t.reg (f * 2 ^ 25 + off) = BitVec.ofNat 64 x ∧ (∀ b, b ≠ f * 2 ^ 25 + off → t.reg b = s.reg b) ∧ t.ten = s.ten ∧ t.mem = s.mem
    let refused : Instr → Nat → Nat → Prop := fun i f off => ∃ t, exec i s = .next t ∧
      (let err := (s.reg (f * 2 ^ 25 + 0x20)).toNat / 2 ^ 32 % 2 ^ 16;
       t.reg (f * 2 ^ 25 + 0x20) = BitVec.ofNat 64 (off + min (err + 1) 0xFFFF * 2 ^ 32 + 2 ^ 63)) ∧
      (∀ b, b ≠ f * 2 ^ 25 + 0x20 → t.reg b = s.reg b) ∧ t.ten = s.ten ∧ t.mem = s.mem
    let wrt : Nat → Instr := fun off => .registerWrite fn off 8 v
    (fn = 0 →
      (n < 128 → if 60 ≤ n ∧ n ≤ 105 then stored 0 0x30008 n else refused (wrt 0x30008) 0 0x30008) ∧
      (n < 2 ^ 16 → if 1 ≤ n ∧ n ≤ 60000 then stored 0 0xB0000 n ∧ stored 0 0xB0008 n else refused (wrt 0xB0000) 0 0xB0000 ∧ refused (wrt 0xB0008) 0 0xB0008) ∧
      (n < 2 ^ 20 → if 1000 ≤ n ∧ n ≤ 600000 then stored 0 0xB0010 n else refused (wrt 0xB0010) 0 0xB0010) ∧
      (if 1000000 ≤ n ∧ n ≤ 3600000000000 ∧ n % 1000000 = 0 then stored 0 0xB0020 n else refused (wrt 0xB0020) 0 0xB0020) ∧
      (n < 2 ^ 17 → let off := 0x40040 + 0x1000 * c.val;
        if 1 ≤ n ∧ n ≤ 65536 then stored 0 off n else refused (wrt off) 0 off) ∧
      (let x := (s.reg 0xB0020).toNat % 2 ^ 32 + n % 2 ^ 32 * 2 ^ 32
       let upper : Instr := .registerWrite fn 0xB0024 4 v
       if 1000000 ≤ x ∧ x ≤ 3600000000000 ∧ x % 1000000 = 0 then
         ∃ t, exec upper s = .next t ∧ t.reg 0xB0020 = BitVec.ofNat 64 x ∧ (∀ b, b ≠ 0xB0020 → t.reg b = s.reg b) ∧ t.ten = s.ten
       else refused upper 0 0xB0024)) ∧
    (∀ i < 8, let off := 0x208 + 0x40 * i;
      n < 2 ^ 17 → (s.sqEnabled fn i = false ∧ (∃ j ≤ 10, n = 2 ^ (6 + j)) → stored fn off n) ∧
        (s.sqEnabled fn i = true ∨ (∀ j ≤ 10, n ≠ 2 ^ (6 + j)) → refused (wrt off) fn off)) ∧
    (let off := 0x40080 + 0x1000 * c.val + 8 * (6 * e.val + k.val);
      s.pf0Open = true → n < 2 ^ 21 →
        (n ≤ 1048576 → s.vats.waiting = [] → ∃ t, exec (.vatQuotaWrite c e k v) s = .next t ∧ t.reg off = v ∧ (∀ b, b ≠ off → t.reg b = s.reg b) ∧
          t.vats = s.vats ∧ t.ten = s.ten) ∧
        (1048576 < n → refused (.vatQuotaWrite c e k v) 0 off))

/-- Accesses of a wrong shape, and writes at a reserved offset, are ignored and counted (R383); before firmware runs only the recovery registers and the MSI-X table act, and a pool, quota or
ACCT_CTL command writes nothing (R490). That this holds in every phase of boot before firmware runs, and not in recovery mode alone, is the model's choice (log 86). Clear registers and the registers that hold a highest or lowest value (R489): a 1 sets the counters to 0 together, but one that an increment of the same step reaches reads 1;
a 0 written to the field of a highest or lowest register takes the current value, whatever its RSVD bits (R7), and any other value does nothing. That FAB_CNT_CLR also sets the queues' high-water
marks to 0 is the model's choice (log 96). RING_EN (R386, R387): with a write-back block set, enabling a submission ring with its completion ring sets both rings' counts to 0 and writes their write-back words 0; a
submission ring whose completion ring stays disabled is refused. A pool register that keeps every limit, with no vat held and no request waiting, is stored and every list is built afresh over the registers; with a vat held it is refused (R261, R262,
R496). -/
def Obligations.SetupWritesHaveTheirEffects : Prop :=
  (∀ (s : State) (fn : Fn) (off size : Nat) (v : W64), s.barOpen fn = true →
     (s.sec.boot = .running →
       (size ≠ 4 ∧ size ≠ 8) ∨ off % size ≠ 0 ∨ s.readBar fn (off / 8 * 8) = none →
       ∃ t, exec (.registerWrite fn off size v) s = .next t ∧
         t.reg (fn.val * 2 ^ 25 + 0x28) = BitVec.ofNat 64 (min ((s.reg (fn.val * 2 ^ 25 + 0x28)).toNat + 1) (2 ^ 48 - 1)) ∧
         (∀ b, b ≠ fn.val * 2 ^ 25 + 0x28 → t.reg b = s.reg b) ∧ t.ten = s.ten ∧ t.mem = s.mem ∧ t.host = s.host) ∧
     (s.sec.boot ≠ .running → recoveryReg fn (off / 8 * 8) = false → (off / 8 * 8 < 0xA000 ∨ 0xA400 ≤ off / 8 * 8) →
       exec (.registerWrite fn off size v) s = .next s) ∧
     (s.sec.boot ≠ .running → (∀ k f, exec (.vatPoolConfig k f v) s = .next s) ∧ (∀ c e k, exec (.vatQuotaWrite c e k v) s = .next s) ∧ exec (.acctCtl v) s = .next s)) ∧
  (∀ (s : State) (cluster : Cluster) (off : Nat) (v : W64) (same : List Nat), s.pf0Open = true →
     let cleared : Instr → (Nat → Bool) → Prop := fun i is => ∃ t, exec i s = .next t ∧
       (∀ a, is a = true → t.reg a = if a ∈ same then 1 else regReset a) ∧ (∀ a, is a = false → t.reg a = s.reg a) ∧ t.ten = s.ten ∧ t.mem = s.mem
     (v.getLsbD 0 = true →
       cleared (.conflictClr cluster v same) (isConflictCtr cluster) ∧ cleared (.fabCntClr v same) isFabCtr) ∧
     (v.getLsbD 0 = false → exec (.conflictClr cluster v same) s = .next s ∧ exec (.fabCntClr v same) s = .next s) ∧
     (∀ cur, s.tracked off = some cur →
       let field := v.toNat % 2 ^ (if off < 0xA0000 then 21 else 48)
       (field = 0 → ∃ t, exec (.highestLowestReset off v) s = .next t ∧ t.reg off = BitVec.ofNat 64 cur ∧ ∀ a, a ≠ off → t.reg a = s.reg a) ∧
       (field ≠ 0 → exec (.highestLowestReset off v) s = .next s))) ∧
  (∀ (s : State) (fn : Fn) (i : Ring), s.barOpen fn = true → s.sec.boot = .running → s.press.wiping = [] → (s.reg (fn.val * 2 ^ 25 + 0x100)) = 0 →
     let a := fn.val * 2 ^ 25
     let wb := (s.reg (a + 0x108)).toNat
     (wb ≠ 0 → ∃ t, exec (.ringEn fn (BitVec.ofNat 64 (2 ^ i.val + 2 ^ (8 + i.val)))) s = .next t ∧
       t.reg (a + 0x100) = BitVec.ofNat 64 (2 ^ i.val + 2 ^ (8 + i.val)) ∧ (∀ b, b ≠ a + 0x100 → t.reg b = s.reg b) ∧
       (t.ring fn i).head = 0 ∧ (t.ring fn i).tail = 0 ∧ (t.ring fn i).cqTail = 0 ∧ (t.ring fn i).cqHead = 0 ∧ (t.ring fn i).fetched = [] ∧
       t.host.pcieOut = s.host.pcieOut ++ [.write fn (wb + 8 * i.val) (zeroBytes 8), .write fn (wb + 0x40 + 8 * i.val) (zeroBytes 8)] ∧ t.ten = s.ten) ∧
     (∃ t, exec (.ringEn fn (BitVec.ofNat 64 (2 ^ i.val))) s = .next t ∧ t.reg (a + 0x100) = 0 ∧ (t.reg (a + 0x20)).getLsbD 63 = true ∧
       (t.reg (a + 0x20)).toNat % 2 ^ 25 = 0x100 ∧ t.host = s.host ∧ t.ten = s.ten)) ∧
  (∀ (s : State) (k : Fin 6) (f : PoolField) (v : W64),
     let a := (poolReg k f).1
     let s1 := s.setRegN a (v.toNat &&& (poolReg k f).2)
     s.pf0Open = true →
     (s.vats.held = [] → s.vats.waiting = [] → s1.poolsLegal = true → ∃ t, exec (.vatPoolConfig k f v) s = .next t ∧ t.reg a = s1.reg a ∧
       (∀ j < 6, (t.pool j).sram = ⟨[], 0, (s1.reg (offPoolBytes j)).toNat / vatSize j⟩ ∧ (t.pool j).ovf = ⟨[], 0, (s1.reg (offOvfCount j)).toNat⟩ ∧ (t.pool j).lost = 0)) ∧
     (s.vats.held ≠ [] → ∃ t, exec (.vatPoolConfig k f v) s = .next t ∧ t.vats = s.vats ∧ (t.reg 0x20).getLsbD 63 = true ∧ (t.reg 0x20).toNat % 2 ^ 25 = a ∧
       ∀ b, b ≠ 0x20 → t.reg b = s.reg b))

/-- SLOT_SEL, VF_RESET, the MSI-X unmask, ACCT_CTL and FAB_PORT_CTL (R278, R281, R397, R403, R437, R493): SLOT_DATA takes the whole record or zeros; each VF named begins its
reset; a vector is unmasked and its pending message goes out; EN starts at count 0; a port begins to train, or goes to Disabled from whatever state it is in (from Up its lanes are 0 and its
queues empty), and is refused without a position. That the pending message is sent whatever MSI-X Enable holds is the model's choice (log 5). -/
def Obligations.OperationRegistersAct : Prop :=
  ∀ (s : State) (fn : Fn) (v : W64) (vec : Fin 64) (p : Port), s.barOpen fn = true → s.sec.boot = .running →
    (let n := v.toNat % 2 ^ 14
     ∃ t, exec (.slotSel fn v) s = .next t ∧ t.reg (fn.val * 2 ^ 25 + 0x800) = BitVec.ofNat 64 n ∧
       (∀ w < 8, t.reg (fn.val * 2 ^ 25 + 0x840 + 8 * w) = if s.maySee fn n then BitVec.ofNat 64 (s.slotWord n w) else 0) ∧ t.seq = s.seq ∧ t.ten = s.ten) ∧
    (fn = 0 → (∃ t, exec (.vfReset v) s = .next t ∧ ∀ f, f < 64 →
      (f ∈ t.host.resetting ↔ f ∈ s.host.resetting ∨ (f ≠ 0 ∧ s.fnExists f = true ∧ v.getLsbD f = true)))) ∧
    (let k := 64 * fn.val + vec.val
     let e := tabGet MsixEntry.reset s.host.msix k
     ∃ t, exec (.msixVectorUnmask fn vec) s = .next t ∧ tabGet MsixEntry.reset t.host.msix k = { e with masked := false } ∧
       (∀ j, j ≠ k → tabGet MsixEntry.reset t.host.msix j = tabGet MsixEntry.reset s.host.msix j) ∧
       (k ∈ s.host.pba → s.host.resetting.contains fn.val = false →
         t.host.pba = setDel s.host.pba k ∧ t.host.pcieOut = s.host.pcieOut ++ [.msix fn vec]) ∧
       (k ∉ s.host.pba → t.host.pba = s.host.pba ∧ t.host.pcieOut = s.host.pcieOut)) ∧
    (s.pf0Open = true → ∃ t, exec (.acctCtl v) s = .next t ∧ t.reg 0xB0028 = BitVec.ofNat 64 (v.toNat % 2) ∧
      (v.toNat % 2 = 1 → (s.reg 0xB0028).getLsbD 0 = false → t.reg 0xB0040 = 0) ∧ (∀ a, a ≠ 0xB0028 → a ≠ 0xB0040 → t.reg a = s.reg a)) ∧
    (fn = 0 → v.getLsbD 0 = false →
      ((s.port p).phase = .up → ∃ t, exec (.fabPortCtl p v) s = .next t ∧ (t.port p).phase = .disabled) ∧
      ((s.port p).phase ≠ .disabled → ((s.port p).phase = .up → (s.port p).queues = []) → ∃ t, exec (.fabPortCtl p v) s = .next t ∧
        t.reg (0xA0100 + 8 * p.val) = 0 ∧ (∀ a, a ≠ 0xA0100 + 8 * p.val → t.reg a = s.reg a) ∧ (t.port p).phase = .disabled ∧ (t.port p).queues = (s.port p).queues ∧
        ((s.port p).phase = .up → (t.port p).lanes = 0) ∧ (∀ j, j ≠ p.val → t.port j = s.port j) ∧ t.fab.linkDirty = true ∧ t.ten = s.ten)) ∧
    (fn = 0 → (s.port p).phase = .disabled →
      (∀ q, s.fab.pos = some q → q.1 ≤ 384 → s.lcState ≠ 1 → s.canTrain p = true → v.getLsbD 0 = true →
        ∃ t, exec (.fabPortCtl p v) s = .next t ∧ t.reg (0xA0100 + 8 * p.val) = 1 ∧ (t.port p).phase = .training ∧ ∀ j, j ≠ p.val → t.port j = s.port j) ∧
      (s.fab.pos = none → v.getLsbD 0 = true → ∃ t, exec (.fabPortCtl p v) s = .next t ∧ (t.port p).phase = .disabled ∧ (t.reg 0x20).getLsbD 63 = true ∧
        t.fab = s.fab) ∧
      (v.getLsbD 0 = false → ∃ t, exec (.fabPortCtl p v) s = .next t ∧ t.reg (0xA0100 + 8 * p.val) = 0 ∧ t.fab = s.fab))

/-! ### The Presses (R166 to R169, R187 to R195) -/

/-- ATTENTION (R187 to R191) writes the partial of every query head at PART_PTR + s·STRIDE_S + h·STRIDE_H, from the keys of the Press's own stack, and nothing else of memory;
ATTENTION_DONE (R190) then adds 1 at DONE_PTR and the command leaves the queue. Stated for a context whose clusters are held and for error-free memory. -/
def Obligations.AttentionWritesPartials : Prop :=
  ∀ (s : State) (p : Stack) (q : PressCmd) (x : CtxState), s.sound = true → s.ctx? q.ctx = some x → x.phase = .active → x.savedRows = false → x.heldWrites = [] →
    let a := attnCmd q.bytes
    let c := q.ctx
    (∀ (lq : List Piece) (w : Nat → Nat) (mask : List Byte) (rest : List PressCmd), s.pressQueue p = q :: rest → q.ran = false → fieldN q.bytes 0 1 = 0x31 → attnFields q.bytes = true →
      s.packageAccess c a.q (a.heads * a.group * a.d) false = .pieces lq → s.meetsUnheld lq = false →
      (if a.masked = true ∧ a.first < a.last then
        (∀ l o, addrForm a.maskP ≠ .cluster l o) ∧ ∃ lm, s.packageAccess c a.maskP ((a.last - a.first + 7) / 8) false = .pieces lm ∧ s.meetsUnheld lm = false ∧ mask = s.pieceBytes lm
      else mask = []) →
      (∀ h < a.heads * a.group, ∃ f, s.packageAccess c (a.part + p.val * a.strideS + h * a.strideH) (16 + 4 * a.d) true = .pieces [(f, w h, 16 + 4 * a.d)]) →
      (∀ h < a.heads * a.group, ∀ k < a.heads * a.group, h < k → w h + (16 + 4 * a.d) ≤ w k ∨ w k + (16 + 4 * a.d) ≤ w h) →
      runsTo s (.attention p) (fun t =>
        (∀ h < a.heads * a.group, t.readPhys (w h) (16 + 4 * a.d) =
          partialBytes ((s.attnScan p a (s.pieceBytes lq) (s.attnKeys p a mask)).1.getD h ⟨0, 0, []⟩)) ∧
        s.sameOutside t ((List.range (a.heads * a.group)).map (fun h => (w h, 16 + 4 * a.d))) ∧
        t.pressQueue p = { q with ran := true } :: rest ∧ t.cores = s.cores ∧ t.ten.ctxs = s.ten.ctxs)) ∧
    (∀ (f w : Nat) (rest : List PressCmd), s.pressQueue p = q :: rest → q.ran = true → s.packageAccess c a.done 8 true = .pieces [(f, w, 8)] → s.meetsUnheld [(f, w, 8)] = false →
      runsTo s (.attentionDone p) (fun t => t.readPhys w 8 = leBytes 8 (leNat (s.readPhys w 8) + 1) ∧ s.sameOutside t [(w, 8)] ∧ t.pressQueue p = rest ∧
        t.cores = s.cores ∧ t.ten.ctxs = s.ten.ctxs))

/-- The patrol scrub (R164 to R167) counts what it corrects, and poisons and logs a word it cannot; a flat remap (R168) copies the failed frame to its replacement, which from then on
serves, and board flash records it. TILE.PACK and TILE.UNPACK (R193 to R195) of one tile, without errors or remaps, whose outputs overlap no input: the tile is read as its directory entry says, its new form (`packTile`) is written at OUT_DATA with its
entry at OUT_DIR, the status says one tile and its bytes, or overflow with nothing written when it does not fit below OUT_LIMIT; the command leaves the queue. The tile's TILE_PTR is 32-byte aligned; what becomes of one that is not is log 128's. -/
def Obligations.PressMaintenanceKeepsData : Prop :=
  (∀ (s : State) (p : Stack) (word : Nat), memWf s.mem = true → s.sound = true → 32 * word < 3 * 2 ^ 35 →
     let frame := 32 * word / 65536
     exec (.patrolScrub p word .none) s = .next s ∧
     runsTo s (.patrolScrub p word .corrected) (fun t => t.reg (0x90200 + 8 * p.val) = BitVec.ofNat 64 (min ((s.reg (0x90200 + 8 * p.val)).toNat + 1) (2 ^ 48 - 1)) ∧
       (∀ b, b ≠ 0x90200 + 8 * p.val → t.reg b = s.reg b) ∧ t.mem = s.mem ∧ t.dramPoison = [] ∧ t.ten = s.ten) ∧
     runsTo s (.patrolScrub p word .uncorrectable) (fun t => t.reg (0x90280 + 8 * p.val) = BitVec.ofNat 64 (min ((s.reg (0x90280 + 8 * p.val)).toNat + 1) (2 ^ 48 - 1)) ∧
       (t.reg (0x90480 + 8 * p.val)).toNat % 2 ^ 23 = frame + s.regionOf p frame * 2 ^ 21 ∧ t.mem = s.mem ∧
       (s.regionOf p frame ≠ 2 → t.dramPoison = [(p.val * 2 ^ 37 + 32 * word) / 32]) ∧
       (∀ e, s.regionOf p frame = 3 → s.entryOf p frame = some e → e ∈ t.press.marks)) ∧
     (∀ r f, (s.remapsOf p).find? (fun r => r.repl.isSome && !r.ready) = some r → r.repl = some f → (∀ y ∈ s.remapsOf p, y.frame = r.frame → y = r) → f < 1572864 → r.frame < 1572864 →
       runsTo s (.flatRemapComplete p) (fun t => (∀ i < 65536, t.byteAt (p.val * 2 ^ 37 + f * 65536 + i) = s.byteAt (p.val * 2 ^ 37 + r.frame * 65536 + i)) ∧
         s.sameOutside t [(p.val * 2 ^ 37 + f * 65536, 65536)] ∧ t.servedFrame p r.frame = f ∧
         t.sec.flash.remaps = s.sec.flash.remaps ++ [(p.val, r.frame, f)] ∧ t.ten = s.ten))) ∧
  (∀ (s : State) (p : Stack) (q : PressCmd) (rest : List PressCmd) (x : CtxState) (di pd po pe pw fw : Nat),
     let t := tileCmd q.bytes
     let c := q.ctx
     let b := cellBytes t.fmt
     let d := s.readPhys di 64
     let sparse := (fieldN d 0x12 1).testBit 0
     let n := if sparse then 32 + fieldN d 0x14 2 * b else 256 * b
     let raw := s.readPhys pd n
     let packed := packTile (t.op = 0x32) t.fmt (fieldN d 0x10 2) (if sparse then sparseCells (fieldN d 0x10 2) (fieldN d 0x14 2) b raw else raw)
     let out := packed.1
     s.sound = true → s.pressQueue p = q :: rest → q.ran = false → s.ctx? c = some x → x.phase = .active → x.savedRows = false → (t.op = 0x32 ∨ t.op = 0x33) → t.count = 1 →
     (∀ i ∈ [(t.inDir, 64), (fieldN d 0 8, n)], ∀ o ∈ [(t.data, out.length), (t.outDir, 64)], i.1 + i.2 ≤ o.1 ∨ o.1 + o.2 ≤ i.1) → s.inStack p t.data 1 = true → s.ownStack p c t.inDir 64 false = some [(t.inDir, di, 64)] → fieldN d 0 8 % 32 = 0 →
     s.ownStack p c (fieldN d 0 8) n false = some [(fieldN d 0 8, pd, n)] → s.meetsUnheld [(t.inDir, di, 64), (fieldN d 0 8, pd, n)] = false →
     s.ownStack p c t.data out.length true = some [(t.data, po, out.length)] → s.ownStack p c t.outDir 64 true = some [(t.outDir, pe, 64)] →
     s.packageAccess c t.status 16 true = .pieces [(fw, pw, 16)] →
     (po + out.length ≤ pe ∨ pe + 64 ≤ po) → (pw + 16 ≤ po ∨ po + out.length ≤ pw) → (pw + 16 ≤ pe ∨ pe + 64 ≤ pw) →
     runsTo s (if t.op = 0x32 then .tilePack p else .tileUnpack p) (fun u => u.pressQueue p = rest ∧ u.cores = s.cores ∧ u.ten.ctxs = s.ten.ctxs ∧
       (out.length ≤ t.limit →
         u.readPhys po out.length = out ∧
         u.readPhys pe 64 = leBytes 8 t.data ++ (d.drop 8).take 10 ++ leBytes 1 packed.2.1.toNat ++ [0] ++ leBytes 2 packed.2.2 ++ zeroBytes 10 ++ d.drop 0x20 ∧
         u.readPhys pw 16 = leBytes 8 (1 + 2 ^ 63) ++ leBytes 8 out.length ∧ s.sameOutside u [(po, out.length), (pe, 64), (pw, 16)]) ∧
       (t.limit < out.length → u.readPhys pw 16 = leBytes 8 (2 ^ 32 + 2 ^ 63) ++ leBytes 8 0 ∧ s.sameOutside u [(pw, 16)])))

/-! ### Sequences (R199 to R217, R124, R139) -/

/-- The four sequence descriptors at the head of a ring (R213 to R217): SEQ.ADMIT queues a Free slot with the fields of Table 7.5; SEQ.RETIRE frees a Queued slot and sets LEAVE of a
Running or Suspended one; SEQ.MODIFY and SEQ.STEP wait for the next boundary. Each is accepted, also while a boundary of the context runs (R203): its ring's head goes up by one, and the record of
one that is complete at once is owed until that boundary ends (R210). No other slot changes. SEQ.MODIFY sets SUSP_REQ of its slot when it is accepted, of a Suspended slot too: the model's choice (log 10). -/
def Obligations.SequenceDescriptorsAreTaken : Prop :=
  ∀ (s : State) (fn : Fn) (ring : Ring) (b : List Byte) (cx : CtxState),
    s.headDesc fn ring = some b → s.ctx? fn = some cx → cx.phase = .active →
    let op := fieldN b 0 1
    let x := fieldN b 8 2
    let v := s.slot x
    let q := s.seqCtx fn
    let d : DescRef := ⟨fn, ring, BitVec.ofNat 8 op, BitVec.ofNat 32 (fieldN b 4 4)⟩
    let flags := fieldN b 1 1
    let taken : State → Prop := fun t => (t.ring fn ring).head = (s.ring fn ring).head + 1 ∧ (∀ y, y ≠ x → t.slot y = s.slot y) ∧ t.mem = s.mem
    (op = 0x43 ∨ (x < 2 ^ 14 ∧ s.slotIn fn x = true)) →
    (op = 0x40 → flags.testBit 0 = false → admitFields b = true → v = .free →
      leadsTo s (.seqAdmit fn ring) (fun t => taken t ∧ (t.seqCtx fn).queue = q.queue ++ [⟨x, d, false, fieldN b 0x14 4⟩] ∧
        t.slot x = { Slot.free with
          st := 1, keep := flags.testBit 1, inQueue := true, ctx := fn, adapterEn := flags.testBit 2, adapter := fieldN b 0x0A 2, advance := fieldN b 0x0C 2,
          group := fieldN b 0x0E 2, tp := fieldN b 0x10 2, placeDiv := fieldN b 0x12 2, maxLen := fieldN b 0x18 4, queuedAt := s.now, tag := d.tag, ring := ring })) ∧
    (op = 0x40 → flags.testBit 0 = true → resumeFields b = true → v.st = 3 → v.inQueue = false → (if v.released then fieldN b 0x14 4 ≤ v.maxLen else fieldN b 0x14 4 = 0) →
      leadsTo s (.seqAdmit fn ring) (fun t => taken t ∧ (t.seqCtx fn).queue = q.queue ++ [⟨x, d, true, fieldN b 0x14 4⟩] ∧
        t.slot x = { v with inQueue := true, tag := d.tag, queuedAt := s.now, ring := ring })) ∧
    (op = 0x41 → fieldZero b 1 3 = true → fieldZero b 0x0A 54 = true →
      (v.st = 1 → leadsTo s (.seqRetire fn ring) (fun t => taken t ∧ t.slot x = .free ∧ (t.seqCtx fn).queue = q.queue.filter (fun e => e.slot != x) ∧
        (t.seqCtx fn).owed = q.owed ++ (if s.seq.boundary = some fn.val then [⟨d, 2, x, v.length, v.chain.length⟩] else []))) ∧
      (v.st = 2 ∨ v.st = 3 → v.leave = false →
        leadsTo s (.seqRetire fn ring) (fun t => taken t ∧ t.slot x = { v with leave := true, inQueue := false, retire := some d } ∧
          (t.seqCtx fn).queue = q.queue.filter (fun e => e.slot != x)))) ∧
    (op = 0x42 → flags < 128 → fieldZero b 2 2 = true → fieldN b 0x0C 2 < 4096 → fieldZero b 0x0F 49 = true → (v.st = 2 ∨ v.st = 3) →
      leadsTo s (.seqModify fn ring) (fun t => taken t ∧ (t.seqCtx fn).modifies = q.modifies ++ [(d, b)] ∧ t.slot x = { v with suspReq := v.suspReq || flags.testBit 1 })) ∧
    (op = 0x43 → s.stepFields fn b = true →
      leadsTo s (.seqStep fn ring) (fun t => (t.ring fn ring).head = (s.ring fn ring).head + 1 ∧ t.seq.slots = s.seq.slots ∧ t.mem = s.mem ∧
        (t.seqCtx fn).steps = q.steps ++ [⟨d, b, s.seq.nextOrder⟩] ∧ t.seq.nextOrder = s.seq.nextOrder + 1))

/-- The step boundary of a due context with an empty join queue, no modification and no stop bitmap (R203 to R208): a slot that is to leave, or that would pass its MAX_LEN, is
Retiring; every other Running slot grows by ADVANCE and holds the pages of its new length, or is suspended or retired for want of them; a Suspended slot stays; slots of
other contexts stay; and the batch list holds an entry of every Running slot in ascending order, with FIRST_TOK its old length. That SUSP_REQ of a Suspended slot is clear afterwards is the
model's choice (log 10). -/
def Obligations.BoundariesRetireAndGrow : Prop :=
  ∀ (s : State) (c : Ctx) (r : StepReq) (rest : List StepReq) (cx : CtxState), tabWf Slot.free s.seq.slots = true → s.press.free.length = 12 →
    s.seq.boundary = none → s.ctx? c = some cx → cx.phase = .active → s.pressesQuiet c = true → (s.seqCtx c).steps = r :: rest → (s.seqCtx c).inStep = none →
    (∀ k < 64, k ≠ c.val → s.due k = true → s.stepOrder c < s.stepOrder k) → (s.seqCtx c).queue = [] → (s.seqCtx c).modifies = [] → fieldN r.bytes 0x28 8 = 0 →
    runsTo s (.stepBoundary c) (fun t =>
      t.seq.boundary = some c.val ∧ (t.seqCtx c).inStep = some r ∧ (t.seqCtx c).steps = rest ∧ t.seq.batch = (t.running c).length ∧
      (∀ x, (s.slot x).ctx ≠ c.val → t.slot x = s.slot x) ∧
      (∀ x, (s.slot x).ctx = c.val →
        let v := s.slot x
        let w := t.slot x
        let passes := v.maxLen ≠ 2 ^ 32 - 1 ∧ v.maxLen < v.length + v.advance
        (v.st = 2 ∨ v.st = 3 → v.leave = true → w.st = 4 ∧ w.chain = []) ∧
        (v.st = 3 → v.leave = false → w = { v with suspReq := false }) ∧
        (v.st = 2 → v.leave = false → passes → w.st = 4 ∧ w.chain = []) ∧
        (v.st = 2 → v.leave = false → ¬passes → (w.st = 2 ∨ w.st = 3 ∨ w.st = 4) ∧
          (w.st = 2 → w.length = v.length + v.advance ∧ w.chain.take v.chain.length = v.chain ∧ w.chain.length = max v.chain.length (v.pages w.length)) ∧
          (w.st = 3 → if v.keep then w.length = v.length ∧ w.chain = v.chain else w.length = 0 ∧ w.chain = []))) ∧
      (∀ f w, s.press.remaps = [] → t.running c ≠ [] → s.packageAccess c (fieldN r.bytes 0x18 8) (16 * (t.running c).length) true = .pieces [(f, w, 16 * (t.running c).length)] →
        t.readPhys w (16 * (t.running c).length) = (t.running c).flatMap (fun x =>
          let v := t.slot x
          leBytes 2 x ++ leBytes 1 (if v.adapterEn then 4 else 0) ++ leBytes 1 v.epoch ++ leBytes 2 v.adapter ++ zeroBytes 2 ++ leBytes 4 (s.slot x).length ++ leBytes 4 v.length)))

/-- The end of a boundary (R217, R124), with no weight load and no torn-down context waiting: Retiring slots become Free; a step with BOUNDARY_ONLY completes; any other launches every core of
its CLUSTERS clusters at ENTRY with s1, s2 and STEP as R124 says, and each store holds the copy of the descriptor with the batch count. The records that waited for the end of the boundary are
posted (R210), so that none is owed. TRAP (R139, R217): code 0 ends the core's part, another code stops the core and marks the step; when every core of the launch has done either, the step completes. The program counter and
every register stay, and no other core changes. Sequence-state requests that have come to the core's home Press (R180, R181): for a slot the context may write, the page's ledger entry gives the stack and frame; a FILL writes there and a COPY reads there. While a
boundary of the context runs, the request waits. -/
def Obligations.LaunchesStartAndEnd : Prop :=
  (∀ (s : State) (c : Nat) (r : StepReq) (cx : CtxState), tabWf Slot.free s.seq.slots = true → s.seq.boundary = some c → s.ctx? c = some cx → cx.phase = .active →
     (s.seqCtx c).inStep = some r → s.seq.tornDown = [] → s.press.failed = none → s.whl.epochs = [.free, .free, .free, .free] → s.whl.adapters = [] → cx.clusters.Nodup →
     tabWf CoreState.reset s.cores = true → (∀ f, (s.backlogOf f).length + (s.seqCtx c).owed.length < 65536) →
     let b := r.bytes
     let cl := cx.clusters.take (fieldN b 0x0C 2)
     (∀ k ∈ cl, (s.cluster k).wiping = false) →
     runsTo s .boundaryComplete (fun t => t.seq.boundary = none ∧ (t.seqCtx c).owed = [] ∧
       (∀ x, t.slot x = if (s.slot x).ctx = c ∧ (s.slot x).st = 4 then Slot.free else s.slot x) ∧
       (fieldN b 1 1 % 2 = 1 → (t.seqCtx c).inStep = none ∧ t.cores = s.cores ∧ t.mem = s.mem) ∧
       (fieldN b 1 1 % 2 = 0 → (t.seqCtx c).inStep = some r ∧ (t.seqCtx c).launched = true ∧
         (∀ j k, cl[j]? = some k → 
           (b.length = 64 → (List.range 64).map (fun i => t.byteAt (2 ^ 42 + k * 2 ^ 22 + 0x3FFFC0 + i)) = b.take 0x20 ++ leBytes 4 s.seq.batch ++ b.drop 0x24) ∧
           ∀ i < 128, let e := t.core (128 * k + i); let o := s.core (128 * k + i)
             e.run = .running ∧ e.wait = .none ∧ e.pc = BitVec.ofNat 64 (fieldN b 0x10 8) ∧ e.step = BitVec.ofNat 32 (fieldN b 8 4) ∧ e.preds = 0 ∧ e.vl = 0 ∧
             e.sreg 1 = 0x80000000013FFFC0 ∧ e.sreg 2 = BitVec.ofNat 64 (128 * j + i) ∧ (∀ g : R5, g ≠ 1 → g ≠ 2 → e.sreg g = 0) ∧
             e.vregs = o.vregs ∧ e.acc = o.acc ∧ e.weights = o.weights ∧ e.summary = o.summary) ∧
         (∀ n, coreCluster n ∈ cx.clusters → coreCluster n ∉ cl → t.core n = { s.core n with run := .idle }) ∧
         (∀ n, coreCluster n ∉ cx.clusters → t.core n = s.core n)))) ∧
  (∀ (s : State) (core : Core) (imm : Imm) (c : Nat) (cx : CtxState), s.executes core = true → s.coreCtx core = some c → s.ctx? c = some cx →
     tabWf CoreState.reset s.cores = true → (∀ f, (s.backlogOf f).length < 65535) →
     let q := s.seqCtx c
     let others := s.cores.any (fun e => e.1 != core.val && cx.clusters.contains (coreCluster e.1) && (e.2.run == .running || e.2.run == .stopped))
     leadsTo s (.trap core false imm) (fun t =>
       t.core core = { s.core core with run := if imm = 0 then .finished else .trapped } ∧ (∀ j, j ≠ core.val → t.core j = s.core j) ∧ t.mem = s.mem ∧
       (q.launched = false ∨ others = true → (t.seqCtx c).inStep = q.inStep ∧ (t.seqCtx c).trapped = (q.trapped || imm != 0)) ∧
       (q.launched = true → others = false → q.inStep ≠ none → (t.seqCtx c).inStep = none ∧ (t.seqCtx c).launched = false ∧ (t.seqCtx c).trapped = false))) ∧
  (∀ (s : State) (core : Core) (c id n x page o e : Nat) (b : List Byte) (m : Nat) (granted : Bool), s.sound = true → s.enginesRun core = true → s.coreCtx core = some c →
     (s.core core).dmaQ = [⟨b, true, m, [⟨id, 0, n, .sent, granted⟩]⟩] → s.net.carries core id = false → 1 ≤ n → o + n ≤ 65536 →
     let w := s.ledgerWord e
     let a := w.toNat / 2 ^ 21 % 16 * 2 ^ 37 + w.toNat % 2 ^ 21 * 65536 + o
     (s.slot x).st = 2 → (s.slot x).ctx = c → (s.slot x).chain[page]? = some e → ledgerValid w = true → ledgerOwner w = x → w.toNat / 2 ^ 21 % 16 < 12 → s.press.failed = none →
     e ∉ s.press.badPrimary →
     (s.seq.boundary = some c → exec (.seqStateAccess core id) s = .next s) ∧
     (s.seq.boundary ≠ some c →
       (fieldN b 0 1 = 0x23 → fieldN b 4 4 = n → s.side (fieldN b 0x10 8) = .seq x page o → (∀ k ∈ s.memop.slots, k.2.owner ≠ .dma core id) →
         leadsTo s (.seqStateAccess core id) (fun t => (∀ i < n, t.byteAt (a + i) = BitVec.ofNat 8 (fieldN b 8 8 / 256 ^ ((fieldN b 0x10 8 + i) % 8))) ∧
           s.sameOutside t [(a, n)] ∧ t.ten.ctxs = s.ten.ctxs ∧ (∀ j, j ≠ core.val → t.core j = s.core j))) ∧
       (∀ d, fieldN b 0 1 = 0x21 → fieldN b 4 4 = n → s.side (fieldN b 8 8) = .seq x page o → s.side (fieldN b 0x10 8) = .here d →
         leadsTo s (.seqStateAccess core id) (fun t => t.core core = { s.core core with dmaQ := [⟨b, true, m, [⟨id, 0, n, .fetched (s.readPhys a n), granted⟩]⟩] } ∧
           t.mem = s.mem ∧ t.ten.ctxs = s.ten.ctxs ∧ (∀ j, j ≠ core.val → t.core j = s.core j)))))

/-! ### The Dealer (R221 to R256, R299 to R303) -/

/-- DEAL.TRICK at the window (R221 to R236, R239, R252, R254): an accepted trick leaves the window, scores its tokens against the gate, deals and places their hands (or reads them back, for a
replay), writes every hand record's header, IDS and SEL_W, and waits at barrier 1 with its dispatched cards counted. Stated for a context that holds its clusters and for error-free memory. -/
def Obligations.TricksAreDealt : Prop :=
  ∀ (s : State) (c : Ctx) (w : WindowCmd) (cx : CtxState) (wh : Nat → Nat),
    s.sound = true → s.windowCmd c opTrick = some w → s.ctx? c = some cx → cx.phase = .active → cx.savedRows = false → cx.heldWrites = [] → cx.clusters.length = cx.count →
    s.inFlight c < 16 → (∀ d ∈ s.deal.dirsets, d.1.fn ≠ c.val) → trickFields w.bytes = true →
    let a := trickCmd w.bytes
    (∀ t, s.trick? c a.id = some t → t.live = false) → s.readable c a.layer 64 = true →
    let layer := s.view c a.layer 64
    let l := layerRec layer
    layerFields layer a.x a.ldx = true → s.dirInRange c l = true → s.readable c a.member (4 * a.members) = true →
    let mt := s.view c a.member (4 * a.members)
    let ms := (List.range a.members).map (fun i => (fieldN mt (4 * i) 4 % 2 ^ 15, fieldN mt (4 * i) 4 / 2 ^ 15 % 2 ^ 6))
    (ms.filter (fun m => s.isSelf m.1 && m.2 == c.val)).length = 1 → (∀ m ∈ ms, m.1 < 24640) →
    let es := elemSize l.gfmt
    let dir : Nat → List Byte := fun d => s.view c d 64
    let tiles := l.tileRefs.map (fun d => gateElems l.gfmt 256 (s.view c (fieldN (dir d) 0 8) (256 * es)))
    let z : Nat → List Nat := fun i => (List.range l.e).map (fun e => (l.logit a.tsX (gateElems l.gfmt l.hdim (s.view c (a.x + i * a.ldx) (l.hdim * es))) (l.column tiles e)).1)
    let bias := s.view c l.bias (if l.biasEn then 4 * l.e else 0)
    let hands := (List.range a.t).map (fun i =>
      if a.replay then s.placeHand l ms.eraseDups (l.k + l.a) i (readHand (l.k + l.a) (s.view c (a.hand + 256 * i) 256))
      else s.placeHand l ms.eraseDups l.k i (l.dealHand ((List.range l.e).map (fun e => fieldN bias (4 * e) 4)) (z i)))
    (a.replay = false → 0 < a.t → s.readable c l.bias (if l.biasEn then 4 * l.e else 0) = true ∧
      (∀ d ∈ l.tileRefs, s.readable c d 64 = true ∧ fieldN (dir d) 0x12 1 % 2 = 0 ∧ fieldN (dir d) 0x10 2 = 0 ∧ fieldN (dir d) 0 8 % 32 = 0 ∧
        s.readable c (fieldN (dir d) 0 8) (256 * es) = true) ∧ ∀ i < a.t, s.readable c (a.x + i * a.ldx) (l.hdim * es) = true) →
    (∀ i < a.t, s.readable c (a.pay + i * a.payLd) (a.payData + a.payScale) = true ∧ s.readable c (a.hand + 256 * i) 256 = true ∧
      ∃ f, s.packageAccess c (a.hand + 256 * i) 256 true = .pieces [(f, wh i, 256)]) →
    (∀ i < a.t, ∀ j < a.t, i < j → wh i + 256 ≤ wh j ∨ wh j + 256 ≤ wh i) →
    runsTo s (.dealTrick c) (fun t => t.deal.window = s.deal.window.erase w ∧
      t.trick? c a.id = some { s.trickOf c a.id with
        live := true, order := s.deal.nextOrder, cmd := w.bytes, layer := layer, members := ms.eraseDups, hands := hands,
        sent := (handsOutgoing hands 1).length, waitFrom := some s.now, stallFrom := some s.now } ∧
      (a.replay = false → ∀ i < a.t, ∀ h, hands[i]? = some h →
        t.readPhys (wh i) 8 = leBytes 8 (h.header l.k false) ∧ t.readPhys (wh i + 8) 40 = h.idBytes ∧ t.readPhys (wh i + 0x30) 80 = h.selBytes) ∧
      (a.replay = true → t.mem = s.mem) ∧ s.sameOutside t ((List.range a.t).map (fun i => (wh i, 256))) ∧ t.ten.ctxs = s.ten.ctxs)

/-- The cards of a hand without groups (R226, R228, R229): at most K + A distinct experts below E, in falling key order with the lower number first among equals; every expert left
out has a NaN key or one no larger than the last card's; and each card's weight is its own probability scaled by ROUTE_SCALE, after division by the sum of the first K cards' probabilities under NORM
when that sum is positive and finite. -/
def Obligations.HandsHoldTheTopExperts : Prop :=
  ∀ (l : Layer) (bias z : List Nat), l.groupEn = false → z.length = l.e → bias.length = l.e →
    let h := l.dealHand bias z
    let p := l.probs z
    let key : Nat → Nat := fun e => if l.biasEn then f32add (p.getD e 0) (bias.getD e 0) else p.getD e 0
    let less : Nat → Nat → Prop := fun x y => flt (decodeFp fmtFP32 x) (decodeFp fmtFP32 y) = true
    h.cards.length = l.k + l.a ∧
    (∀ i c, h.card? i = some c → c.expert < l.e ∧ f32isNan (key c.expert) = false ∧ c.sub = 0 ∧ c.whey = none ∧ ∀ j < i, ∃ d, h.card? j = some d) ∧
    (∀ i j c d, i < j → h.card? i = some c → h.card? j = some d → c.expert ≠ d.expert ∧ ¬ less (key c.expert) (key d.expert) ∧
      (¬ less (key d.expert) (key c.expert) → c.expert < d.expert)) ∧
    (∀ e < l.e, (∀ i c, h.card? i = some c → c.expert ≠ e) → f32isNan (key e) = true ∨ (h.nan = false ∧ ∀ i c, h.card? i = some c → ¬ less (key c.expert) (key e))) ∧
    (let total := ((List.range l.k).filterMap (fun i => (h.card? i).map (fun c => p.getD c.expert 0))).foldl f32add 0
     let divides := l.norm = true ∧ (decodeFp fmtFP32 total).isFin = true ∧ flt fzero (decodeFp fmtFP32 total) = true
     ∀ i c, h.card? i = some c →
      (divides → c.weight = BitVec.ofNat 32 (f32mul (f32div (p.getD c.expert 0) total) l.scale.toNat)) ∧
      (¬divides → c.weight = BitVec.ofNat 32 (f32mul (p.getD c.expert 0) l.scale.toNat)))

/-- Rows, notices and returns of a trick (R236 to R240, R248, R254, R300 to R303): the first piece of a row is staged in a vat and a later one joins it; a piece of a returned row is
written at its card's place; a notice is kept until its parts are complete; DEAL.RETURN starts the wait for the combine notices; a bundle is taken apart into the rows it holds; a stall is counted and
its TRICK_STALLED event stands on the context's completion ring 0, once for each barrier. -/
def Obligations.RowsNoticesAndReturnsLand : Prop :=
  ∀ (s : State) (p : Packet) (c : Ctx) (k : Trick) (cx : CtxState),
    s.sound = true → s.ctx? c = some cx → cx.phase = .active → cx.ending = none → cx.savedRows = false → cx.heldWrites = [] → cx.clusters.length = cx.count → p.dctx.toNat = c.val →
    let a := trickCmd k.cmd
    let l := layerRec k.layer
    let g := rowTag p
    let off := rowOffset p
    (p.typ = 0x30 → s.fab.inbox = [p] → s.isSelf p.final.toNat = true → s.trick? c g.id = some k → k.live = true → k.cap1 = false → k.noticed nkCount 1 = none → g.ret = false →
      let mine : StagedRow → Bool := fun r => r.src == g.orig && r.sctx == g.octx && r.token == g.token && r.card == g.card && r.sub == g.sub
      (∀ r, k.rows = [r] → mine r = true → r.vat.vat.ovf = false → max (a.payData + a.payScale) (off + p.payload.length) ≤ vatSize r.vat.vat.k →
        runsTo s .trickRow (fun t => t.fab.inbox = [] ∧ t.trick? c g.id = some { k with rows := [{ r with got := tabInsert r.got off p.payload }] } ∧ t.mem = s.mem)) ∧
      (k.rows.all (fun r => !mine r) = true → s.vats.waiting = [] → s.vats.hurt = [] → (∀ h, s.sec.home = some h → s.isSelf h = false) → s.vatFor c 0 (rowVatTag g) = none → s.vatAllowed c 0 (fitClass (a.payData + a.payScale)) = true →
        ∀ i, (s.pool (fitClass (a.payData + a.payScale))).sram.top = some i → s.vats.pools.length = 6 →
        let v : VatHold := ⟨⟨fitClass (a.payData + a.payScale), false, i⟩, c, 0, rowVatTag g⟩
        runsTo s .trickRow (fun t => t.fab.inbox = [] ∧ t.vats.held = s.vats.held ++ [v] ∧ t.mem = s.mem ∧
          t.trick? c g.id = some { k with rows := k.rows ++ [⟨g.orig, g.octx, g.token, g.card, g.sub, g.slot, [(off, p.payload)], v⟩] }))) ∧
    (p.typ = 0x30 → s.fab.inbox = [p] → s.isSelf p.final.toNat = true → s.trick? c g.id = some k → k.live = true → k.cap1 = true → (a.spill = true → k.phaseC = true ∧ k.cap2 = true) →
      k.phaseE = true → k.noticed nkCombine 1 = none → g.ret = true →
      g.token < a.t → g.card < l.k + l.a → off + p.payload.length ≤ a.outBytes → ∀ f w,
      s.packageAccess c (a.ret + (g.token * (l.k + l.a) + g.card) * a.outBytes + off) p.payload.length true = .pieces [(f, w, p.payload.length)] →
      runsTo s .trickRow (fun t => t.fab.inbox = [] ∧ t.readPhys w p.payload.length = p.payload ∧ s.sameOutside t [(w, p.payload.length)] ∧
        ∃ k', t.trick? c g.id = some k' ∧ k'.hands = k.hands ∧ ∃ r ∈ k'.back, r.token = g.token ∧ r.card = g.card ∧ tabFind r.got off = some p.payload.length)) ∧
    (let id : W32 := BitVec.ofNat 32 (pktOp p 0x10 4)
     let kind := pktOp p 0x14 1 % 4
     p.typ = 0x32 → s.fab.inbox = [p] → s.trick? c id = some k → k.live = true → k.cap1 = false → k.noticed nkCount 1 = none → k.notices = [] → kind = 0 → pktOp p 0x16 2 = 0 → pktOp p 0x18 2 = 1 →
      (∃ m ∈ k.members, m ≠ (p.src.toNat, p.sctx.toNat)) →
      runsTo s .trickNotice (fun t => t.fab.inbox = [] ∧ t.mem = s.mem ∧
        t.trick? c id = some { k with notices := [⟨p.src.toNat, p.sctx.toNat, 0, pktOp p 0x14 1 / 4 % 2 + 1, 1, [(0, p.payload)], pktOp p 0x1C 4⟩] })) ∧
    (∀ w, s.windowCmd c opReturn = some w → returnFields w.bytes = true → s.trick? c (BitVec.ofNat 32 (fieldN w.bytes 4 4)) = some k → k.ctx = c → k.live = true → k.cap1 = true →
      (a.spill = true → k.phaseC = true ∧ k.cap2 = true) → k.phaseE = true → k.returned = false → k.noticed nkCombine 1 = none →
      (∀ x ∈ k.placed, s.readable c (slotOut (k.record x.1.slot) + x.2 * slotOutLd (k.record x.1.slot)) a.outBytes = true) →
      runsTo s (.dealReturn c) (fun t => t.deal.window = s.deal.window.erase w ∧ t.mem = s.mem ∧
        t.trick? c (BitVec.ofNat 32 (fieldN w.bytes 4 4)) = some { k with returned := true, waitFrom := some s.now, stallFrom := some s.now })) ∧
    (∀ rows : List Packet, (∀ r ∈ rows, 1 ≤ r.payload.length ∧ r.payload.length ≤ 2048) → s.power.tripped = false → p.typ = 0x31 → s.fab.inbox = [p] → pktOp p 0x10 2 = rows.length →
      p.payload = rows.flatMap bundlePiece → exec .trickBundle s = .next (rows.foldl (fun u r => u.sendPiece (rowTag r) (rowOffset r) r.payload) (s.setInbox []))) ∧
    (∀ (id : W32) f, s.trick? c id = some k → k.ctx = c → k.id = id → k.live = true → k.barrierMet = false → k.stallFrom = some f → (s.reg 0xB0000).toNat * 1000000 < s.now - f →
      runsTo s (.trickStalled c id) (fun t => t.trick? c id = some { k with stallFrom := none } ∧ t.mem = s.mem ∧
        t.reg (0x40438 + 0x1000 * c.val) = BitVec.ofNat 64 (min ((s.reg (0x40438 + 0x1000 * c.val)).toNat + 1) (2 ^ 48 - 1)) ∧
        (s.canRecord c 0 = true → s.recorded t c 0 ([0x92, 0, 0x20, BitVec.ofNat 8 (128 + c.val)] ++ zeroBytes 4 ++ leBytes 8 id.toNat ++ leBytes 8 k.barrierNo ++ leBytes 8 s.now)))) ∧
    (∀ id : W32, s.trick? c id = some k → k.stallFrom = none → exec (.trickStalled c id) s = .next s)

/-- DEAL.DIRSET (R231, R255): with no trick of the context in flight its entries are written, [110:0] of each, and it completes; else it waits at the head of its ring, and is applied once the tricks
have ended. While it waits, the turn passes to the next ring of its function: the model's choice (log 121). -/
def Obligations.DirectoryUpdatesApply : Prop :=
  ∀ (s : State) (fn : Fn) (ring : Ring) (b : List Byte) (cx : CtxState),
    s.sound = true → s.headDesc fn ring = some b → s.ctx? fn = some cx → cx.phase = .active → fieldN b 0 1 = 0x58 → s.dirsetFields fn b = true →
    let f := fieldN b 8 4
    let n := fieldN b 0x0C 4
    let d : DescRef := ⟨fn, ring, 0x58, BitVec.ofNat 32 (fieldN b 4 4)⟩
    s.readable fn (fieldN b 0x10 8) (16 * n) = true →
    let applied : State → Prop := fun t => (t.ring fn ring).head = (s.ring fn ring).head + 1 ∧
      (∀ i < n, t.dirEntry (f + i) = BitVec.ofNat 128 (fieldN (s.view fn (fieldN b 0x10 8) (16 * n)) (16 * i) 16 % 2 ^ 111)) ∧
      (∀ e, e < f ∨ f + n ≤ e → t.dirEntry e = s.dirEntry e) ∧ t.mem = s.mem ∧ (∀ x ∈ t.deal.dirsets, x.1 ≠ d)
    (s.deal.dirsets = [] → s.inFlight fn = 0 → leadsTo s (.dealDirset fn ring) applied) ∧
    (s.deal.dirsets = [] → 0 < s.inFlight fn → exec (.dealDirset fn ring) s = .next { s.passTurn fn ring with deal := { s.deal with dirsets := [(d, b)] } }) ∧
    (s.deal.dirsets = [(d, b)] → s.inFlight fn = 0 → leadsTo s (.dirsetApply fn ring) applied)

/-! ### The fabric (R278 to R297) -/

/-- Streams (R280, R285, R293 to R297): the next packet of a stream for this package is handed to its block, and with it, in order, the early packets held behind it that it makes next; one that
comes early is held; a duplicate is not handed over again; a damaged packet is
discarded and counted, its copy on the way ends stomped if it had begun, and its room is returned; a packet for another package goes out at the port that routing gives; an ACK retires what it covers and ends the writes it covers; an ACK is sent with NEXT_SEQ and HELD; a packet
unacknowledged for 50 us goes again; and a peer with one unacknowledged for 4 ms is dead, with every request to it lost. That a discarded packet's room is returned at once and that its copy, if
begun, ends stomped are the model's choices (log 118). -/
def Obligations.StreamsDeliverOnceInOrder : Prop :=
  ∀ (s : State) (p : Port) (pkt : Packet) (peer : Pkg) (cls : PktClass),
    let g := pkt.src.toNat
    let k := pkt.vc.toNat / 2
    let r := (s.peer g).rxOf k
    let d := (pkt.seq - r.expected).toNat
    let count1 : State → Nat → Prop := fun t a => t.reg a = BitVec.ofNat 64 (min ((s.reg a).toNat + 1) (2 ^ 48 - 1))
    let leaves : State → Nat → Packet → Prop := fun u q x => (u.port q).phase = .up ∧ (u.port q).queue x.vc.toNat = [] ∧ (u.port q).hasRoom x = true
    (s.portUp p = true → s.fab.pos ≠ none → pkt.payload.length ≤ 2048 → s.takesIn p pkt = true → s.streamsRise = true →
      (∀ trailer : W32, trailer ≠ pktCrc pkt →
        runsTo s (.packetForward p pkt trailer) (fun t => count1 t ((if trailer = pktCrc pkt ^^^ 0xFFFFFFFF then 0xA0408 else 0xA0400) + 0x40 * p.val) ∧
          t.fab.inbox = s.fab.inbox ∧ t.fab.peers = s.fab.peers ∧ t.mem = s.mem ∧ t.ten.ctxs = s.ten.ctxs ∧ (s.fab.inBufs = [] → t.fab.inBufs = [] ∧ t.fab.creditsOut = s.fab.creditsOut ++ [(InBuf.mk p pkt).credit]) ∧
          (t.fab.wire = s.fab.wire ∨ ∃ q x det, endsHere pkt = false ∧ s.route pkt (s.port p).peer = .port q x det ∧ leaves s q x ∧ t.fab.wire = s.fab.wire ++ [⟨q, s.stampLeaving x, true⟩]))) ∧
      (pkt.mcast = false → pkt.dst.toNat = s.self → pkt.wasMcast = false → g ≠ s.self → seqClass pkt.typ.toNat = some k →
        (s.peer g).boot.all (fun b => b == pkt.srcBoot.toNat) = true →
        (d = 0 → r.early.length < 256 → (∀ i x, r.early[i]? = some x → x.seq = pkt.seq + 1 + BitVec.ofNat 32 i ∧ x.mcast = false) →
          runsTo s (.packetForward p pkt (pktCrc pkt)) (fun t => t.fab.inbox = s.fab.inbox ++ (pkt :: r.early).filter s.takes ∧
          (s.takes pkt = true → s.fab.inBufs = [] → t.fab.inBufs = [⟨p.val, pkt⟩]) ∧
          (t.peer g).rxOf k = { r with expected := r.expected + 1 + BitVec.ofNat 32 r.early.length, early := [], unAcked := r.unAcked + 1, since := some (r.since.getD s.now) } ∧ t.mem = s.mem)) ∧
        (0 < d → d < 256 → (∀ x ∈ r.early, x.seq ≠ pkt.seq) → s.reorderUsed + pktBytes pkt ≤ 2 ^ 24 →
          runsTo s (.packetForward p pkt (pktCrc pkt)) (fun t => t.fab.inbox = s.fab.inbox ∧ t.mem = s.mem ∧
            (t.peer g).rxOf k = { r with early := r.early ++ [pkt], unAcked := r.unAcked + 1, since := some (r.since.getD s.now) })) ∧
        (2 ^ 31 ≤ d → s.sec.home = none → runsTo s (.packetForward p pkt (pktCrc pkt)) (fun t => t.fab.inbox = s.fab.inbox ∧ count1 t 0xA0018 ∧ t.mem = s.mem ∧
          ((t.peer g).rxOf k).expected = r.expected))) ∧
      (∀ q x det, endsHere pkt = false → s.route pkt (s.port p).peer = .port q x det → leaves s q x →
        runsTo s (.packetForward p pkt (pktCrc pkt)) (fun t => t.fab.wire = s.fab.wire ++ [⟨q, s.stampLeaving x, false⟩] ∧ t.fab.inbox = s.fab.inbox ∧ t.mem = s.mem))) ∧
    (pkt.typ = 0x01 → s.fab.inbox = [pkt] → (s.peer g).dead = false → (∀ e ∈ s.fab.peers, ∀ x ∈ e.2.tx, x.2.waiting = []) →
      let a := pktOp pkt 0x14 1 % 4
      let cov : W32 → Bool := ackCovers (BitVec.ofNat 32 (pktOp pkt 0x10 4)) (pktOp pkt 0x18 8)
      runsTo s .ack (fun t => t.fab.inbox = [] ∧ ((t.peer g).txOf a).unacked = ((s.peer g).txOf a).unacked.filter (fun u => !cov u.pkt.seq) ∧ t.mem = s.mem ∧
        (∀ u ∈ ((s.peer g).txOf a).unacked, cov u.pkt.seq = true → a ≠ 1 → ∀ n x, u.slot = some n → tabFind s.memop.slots n = some x → x.peer = g → x.seq = some u.pkt.seq →
          (x.kind = 0x11 ∨ x.kind = 0x12) → tabFind t.memop.slots n = none))) ∧
    (let k := pktClassNum cls
     let r := (s.peer peer).rxOf k
     let u := s.unseen peer k
     let ackPkt := s.mkPacket 0x01 (if k = 3 then 3 else 1) peer 0 0 [(0x10, 4, (nextAck r u).toNat), (0x14, 1, k), (0x18, 8, heldBits r u)] []
     (r.unAcked = 0 → exec (.ackSend peer cls) s = .next s) ∧
     (r.unAcked ≠ 0 → runsTo s (.ackSend peer cls) (fun t => (t.peer peer).rxOf k = { r with unAcked := 0, since := none } ∧ t.mem = s.mem ∧
       ∀ q x det, (s.peer peer).dead = false → s.route ackPkt none = .port q x det → leaves s q x → t.fab.wire = s.fab.wire ++ [⟨q, s.stampLeaving x, false⟩]))) ∧
    (∀ (seq : W32) (u : SentPkt), ((s.peer peer).txOf (pktClassNum cls)).unacked = [u] → u.pkt.seq = seq → u.sent = true → 50000 ≤ s.now - u.last → u.pkt.mcast = false →
      runsTo s (.retransmit peer cls seq) (fun t => count1 t 0xA0010 ∧ t.mem = s.mem ∧
        ∀ q x det, s.route { u.pkt with retx := true } none = .port q x det → leaves s q x →
          t.fab.wire = s.fab.wire ++ [⟨q, s.stampLeaving x, false⟩] ∧ ((t.peer peer).txOf (pktClassNum cls)).unacked = [{ u with sent := true, last := s.now, again := true }])) ∧
    ((s.peer peer).dead = false → (∃ e ∈ (s.peer peer).tx, ∃ u ∈ e.2.unacked, 4000000 ≤ s.now - u.first) →
      runsTo s (.deadTarget peer) (fun t => (t.peer peer).dead = true ∧ (∀ k, ((t.peer peer).txOf k).unacked = [] ∧ ((t.peer peer).txOf k).waiting = []) ∧
        (∀ e ∈ t.memop.slots, e.2.peer ≠ peer.val) ∧
        s.sameOutside t ((s.memop.slots.filter (fun e => e.2.peer == peer.val)).flatMap (fun e => (s.lostPieces e.2).map (fun q => (q.2.1, q.2.2)))) ∧
        (∀ e ∈ s.memop.slots, e.2.peer = peer.val → ∀ x, s.ctx? e.2.ctx = some x → ∃ y, t.ctx? e.2.ctx = some y ∧ y.phase = .ending)))

/-- Ports and link states (R278, R279, R287, R290, R296): what training, loss of light, the retrain timer and returning credits do to a port, what a LINK_STATE tells and when one is
sent, and that a neighbour silent for 3 ms has every port Down. -/
def Obligations.PortsFollowTheirStates : Prop :=
  ∀ (s : State) (p : Port) (peer : Pkg) (pkt : Packet) (cause : DownCause) (vc : Vc) (units : Nat),
    let x := s.port p
    (x.phase = .training →
      runsTo s (.trainingComplete p .failed) (fun t => (t.port p).phase = .down ∧ (∀ q, q ≠ p.val → t.port q = s.port q) ∧ t.mem = s.mem ∧
        t.reg (0xA0420 + 0x40 * p.val) = BitVec.ofNat 64 (min ((s.reg (0xA0420 + 0x40 * p.val)).toNat + 1) (2 ^ 48 - 1))) ∧
      (∀ lower upper g, lower || upper → (p.val < 14 → s.expectedPeer p = some (BitVec.toNat g)) →
        runsTo s (.trainingComplete p (.trained lower upper g)) (fun t => (t.port p).phase = .up ∧ (t.port p).peer = some g.toNat ∧ (t.port p).upper = !lower ∧
          (t.port p).lanes = (if lower && upper && x.mayFull then 8 else 4) ∧ t.fab.linkDirty = true ∧ t.mem = s.mem)) ∧
      (∀ lower upper g, lower || upper → p.val < 14 → s.expectedPeer p ≠ some (BitVec.toNat g) →
        runsTo s (.trainingComplete p (.trained lower upper g)) (fun t => (t.port p).phase = .mismatch ∧ t.mem = s.mem))) ∧
    (x.phase = .up → runsTo s (.portDown p cause) (fun t => (t.port p).phase = .down ∧ (t.port p).lanes = 0 ∧ (t.port p).mayFull = false ∧ t.fab.linkDirty = true ∧ t.mem = s.mem ∧
      t.reg (0xA0420 + 0x40 * p.val) = BitVec.ofNat 64 (min ((s.reg (0xA0420 + 0x40 * p.val)).toNat + 1) (2 ^ 48 - 1)))) ∧
    (x.phase ≠ .up → exec (.portDown p cause) s = .next s) ∧
    (x.phase = .down → 100000000 ≤ s.now - x.since → p.val ∉ s.power.hotPorts → s.power.lasersOff = false → s.time.clockLost = false →
      runsTo s (.retrainTimer p) (fun t => (t.port p).phase = .training ∧ (∀ q, q ≠ p.val → t.port q = s.port q) ∧ t.mem = s.mem)) ∧
    (x.phase = .up → vc.val % 2 = 0 → x.credits.length = 8 →
      runsTo s (.linkCredit p vc units) (fun t =>
        (x.queue vc.val = [] → (t.port p).credits[vc.val]? = some (min (if p.val < 14 then 640 else 5120) (x.credits.getD vc.val 0 + units)) ∧ t.fab.wire = s.fab.wire) ∧
        (∀ h rest, x.queue vc.val = h :: rest → h.pkt.vc.toNat = vc.val → (pktBytes h.pkt + 63) / 64 ≤ min (if p.val < 14 then 640 else 5120) (x.credits.getD vc.val 0 + units) →
          (s.fab.wire ++ [⟨p.val, s.stampLeaving h.pkt, false⟩]) <+: t.fab.wire))) ∧
    (x.phase = .up → vc.val % 2 = 1 → x.credits.length = 8 → units < 4 → (x.credits.getD vc.val 0).testBit units = false → x.queue vc.val = [] → x.queue (vc.val - 1) = [] →
      runsTo s (.linkCredit p vc units) (fun t => (t.port p).credits[vc.val]? = some (x.credits.getD vc.val 0 + 2 ^ units) ∧ t.fab.wire = s.fab.wire)) ∧
    (pkt.typ = 0x02 → s.fab.inbox = [pkt] → pkt.mcast = false →
      runsTo s .linkState (fun t => (t.peer pkt.src.toNat).links = pkt.payload ∧ (t.peer pkt.src.toNat).gports = pkt.payload.drop 14 ∧
        (t.peer pkt.src.toNat).linkAt = some s.now ∧ t.mem = s.mem)) ∧
    (∀ ch row col, s.fab.pos = some (ch, row, col) →
      (s.fab.linkDirty = true ∨ 1000000 ≤ s.now - s.fab.lastLink →
        runsTo s (.linkStateSend false) (fun t => t.fab.linkDirty = false ∧ t.fab.lastLink = s.now ∧ t.mem = s.mem ∧
          ∀ q < 14, let m := s.mkPacket 0x02 3 (64 * ch + linePeer row col q) 0 0 [] s.linkBytes
            s.portUp q = true → (s.peer (64 * ch + linePeer row col q)).dead = false → (s.port q).queue 6 = [] → (s.port q).hasRoom m = true → ⟨q, m, false⟩ ∈ t.fab.wire)) ∧
      (s.fab.linkDirty = false → s.now - s.fab.lastLink < 1000000 → exec (.linkStateSend false) s = .next s) ∧
      (s.fab.gportDirty = true ∨ 10000000 ≤ s.now - s.fab.lastGport →
        runsTo s (.linkStateSend true) (fun t => t.fab.gportDirty = false ∧ t.fab.lastGport = s.now ∧ t.mem = s.mem))) ∧
    (∀ t0, s.power.tripped = false → (s.peer peer).linkAt = some t0 → 3000000 ≤ s.now - t0 →
      exec (.neighbourSilent peer) s =
        .next (s.setPeer peer { s.peer peer with links := List.replicate 20 3, gports := List.replicate 6 3, linkAt := none }))

/-! ### Memory operations across the fabric (R309 to R323) -/

/-- A request that passes the three checks of Table 11.2 is performed (R310, R315, R319, R322, R323): a read or atomic sends its reply, which is kept until acknowledged; a write or
fill is made and its acknowledgement is owed; a batch makes one access for all, its atomics in source-package order, each member's reply being the word before its own. Nothing else of memory changes.
Stated for error-free memory and a requester on another package. BATCH_PERFORM (R322, R323): the requests of a batch, each accepted as a request of its own, make one access: its reads are answered with the same bytes, and its atomics are applied in ascending source
order, the word left being that of applying them one by one and each reply the word before its own. -/
def Obligations.RemoteRequestsArePerformed : Prop :=
  (∀ (s : State) (p : Packet) (f a : Nat), s.sound = true → s.sec.home = none → s.fab.inbox = [p] → s.ctxTakes p.dctx.toNat = true → p.src.toNat ≠ s.self → reqShape p = true →
     s.reqCheck p = .ok [(f, a, reqLen p)] → s.meetsUnheld [(f, a, reqLen p)] = false →
     let c := p.dctx.toNat
     let g := p.src.toNat
     let n := reqLen p
     let room : Prop := s.streamsRise = true ∧ (s.peer g).dead = false ∧ ((s.peer g).txOf 1).waiting = [] ∧ ((s.peer g).txOf 1).unacked.length < 256 ∧ s.storeUsed + 2084 ≤ 2 ^ 29
     let replied : State → Nat → List Byte → Prop := fun t typ bs => t.fab.inbox = [] ∧ t.memop.replies = s.memop.replies ++ [⟨g, p.seq, reqTag p, bs.length⟩] ∧
       (room → ((t.peer g).txOf 1).unacked.map (·.pkt) = ((s.peer g).txOf 1).unacked.map (·.pkt) ++
         [{ s.mkPacket typ 1 g c p.sctx.toNat [(0x10, 4, (reqTag p).toNat), (0x14, 1, 0)] bs with seq := ((s.peer g).txOf 1).nextSeq }])
     let owed : State → Prop := fun t => t.fab.inbox = [] ∧ ((t.peer g).rxOf 0).unAcked = ((s.peer g).rxOf 0).unAcked + 1 ∧ t.memop = s.memop ∧ t.ten.ctxs = s.ten.ctxs
     (p.typ = 0x10 → s.canKeep [p] n = true → runsTo s .rdReq (fun t => t.mem = s.mem ∧ replied t 0x20 (s.readPhys a n))) ∧
     (p.typ = 0x11 → runsTo s .wrReq (fun t => t.readPhys a n = p.payload ∧ s.sameOutside t [(a, n)] ∧ owed t)) ∧
     (p.typ = 0x12 → runsTo s .fillReq (fun t => (∀ i < n, t.byteAt (a + i) = p.payload.getD ((reqOffset p + i) % 8) 0) ∧ s.sameOutside t [(a, n)] ∧ owed t)) ∧
     (p.typ = 0x13 → s.canKeep [p] 8 = true →
       let flags := reqFlags p
       let old := leNat (s.readPhys a n)
       runsTo s .atReq (fun t => leNat (t.readPhys a n) = atomicNew (flags % 8) n (flags.testBit 4) old (fieldN p.payload 0 8) (fieldN p.payload 8 8) ∧
         s.sameOutside t [(a, n)] ∧ replied t 0x21 (leBytes 8 old)))) ∧
  (∀ (s : State) (p : Packet) (rest : List Packet) (f a : Nat), s.sound = true → s.batch = p :: rest → s.canKeep (p :: rest) (replyLen p) = true →
     s.reqPieces p = .ok [(f, a, reqLen p)] → s.meetsUnheld [(f, a, reqLen p)] = false →
     let n := reqLen p
     let flags := reqFlags p
     let next : Nat → Packet → Nat := fun w q => atomicNew (flags % 8) n (flags.testBit 4) w (fieldN q.payload 0 8) 0
     let old := leNat (s.readPhys a n)
     let ps := p :: rest
     let room : Prop := s.streamsRise = true ∧ s.sec.home = none ∧ s.storeUsed + 2084 * ps.length ≤ 2 ^ 29 ∧ ∀ q ∈ ps, q.src.toNat ≠ s.self ∧ (s.peer q.src.toNat).dead = false ∧
       ((s.peer q.src.toNat).txOf 1).waiting = [] ∧ ((s.peer q.src.toNat).txOf 1).unacked.length + ps.length ≤ 256
     let answered : State → Nat → Packet → List Byte → Prop := fun t typ q bs => room → ∃ j < ps.length, ∃ u ∈ ((t.peer q.src.toNat).txOf 1).unacked,
       u.pkt = { s.mkPacket typ 1 q.src.toNat q.dctx.toNat q.sctx.toNat [(0x10, 4, (reqTag q).toNat), (0x14, 1, 0)] bs with
         seq := ((s.peer q.src.toNat).txOf 1).nextSeq + BitVec.ofNat 32 j }
     let refs : Nat → List ReplyRef := fun len => (p :: rest).map (fun q => ⟨q.src.toNat, q.seq, reqTag q, len⟩)
     ((p :: rest).Pairwise (fun q r => q.src.toNat ≤ r.src.toNat) ∧ 2 ≤ (p :: rest).length ∧ (p :: rest).length ≤ 64) ∧
     (p.typ = 0x10 → runsTo s .batchPerform (fun t => t.mem = s.mem ∧ t.memop.replies = s.memop.replies ++ refs n ∧ ∀ q ∈ ps, answered t 0x20 q (s.readPhys a n))) ∧
     (p.typ = 0x13 → runsTo s .batchPerform (fun t => leNat (t.readPhys a n) = (p :: rest).foldl next old ∧ s.sameOutside t [(a, n)] ∧
       t.memop.replies = s.memop.replies ++ refs 8 ∧ ∀ i q, ps[i]? = some q → answered t 0x21 q (leBytes 8 ((ps.take i).foldl next old)))))

/-- The requester (R314, R316, R320): a reply for a held slot of its generation ends the request and frees the slot; a read's bytes land at its destination and an atomic's old value at RESULT_PTR; a
failure status, or 4 ms without a reply, ends the context; a reply that fits no slot is counted and changes nothing else. That the DETAIL of a poisoned read at the peer is 0 is the model's reading of
Table 15.5 (log 22). -/
def Obligations.RepliesEndTheirRequests : Prop :=
  ∀ (s : State) (p : Packet) (n : Nat) (r : ReqSlot) (core id : Nat) (x : CtxState),
    let status := pktOp p 0x14 1
    let ends : State → Nat → Nat → Prop := fun t cls detail => ∃ y e, t.ctx? r.ctx = some y ∧ y.phase = .ending ∧ y.ending = some e ∧ e.cls = cls ∧ e.reason = 0 ∧ e.detail = BitVec.ofNat 64 detail
    s.fab.inbox = [p] → s.ctx? r.ctx = some x → x.phase = .active → x.savedRows = false → r.owner = .dma core id → s.coreCtx core = some r.ctx →
    (p.typ = 0x20 → s.replySlot p [0x10] = some (n, r) → status = 0 → ∀ f a, s.side r.dest = .here r.dest →
      s.localAccess core r.ctx r.dest p.payload.length true = .pieces [(f, a, p.payload.length)] →
      runsTo s .rdReply (fun t => t.fab.inbox = [] ∧ tabFind t.memop.slots n = none ∧ t.readPhys a p.payload.length = p.payload ∧ s.sameOutside t [(a, p.payload.length)] ∧
        (t.core core).findReq id = none ∧ t.ten.ctxs = s.ten.ctxs)) ∧
    (p.typ = 0x21 → s.replySlot p [0x13] = some (n, r) → status = 0 → r.len ≤ p.payload.length → ∀ a, localPhys core r.dest r.len = some a →
      runsTo s .atReply (fun t => t.fab.inbox = [] ∧ tabFind t.memop.slots n = none ∧ t.readPhys a r.len = p.payload.take r.len ∧ s.sameOutside t [(a, r.len)] ∧
        (t.core core).findReq id = none ∧ t.ten.ctxs = s.ten.ctxs)) ∧
    (p.typ = 0x22 → s.replySlot p [0x11, 0x12] = some (n, r) → status ≠ 0 →
      runsTo s .wrStatus (fun t => t.fab.inbox = [] ∧ tabFind t.memop.slots n = none ∧ t.mem = s.mem ∧
        (status = 4 → ends t 3 0) ∧ (status ≠ 4 → ends t 2 (kindOp r.kind)))) ∧
    (p.typ = 0x20 → s.replySlot p [0x10] = none → runsTo s .rdReply (fun t => t.fab.inbox = [] ∧ t.mem = s.mem ∧ t.memop = s.memop ∧ t.ten = s.ten ∧
      t.reg 0xB0230 = BitVec.ofNat 64 (min ((s.reg 0xB0230).toNat + 1) (2 ^ 48 - 1)))) ∧
    (∀ (k : Fin 65536) t0, tabFind s.memop.slots k = some r → r.acked = some t0 → r.kind = 0x10 ∨ r.kind = 0x13 → 4000000 ≤ s.now - t0 →
      runsTo s (.replyTimeout k) (fun t => tabFind t.memop.slots k = none ∧ t.mem = s.mem ∧ ends t 4 r.peer ∧
        t.reg (0x40448 + 0x1000 * r.ctx) = BitVec.ofNat 64 (min ((s.reg (0x40448 + 0x1000 * r.ctx)).toNat + 1) (2 ^ 48 - 1))))

/-! ### Collectives (R330 to R348) -/

/-- A collective from its launch to its result (R330, R333, R336 to R338, R341, R344). COLL.LAUNCH with a start counter not yet reached puts it in flight; COLL_START begins it once the counter has come up,
and the all-reduce of one member in one chunk writes its own elements and completes; the owner of a chunk in a reduce-scatter of two, when the last of its two pieces comes and its CRC checks, adds rank 1's contribution to its own, element by element,
writes the result and releases rank 1, and for a COLL_ZERO marker the result is what it had added up before. With N members, a contribution that comes out of its turn is checked and kept, and nothing
is added; when that of rank 1 comes, it and the kept ones of the later ranks are added in rank order, whatever order they came in, and every rank is released. -/
def Obligations.CollectivesReduceInRankOrder : Prop :=
  ∀ (s : State) (c : Ctx) (cx : CtxState), s.sound = true → s.ctx? c = some cx → cx.phase = .active → cx.ending = none →
    (∀ (ring : Ring) (b : List Byte) (r : Nat), s.headDesc c ring = some b → fieldN b 0 1 = 0x60 → collFields b = true →
      let a := collCmd b
      let ms := (List.range a.n).map (fun i => let v := fieldN (s.view c a.member (4 * a.n)) (4 * i) 4; (v % 2 ^ 15, v / 2 ^ 15 % 2 ^ 6))
      let aux := s.view c a.aux 64
      s.readable c a.member (4 * a.n) = true → s.readable c a.aux 64 = true → s.readable c (auxWait aux) 8 = true →
      s.coll? c a.id = none → (s.coll.colls.filter (fun x => x.ctx == c.val)).length < 8 → s.nativeOf c a.member (4 * a.n) false = true → a.aux ≠ 0 → s.nativeOf c a.aux 64 false = true →
      s.collRank c ms = some r → s.auxFields c a aux = true → s.collBuffers c a r = true → auxWait aux ≠ 0 → leNat (s.view c (auxWait aux) 8) < auxVal aux →
      leadsTo s (.collLaunch c ring) (fun t => (t.ring c ring).head = (s.ring c ring).head + 1 ∧ t.mem = s.mem ∧ ∃ y, t.coll? c a.id = some y ∧ y.bytes = b ∧ y.aux = aux ∧
        y.members = ms ∧ y.rank = r ∧ y.started = false ∧ y.paused = false ∧ y.acc = none ∧ y.pos = 0 ∧ y.turn = 0 ∧ y.ins = [] ∧ y.written = [])) ∧
    (∀ (x : Coll) (f w i : Nat), s.coll? c x.id = some x → x.desc.fn = c → x.started = false → x.paused = false → auxWait x.aux ≠ 0 → s.readable c (auxWait x.aux) 8 = true →
      let a := x.cmd
      (leNat (s.view c (auxWait x.aux) 8) < auxVal x.aux → runsTo s (.collStart c x.id) (fun t => t.coll = s.coll ∧ t.mem = s.mem)) ∧
      (auxVal x.aux ≤ leNat (s.view c (auxWait x.aux) 8) → a.op = 2 → a.n = 1 → x.rank = 0 → a.clash 0 = false → 1 ≤ a.bytes → a.bytes ≤ a.chunk → x.acc = none → x.turn = 0 → x.pos = 0 → x.credits = [] → x.ins = [] → s.vats.hurt = [] →
        x.written = [] → auxUsed x.aux = 0 → auxZout x.aux = 0 → auxDone x.aux = 0 → s.readable c a.inp a.bytes = true → s.packageAccess c a.out a.bytes true = .pieces [(f, w, a.bytes)] →
        a.bytes % collElem a.fmt = 0 → s.vatFor c 1 (chunkVat x 0 0) = none → s.vats.waiting = [] → s.vatAllowed c 1 (fitClass a.chunk) = true → s.vats.pools.length = 6 →
        (s.pool (fitClass a.chunk)).sram.top = some i →
        runsTo s (.collStart c x.id) (fun t => t.readPhys w a.bytes = (addChunk a.fmt a.sat none (s.view c a.inp a.bytes)).1 ∧ s.sameOutside t [(w, a.bytes)] ∧ t.coll? c x.id = none))) ∧
    (∀ (x : Coll) (p : Packet) (acc : List Byte) (f w : Nat) (h0 h1 : VatHold), s.fab.inbox = [p] → p.dctx.toNat = c.val → BitVec.ofNat 32 (pktOp p 0x10 4) = x.id → s.coll? c x.id = some x →
      s.pieceWanted x p = true → x.desc.fn = c → x.started = true → x.paused = false →
      let a := x.cmd
      let n := a.len 0
      a.op = 0 → a.n = 2 → x.rank = 0 → a.clash 0 = false → a.count 0 = 1 → a.count 1 ≠ 0 → x.pos = 0 → x.turn = 1 → x.acc = some acc → acc.length = n → n % collElem a.fmt = 0 → x.granted = 1 →
      x.written = [] → x.released = [] → x.releases = [] → auxZout x.aux = 0 → s.vatFor c 1 (chunkVat x 0 0) = some h0 → s.vatFor c 1 (chunkVat x 0 1) = some h1 → h0.vat.ovf = false → h1.vat.ovf = false → s.vats.hurt = [] →
      s.packageAccess c a.out n true = .pieces [(f, w, n)] →
      let done : State → List Byte → Prop := fun t bs => t.fab.inbox = [] ∧ t.readPhys w n = bs ∧ s.sameOutside t [(w, n)] ∧ ∃ y, t.coll? c x.id = some y ∧ y.pos = 1 ∧ y.acc = none ∧ y.written = [0] ∧
        y.released = [1] ∧ y.used = x.used + 1
      s.sec.home = none → s.isSelf p.src.toNat = false →
      (∀ b0 : List Byte, p.typ = 0x40 → b0.length = 2048 → p.payload.length + 2048 = n → p.payload.length ≤ 2048 → 1 ≤ p.payload.length →
        pieceRef p = ⟨0, 1, 0, true, 0, 1, crc32c (b0 ++ p.payload)⟩ → x.ins = [⟨0, 0, 1, 0, [(0, b0)], none, (pieceRef p).crc, false, false⟩] →
        runsTo s .collData (fun t => done t ((List.range (n / collElem a.fmt)).flatMap (fun j => leBytes (collElem a.fmt)
          (collAdd a.fmt a.sat (fieldN acc (collElem a.fmt * j) (collElem a.fmt)) (fieldN (b0 ++ p.payload) (collElem a.fmt * j) (collElem a.fmt))).1)))) ∧
      (p.typ = 0x41 → (pieceRef p).chunk = 0 → (pieceRef p).rank = 1 → (pieceRef p).kind = 0 → x.ins = [] → runsTo s .collZero (fun t => done t acc))) ∧
    (∀ (x : Coll) (p : Packet) (k r : Nat) (h0 h1 : VatHold), s.fab.inbox = [p] → p.dctx.toNat = c.val → BitVec.ofNat 32 (pktOp p 0x10 4) = x.id → s.coll? c x.id = some x →
      s.pieceWanted x p = true → x.started = true → x.paused = false →
      let a := x.cmd
      a.op = 0 → x.pos + 1 < a.count x.rank → a.first x.rank + x.pos ∉ x.written → x.turn < a.n → x.turn ≠ x.rank → r ≠ x.turn → x.ins = [] → x.used + a.window ≤ x.granted →
      1 ≤ p.payload.length → p.payload.length ≤ 2048 → p.payload.length = a.len k → pieceRef p = ⟨k, r, 0, true, 0, 0, crc32c p.payload⟩ →
      s.vatFor c 1 (chunkVat x (a.first x.rank + x.pos) x.rank) = some h0 → s.vatFor c 1 (chunkVat x k r) = some h1 → h1.vat.ovf = false → s.vats.hurt = [] →
      runsTo s .collData (fun t => t.fab.inbox = [] ∧ t.mem = s.mem ∧
        t.coll? c x.id = some { x with ins := [⟨0, k, r, 0, [(0, p.payload)], some 0, crc32c p.payload, false, true⟩] })) ∧
    (∀ (x : Coll) (p : Packet) (acc b0 : List Byte) (f w : Nat) (got : Nat → Tab (List Byte)) (crc : Nat → W32), s.fab.inbox = [p] → p.dctx.toNat = c.val → BitVec.ofNat 32 (pktOp p 0x10 4) = x.id →
      s.coll? c x.id = some x → s.pieceWanted x p = true → x.desc.fn = c → x.started = true → x.paused = false →
      let a := x.cmd
      let n := a.len 0
      let e := collElem a.fmt
      let from_ : Nat → List Byte := fun r => if r = 1 then b0 ++ p.payload else (got r).flatMap (·.2)
      a.op = 0 → 2 ≤ a.n → x.rank = 0 → a.clash 0 = false → a.count 0 = 1 → a.count 1 ≠ 0 → x.pos = 0 → x.turn = 1 → x.acc = some acc → acc.length = n → n % e = 0 → x.granted = a.n - 1 →
      x.written = [] → x.released = [] → x.releases = [] → auxZout x.aux = 0 → (∀ r < a.n, ∃ h, s.vatFor c 1 (chunkVat x 0 r) = some h ∧ h.vat.ovf = false) → s.vats.hurt = [] →
      s.packageAccess c a.out n true = .pieces [(f, w, n)] → s.sec.home = none → (∀ r, 1 ≤ r → r < a.n → s.isSelf (x.peerOf r).1 = false ∧ (from_ r).length = n) →
      p.typ = 0x40 → b0.length = 2048 → p.payload.length ≤ 2048 → 1 ≤ p.payload.length → pieceRef p = ⟨0, 1, 0, true, 0, 1, crc32c (b0 ++ p.payload)⟩ →
      x.ins = (List.range (a.n - 2)).map (fun j => ⟨0, 0, j + 2, 0, got (j + 2), some 1, crc (j + 2), false, true⟩) ++ [⟨0, 0, 1, 0, [(0, b0)], none, (pieceRef p).crc, false, false⟩] →
      let plus : List Byte → List Byte → List Byte := fun u v => (List.range (n / e)).flatMap (fun j => leBytes e (collAdd a.fmt a.sat (fieldN u (e * j) e) (fieldN v (e * j) e)).1)
      runsTo s .collData (fun t => t.fab.inbox = [] ∧ s.sameOutside t [(w, n)] ∧ t.readPhys w n = (List.range (a.n - 1)).foldl (fun u j => plus u (from_ (j + 1))) acc ∧
        ∃ y, t.coll? c x.id = some y ∧ y.pos = 1 ∧ y.acc = none ∧ y.written = [0] ∧ y.released = (List.range (a.n - 1)).map (· + 1) ∧ y.used = x.used + (a.n - 1)))

/-- The rest of a collective (R337, R340, R342 to R348): a copy that checks is written and one that does not is asked for again, neither before the start (R333); a credit sends the chunk, whose COLL_DATA pieces leave on their stream; a NACK sends it
again; PAUSE, RESUME and RELEASE
are noted; the last RELEASE completes; ABORT, COLL.ABORT and the watchdog end it; and a pause of 1 ms abandons the sends that still wait, and keeps back
every other packet of the collective but its PAUSE. -/
def Obligations.CollectivesCheckPauseAndEnd : Prop :=
  ∀ (s : State) (c : Ctx) (cx : CtxState) (x : Coll) (p : Packet), s.sound = true → s.ctx? c = some cx → cx.phase = .active → cx.ending = none → s.coll? c x.id = some x → x.ctx = c → x.desc.fn = c →
    s.sec.home = none →
    let a := x.cmd
    let r := pktOp p 0x18 2 % 2 ^ 15
    let ctrl := pktOp p 0x14 1
    let arrives : Prop := s.fab.inbox = [p] ∧ p.dctx.toNat = c.val ∧ BitVec.ofNat 32 (pktOp p 0x10 4) = x.id ∧ x.peerOf r = (p.src.toNat, p.sctx.toNat) ∧ r < a.n ∧ r ≠ x.rank ∧ s.isSelf p.src.toNat = false
    let nexts : List Piece := (s.vats.held.filter (fun h => h.vat.ovf)).flatMap (fun h => s.vatPieces h.vat 0 8)
    let tx := (s.peer p.src.toNat).txOf 2
    let pieces : Nat → Nat → Nat → List Byte → List Packet := fun kind k att bs =>
      let m := (bs.length + 2047) / 2048
      (List.range m).map (fun i => { s.collPacket x 0x40 r [(0x14, 4, k), (0x18, 2, x.rank), (0x1A, 1, kind + (if i + 1 = m then 4 else 0) + 8 * att), (0x1B, 1, i), (0x1C, 4, (crc32c bs).toNat)]
        ((bs.drop (2048 * i)).take 2048) with seq := tx.nextSeq + BitVec.ofNat 32 i })
    let room : Nat → Prop := fun n => s.streamsRise = true ∧ (s.peer p.src.toNat).dead = false ∧ tx.waiting = [] ∧ tx.unacked.length + (n + 2047) / 2048 ≤ 256 ∧
      s.storeUsed + 2084 * ((n + 2047) / 2048) ≤ 2 ^ 29
    let leave : State → Nat → Nat → Nat → List Byte → Prop := fun t kind k att bs =>
      ((t.peer p.src.toNat).txOf 2).unacked.map (·.pkt) = tx.unacked.map (·.pkt) ++ pieces kind k att bs ∧
      ∀ h q y det, pieces kind k att bs = [h] → s.route h none = .port q y det → (s.port q).phase = .up → (s.port q).queue y.vc.toNat = [] → (s.port q).hasRoom y = true →
        t.fab.wire = s.fab.wire ++ [⟨q, y, false⟩]
    let ended : State → Prop := fun t => t.coll? c x.id = none ∧ (c.val, x.id) ∈ t.coll.ended ∧ s.sameOutside t ((s.outPieces x ++ nexts).map (fun q => (q.2.1, q.2.2)))
    (∀ k f w, arrives → p.typ = 0x40 → x.started = true → x.paused = false → a.op = 3 → a.clash x.rank = false → x.rank ≠ a.root → r = a.root → (∃ j < a.nc, j ≠ k ∧ j ∉ x.written) → k < a.nc → k ∉ x.written → x.ins = [] →
      (pieceRef p) = ⟨k, r, 2, true, 0, 0, (pieceRef p).crc⟩ → p.payload.length = a.len k → 1 ≤ a.len k → a.len k ≤ 2048 → s.packageAccess c (a.out + k * a.chunk) (a.len k) true = .pieces [(f, w, a.len k)] →
      runsTo s .collData (fun t => t.fab.inbox = [] ∧ t.readPhys w (a.len k) = p.payload ∧ s.sameOutside t [(w, a.len k)] ∧ ∃ y, t.coll? c x.id = some y ∧
        (crc32c p.payload = (pieceRef p).crc → k ∈ y.written ∧ (∃ j, y.ins = [j] ∧ j.chunk = k ∧ j.checked = true) ∧ y.retries = x.retries) ∧
        (crc32c p.payload ≠ (pieceRef p).crc → k ∉ y.written ∧ y.retries = x.retries + 1 ∧ ∃ j ∈ y.ins, j.chunk = k ∧ j.attempt = 1 ∧ j.got = []))) ∧
    (∀ k f w, arrives → p.typ = 0x40 → x.started = false → a.op = 3 → x.rank ≠ a.root → r = a.root → k < a.nc → x.ins = [] → (pieceRef p) = ⟨k, r, 2, true, 0, 0, (pieceRef p).crc⟩ →
      p.payload.length ≤ a.len k → s.packageAccess c (a.out + k * a.chunk) p.payload.length true = .pieces [(f, w, p.payload.length)] →
      runsTo s .collData (fun t => t.fab.inbox = [] ∧ t.fab.peers = s.fab.peers ∧ s.sameOutside t [(w, p.payload.length)] ∧
        ∃ y, t.coll? c x.id = some y ∧ y.started = false ∧ y.written = x.written ∧ y.retries = x.retries)) ∧
    (∀ k, arrives → p.typ = 0x42 → x.started = true → x.paused = false → a.op = 4 → x.rank ≠ a.root → r = a.root → k = pktOp p 0x14 4 → k < a.nc → x.credits = [] → x.releases = [] → auxUsed x.aux = 0 →
      s.readable c (a.inp + k * a.chunk) (a.len k) = true →
      runsTo s .collCredit (fun t => t.fab.inbox = [] ∧ t.mem = s.mem ∧ ∃ at_, t.coll? c x.id = some { x with
        sent := x.sent.filter (fun e => !(e.kind == 0 && e.chunk == k && e.toWhom == r)) ++ [⟨0, k, r, 0⟩]
        lastStep := at_ } ∧ (room (a.len k) → at_ = s.now ∧ leave t 0 k 0 (s.view c (a.inp + k * a.chunk) (a.len k))))) ∧
    (∀ e, arrives → p.typ = 0x43 → x.sent = [e] → e.kind = (pieceRef p).kind → e.chunk = (pieceRef p).chunk → e.toWhom = r → e.attempt = (pieceRef p).attempt →
      (e.attempt < 3 → x.paused = false → s.readable c (a.src x.rank e.kind e.chunk) (a.len e.chunk) = true → 1 ≤ a.len e.chunk →
        runsTo s .collNack (fun t => t.fab.inbox = [] ∧ t.mem = s.mem ∧ ∃ at_, t.coll? c x.id = some { x with
          retries := x.retries + 1
          sent := [{ e with attempt := e.attempt + 1 }]
          lastStep := at_ } ∧
          (room (a.len e.chunk) → at_ = s.now ∧ leave t e.kind e.chunk (e.attempt + 1) (s.view c (a.src x.rank e.kind e.chunk) (a.len e.chunk))))) ∧
      (e.attempt < 3 → x.paused = true → runsTo s .collNack (fun t => t.fab.inbox = [] ∧ t.mem = s.mem ∧ t.coll? c x.id = some { x with
          retries := x.retries + 1
          redo := x.redo ++ [{ e with attempt := e.attempt + 1 }] })) ∧
      (e.attempt = 3 → runsTo s .collNack ended)) ∧
    (arrives → p.typ = 0x44 →
      (ctrl = 0 → x.paused = false → runsTo s .collCtrlPause (fun t => t.fab.inbox = [] ∧ t.mem = s.mem ∧
        t.coll? c x.id = some { x with pausedBy := setAdd x.pausedBy r, haltAt := some (x.haltAt.getD s.now) })) ∧
      (ctrl = 1 → x.paused = false → x.pausedBy = [r] → ∀ h, x.haltAt = some h → runsTo s .collCtrlResume (fun t => t.fab.inbox = [] ∧ t.mem = s.mem ∧
        t.coll? c x.id = some { x with pausedBy := [], haltAt := none, lastStep := s.now - (h - x.lastStep) })) ∧
      (ctrl = 2 → runsTo s .collCtrlAbort ended) ∧
      (ctrl = 3 → a.op = 4 → a.n = 2 → r = a.root → x.started = true → x.paused = false → auxDone x.aux = 0 → x.releases = [] → runsTo s .collCtrlRelease ended) ∧
      (ctrl = 3 → x.paused = true → runsTo s .collCtrlRelease (fun t => t.fab.inbox = [] ∧ t.mem = s.mem ∧ t.coll? c x.id = some { x with releases := setAdd x.releases r }))) ∧
    (∀ (ring : Ring) (b : List Byte), s.headDesc c ring = some b → fieldN b 0 1 = 0x61 → fieldZero b 1 3 = true → fieldZero b 0x0C 52 = true → BitVec.ofNat 32 (fieldN b 8 4) = x.id →
      leadsTo s (.collAbort c ring) (fun t => ended t ∧ (t.ring c ring).head = (s.ring c ring).head + 1)) ∧
    (x.started = true → x.paused = false → x.pausedBy = [] → (s.reg 0xB0008).toNat * 1000000 < s.now - x.lastStep → runsTo s (.collWatchdog c x.id) ended) ∧
    (s.coll.colls = [x] → x.paused = true → 1000000 ≤ s.now - x.pausedAt → runsTo s (.collPreemptDeadline c) (fun t => t.mem = s.mem ∧
      (∀ e ∈ t.fab.peers, ∀ k ∈ e.2.tx, ∀ w ∈ k.2.waiting, collPkt x.id w.1 = true → w.1.sctx.toNat = c.val → w.1.typ = 0x44 ∧ pktOp w.1 0x14 1 = 0) ∧
      ∃ y, t.coll? c x.id = some y ∧ x.redo <+: y.redo ∧ y.sent = x.sent ∧ x.heldOut <+: y.heldOut ∧
        ∀ e ∈ s.fab.peers, ∀ k ∈ e.2.tx, ∀ w ∈ k.2.waiting, collPkt x.id w.1 = true → w.1.sctx.toNat = c.val → w.1.typ ≠ 0x40 → ¬(w.1.typ = 0x44 ∧ pktOp w.1 0x14 1 = 0) → w.1 ∈ y.heldOut))

/-! ### Weights (R351 to R372) -/

/-- Fetching wheels (R352 to R362): a WHL.LOAD that passes its checks takes a Free epoch entry and is Loading; a piece pulled or multicast is written at its place in the region, and a wheel whose bytes
have the manifest's digest is held, the last one making the epoch Ready and its binding entry written, while a mismatch asks for the whole wheel again and on attempt 3 fails the load; WHL_END and the idle time
start the pulls; a NACK, or 10 ms without data, moves a pull's pieces to the next holder, or starts a wait of 1 ms when all have refused; and the watchdog fails a load. -/
def Obligations.WheelsAreFetchedAndChecked : Prop :=
  ∀ (s : State), s.sound = true → s.sec.home = none →
    (∀ (c : Ctx) (ring : Ring) (b : List Byte) (cx : CtxState), s.headDesc c ring = some b → s.ctx? c = some cx → cx.phase = .active → fieldN b 0 1 = 0x70 →
      let man := fieldN b 0x10 8
      let n := fieldN (s.view c man 64) 4 4
      let m := s.view c man (128 + 64 * n)
      let base := fieldN b 0x18 8
      let size := ceilDiv (fieldN m 8 8) 65536 * 65536
      let ws := manWheels m (fieldN m 4 4)
      let my := fieldN b 0x0A 2
      s.loadFields c b = true → s.readable c man 64 = true → s.readable c man (128 + 64 * n) = true → fieldN (s.view c man 64) 2 1 = 0 → fieldN m 2 1 = 0 → s.loadKindFields c 0 b = true →
      s.sec.rindWiped = false → s.sec.rindBusy = false → 1 ≤ n → n ≤ 65535 → s.manVerifies c m = true → mapAllows cx.map (fun _ => true) base size = true → (s.flatPieces base size).isSome = true →
      s.loadRefusal c 0 b base (fieldN m 8 8) = none → fieldN b 1 1 = 2 → fieldN b 0x0C 2 = 0 → (∃ w ∈ ws, w.part = my ∨ w.part = 0xFFFF) → s.whl.epochs.length = 4 →
      leadsTo s (.whlLoad c ring) (fun t => (t.ring c ring).head = (s.ring c ring).head + 1 ∧ t.mem = s.mem ∧
        (∃ i, (s.epochEntry i).st = 0 ∧ t.epochEntry i = ⟨fieldN b 2 1, 2, c, true, s.whl.nextLoad, none, []⟩) ∧
        ∃ l, t.load? s.whl.nextLoad = some l ∧ l.ctx = c ∧ l.kind = 0 ∧ l.target = fieldN b 2 1 ∧ l.phase = .loading ∧ l.manId = fieldN (sha256 m) 0 8 ∧ l.base = base ∧ l.bytes = fieldN m 8 8 ∧
          l.wheels = ws ∧ l.myPart = my ∧ l.lastMcast = s.now)) ∧
    (∀ (p : Packet) (id : Nat) (l : Load) (x : Wheel) (cx : CtxState) (i f a g v : Nat), s.fab.inbox = [p] → s.ctx? l.ctx = some cx → cx.phase = .active → cx.savedRows = false → s.load? id = some l →
      l.phase = .loading → l.ctx = p.dctx.toNat → l.manId = whlManifest p → l.wheels = [x] → l.owns x = true → x.held = false → x.got = [] → 1 ≤ x.bytes → x.bytes ≤ 2048 → whlWheel p = 0 → whlPiece p = 0 →
      p.payload.length = x.bytes → s.regionPieces l x.offset x.bytes = [(f, a, x.bytes)] → l.kind = 0 → l.donePtr = 0 → s.epochIdx l.target = some i → (s.epochEntry i).owner = l.ctx →
      (s.epochEntry i).named = [] → (s.epochEntry i).load = id → s.whl.epochs.length = 4 → s.reg (0xB0140 + 8 * i) = 0 →
      let bind := (s.reg (0x40048 + 0x1000 * l.ctx)).toNat
      (∀ h ∈ l.holders, s.isSelf h.1 = false) → s.vatsQuiet = true → s.vats.hurt = [] →
      bind ≠ 0 → s.flatPieces (bind + 16 * l.target) 16 = some [(g, v, 16)] → rangesMeet a x.bytes v 16 = false →
      let lands : Instr → Prop := fun cmd =>
        (sha256 p.payload = x.digest → runsTo s cmd (fun t => t.fab.inbox = [] ∧ t.readPhys a x.bytes = p.payload ∧ s.sameOutside t [(a, x.bytes), (v, 16)] ∧ (t.epochEntry i).st = 3 ∧
          t.readPhys v 16 = leBytes 8 l.base ++ leBytes 1 1 ++ zeroBytes 3 ++ leBytes 4 l.modelTag.toNat ∧ ∃ l', t.load? id = some l' ∧ l'.phase = .resident ∧ l'.wheels = [{ x with got := [0], held := true }])) ∧
        (sha256 p.payload ≠ x.digest → x.attempt < 3 → runsTo s cmd (fun t => t.fab.inbox = [] ∧ t.readPhys a x.bytes = p.payload ∧ s.sameOutside t [(a, x.bytes)] ∧ (t.epochEntry i).st = (s.epochEntry i).st ∧
          ∃ l' x', t.load? id = some l' ∧ l'.phase = .loading ∧ l'.wheels = [x'] ∧ x'.held = false ∧ x'.got = [] ∧ x'.attempt = x.attempt + 1)) ∧
        (sha256 p.payload ≠ x.digest → x.attempt = 3 → runsTo s cmd (fun t => ∀ l', t.load? id = some l' → l'.phase = .failed))
      (p.typ = 0x51 → l.mode = 0 → s.loadsFor l.ctx l.manId (fun k => k.phase == .loading && (k.wants 0 0 p.payload.length || k.pulls.any (fun q => q.2.wheel == 0 && q.2.pieces.contains 0))) = [(id, l)] → lands .whlData) ∧
      (p.typ = 0x52 → l.mode = 2 → s.fromRow p.src.toNat = false → s.loadsFor l.ctx l.manId (fun k => k.mode == 2 && k.phase != .failed) = [(id, l)] → lands .whlMcast)) ∧
    (∀ (p : Packet), s.fab.inbox = [p] → p.typ = 0x52 → s.loadFor p.dctx.toNat (whlManifest p) (fun k => k.mode == 2 && k.phase != .failed) = none →
      runsTo s .whlMcast (fun t => t.fab.inbox = [] ∧ t.mem = s.mem ∧ t.whl = s.whl ∧ t.reg 0xB0240 = BitVec.ofNat 64 (min ((s.reg 0xB0240).toNat + 1) (2 ^ 48 - 1)))) ∧
    (∀ (p : Packet) (id : Nat) (l : Load) (ch r col k : Nat), s.fab.inbox = [p] → p.typ = 0x52 → s.fab.pos = some (ch, r, col) → s.fromRow p.src.toNat = true →
      s.loadsFor p.dctx.toNat (whlManifest p) (fun k => k.mode == 2 && k.phase != .failed) = [(id, l)] → s.load? id = some l → s.vats.hurt = [] → l.wants (whlWheel p) (whlPiece p) p.payload.length = false → p.payload.length ≤ 2048 →
      let tag : VatTag := ⟨2, id, whlWheel p, whlPiece p + 2 ^ 32⟩
      s.vatFor p.dctx.toNat 2 tag = none → s.vats.waiting = [] → s.vatAllowed p.dctx.toNat 2 (fitClass 2048) = true → s.vats.pools.length = 6 → (s.pool (fitClass 2048)).sram.top = some k →
      s.storeUsed + 14 * 2084 ≤ 2 ^ 29 → (∀ g ∈ columnOthers ch r col, s.streamRoom g 2) →
      let dst := BitVec.ofNat 15 (mcastDst ch col 1)
      runsTo s .whlMcast (fun t => t.fab.inbox = [] ∧ t.mem = s.mem ∧ ∀ g ∈ columnOthers ch r col, s.sentOne t g 2
        { p with src := BitVec.ofNat 15 s.self, dst := dst, final := dst, mcast := true, retx := false, phase := 0, vc := 4, srcBoot := s.boot16 })) ∧
    (∀ (p : Packet) (id : Nat) (l : Load), s.fab.inbox = [p] → p.typ = 0x53 → s.fromRow p.src.toNat = false →
      s.loadsFor p.dctx.toNat (whlManifest p) (fun k => k.mode == 2 && (k.phase == .loading || k.phase == .waiting)) = [(id, l)] → s.load? id = some l → l.phase = .loading →
      (∀ h ∈ l.holders, s.isSelf h.1 = false) → s.vatsQuiet = true →
      runsTo s .whlEnd (fun t => t.fab.inbox = [] ∧ t.mem = s.mem ∧ ∃ l', t.load? id = some l' ∧ l'.gotEnd = true ∧ l'.pulling = true ∧ l'.phase = .loading ∧ l'.wheels = l.wheels)) ∧
    (∀ (id : Nat) (l : Load), s.load? id = some l → l.phase = .loading →
      (s.vatsQuiet = true → l.mode = 2 → l.pulling = false → l.idleMs * 1000000 ≤ s.now - l.lastMcast →
        runsTo s (.mcastIdle id) (fun t => t.mem = s.mem ∧ ∃ l', t.load? id = some l' ∧ l'.pulling = true ∧ l'.wheels = l.wheels)) ∧
      ((s.reg 0xB0010).toNat * 1000000 ≤ s.now - l.lastWrite → runsTo s (.whlWatchdog id) (fun t => ∀ l', t.load? id = some l' → l'.phase = .failed)) ∧
      (∀ w x t0, s.vatsQuiet = true → l.wheels[w]? = some x → x.roundAt = some t0 → 1000000 ≤ s.now - t0 → l.holders ≠ [] → runsTo s (.pullRoundWait id w) (fun t => t.mem = s.mem ∧ ∃ l', t.load? id = some l' ∧
        l'.wheels = l.wheels.modify w (fun y => { y with refused := [], roundAt := none, next := l.myPart % l.holders.length }))) ∧
      (∀ (p : Packet) (pid : Nat) (q : Pull) (x : Wheel) (cx : CtxState), l.pulls = [(pid, q)] → pid < l.nextPull → q.sent = true → l.mode = 0 → l.pulling = true → s.ctx? l.ctx = some cx → cx.phase = .active →
        (∀ y ∈ l.wheels, y.roundAt = none) → l.wheels[q.wheel]? = some x → l.owns x = true → x.held = false →
        q.holder < l.holders.length → q.pieces ≠ [] → firstRun q.pieces 63 = q.pieces → (∀ n ∈ q.pieces, n ∉ x.got) →
        let refused := setAdd x.refused q.holder
        let moves : Instr → Prop := fun cmd =>
          (refused.length < l.holders.length → (∀ n ∈ q.pieces, (s.vatFor l.ctx 2 (wheelTag id q.wheel n)).isSome = true) → runsTo s cmd (fun t => t.mem = s.mem ∧ ∃ l' q', t.load? id = some l' ∧
            tabFind l'.pulls pid = some q' ∧ q'.holder = (q.holder + 1) % l.holders.length ∧ q'.pieces = q.pieces ∧ q'.wheel = q.wheel ∧ q'.sent = true ∧ q'.last = s.now)) ∧
          (l.holders.length ≤ refused.length → runsTo s cmd (fun t => t.mem = s.mem ∧
            t.load? id = some { l with pulls := [], wheels := l.wheels.modify q.wheel (fun y => { y with refused := refused, roundAt := some s.now }) }))
        (10000000 ≤ s.now - q.last → moves (.pullTimeout id pid)) ∧
        (s.fab.inbox = [p] → p.typ = 0x54 → p.dctx.toNat = l.ctx → q.wheel = whlWheel p → q.first = whlPiece p → l.holders[q.holder]?.map (·.1) = some p.src.toNat →
          s.loadFor l.ctx (whlManifest p) (fun k => k.phase == .loading) = some (id, l) → moves .whlNack)))

/-- References and serving (R359, R364 to R370): EPOCH.DECLARE moves the context's reference to a Ready epoch it owns or that EPOCH_SHARE, as it stood when the descriptor was fetched (R497, log
133), shares with it, and an epoch left with none is freed; WEIGHT.RELEASE drops the
load reference: the epoch or adapter is Retiring or Unloading while something refers to it and Free when nothing does; a release by another context completes NOT_OWNER, and so does one of nothing, which is the model's choice (log 66); and a holder answers
WHL_PULL with the pieces it holds for a peer its table names, else with a NACK that says why. -/
def Obligations.WeightsAreReferencedAndServed : Prop :=
  ∀ (s : State), s.sound = true → s.sec.home = none →
    (∀ (c : Ctx) (ring : Ring) (b : List Byte) (cx : CtxState), s.headDesc c ring = some b → s.ctx? c = some cx → cx.phase = .active → s.seq.boundary = none → s.whl.epochs.length = 4 →
      tabWf 0 s.whl.admission = true → s.canRecord c ring = true →
      let n := fieldN b 2 1
      let a := fieldN b 8 2
      let kind := fieldN b 1 1
      let body : Nat → List Byte := fun k => leBytes 4 k ++ zeroBytes 12
      let tag : W32 := BitVec.ofNat 32 (fieldN b 4 4)
      let head : State → Prop := fun t => (t.ring c ring).head = (s.ring c ring).head + 1
      (fieldN b 0 1 = 0x71 → fieldZero b 1 1 = true → fieldZero b 3 1 = true → fieldZero b 8 56 = true →
        (n = 0 → leadsTo s (.epochDeclare c ring) (fun t => head t ∧ t.admissionOf c = 0)) ∧
        (∀ i, n ≠ 0 → s.epochIdx n = some i → (s.epochEntry i).st = 3 → (s.epochEntry i).owner = c ∨ (s.shareAtFetch ⟨c, ring, 0x71, tag⟩ i).testBit c = true →
          leadsTo s (.epochDeclare c ring) (fun t => head t ∧ t.admissionOf c = n ∧ (t.epochEntry i).st = 3 ∧
            ∀ m j, s.admissionOf c = m → m ≠ n → s.epochIdx m = some j → (s.epochEntry j).st = 4 → (s.epochEntry j).loadRef = false → (s.epochEntry j).draining = none → s.epochUsers m = 1 →
              t.epochEntry j = .free)) ∧
        (n ≠ 0 → (∀ i, s.epochIdx n = some i → (s.epochEntry i).st ≠ 3 ∨ ((s.epochEntry i).owner ≠ c ∧ (s.shareAtFetch ⟨c, ring, 0x71, tag⟩ i).testBit c = false)) →
          leadsTo s (.epochDeclare c ring) (fun t => head t ∧ t.whl = s.whl ∧ t.mem = s.mem ∧ s.recorded t c ring (s.recordBytes 0x71 5 tag (body n))))) ∧
      (fieldN b 0 1 = 0x72 → kind ≤ 1 → fieldZero b 3 1 = true → a < 4096 → fieldZero b 0x0A 54 = true →
        (∀ i l, kind = 0 → s.epochIdx n = some i → (s.epochEntry i).owner = c → (s.epochEntry i).st = 3 → s.load? (s.epochEntry i).load = some l →
          (0 < s.epochUsers n → (∀ q ∈ s.whl.loads, q.2.target = n → q.1 = (s.epochEntry i).load) → (∀ e ∈ s.whl.epochs, e.draining ≠ some (s.epochEntry i).load) → leadsTo s (.weightRelease c ring) (fun t => head t ∧ (t.epochEntry i).st = 4 ∧ (t.epochEntry i).loadRef = false ∧ (t.epochEntry i).epoch = n)) ∧
          (s.epochUsers n = 0 → (s.epochEntry i).draining = none → leadsTo s (.weightRelease c ring) (fun t => head t ∧ t.epochEntry i = .free ∧ t.load? (s.epochEntry i).load = none))) ∧
        (∀ i, kind = 0 → s.epochIdx n = some i → (s.epochEntry i).owner = c → (s.epochEntry i).st = 2 → (s.epochEntry i).loadRef = true →
          leadsTo s (.weightRelease c ring) (fun t => head t ∧ ∀ l', t.load? (s.epochEntry i).load = some l' → l'.phase = .failed)) ∧
        (kind = 1 → (s.adapter a).owner = c → (s.adapter a).st = 2 → (∀ e ∈ s.whl.epochs, e.draining = none) → leadsTo s (.weightRelease c ring) (fun t => head t ∧
          (t.adapter a = if s.seq.slots.any (fun x => x.2.adapterRef && x.2.adapter == a) then { s.adapter a with st := 3, loadRef := false } else .free))) ∧
        ((kind = 0 ∧ (∀ i, s.epochIdx n = some i → (s.epochEntry i).owner ≠ c) ∧ ∀ l ∈ s.whl.loads, l.2.ctx ≠ c) ∨ (kind = 1 ∧ ((s.adapter a).st = 0 ∨ (s.adapter a).owner ≠ c)) →
          leadsTo s (.weightRelease c ring) (fun t => head t ∧ t.whl = s.whl ∧ t.mem = s.mem ∧ s.recorded t c ring (s.recordBytes 0x72 0x57 tag (body (if kind = 0 then n else a))))))) ∧
    (∀ (p : Packet), s.fab.inbox = [p] → p.typ = 0x50 →
      let c := p.dctx.toNat
      let g := p.src.toNat
      let back := p.sctx.toNat
      let man := whlManifest p
      let found := s.whl.loads.filter (fun k => k.2.ctx == c && k.2.manId == man && (k.2.phase == .loading || k.2.phase == .resident))
      let nack : Nat → Prop := fun why => s.streamRoom g 2 → runsTo s .whlPull (fun t => t.fab.inbox = [] ∧ t.mem = s.mem ∧ t.ten.ctxs = s.ten.ctxs ∧
        s.sentOne t g 2 (s.whlPacket 0x54 g c back man [(0x18, 2, whlWheel p), (0x1A, 1, why), (0x1C, 4, whlPiece p)] []))
      (found = [] → nack 1) ∧
      (∀ id l, found = [(id, l)] →
        (l.wheels[whlWheel p]? = none → nack 0) ∧
        (∀ x, l.wheels[whlWheel p]? = some x → (x.held = false → nack 0) ∧ (x.held = true → s.peerCtx c g ≠ some back → nack 2) ∧
          (x.held = true → s.peerCtx c g = some back → pktOp p 0x1A 2 = 1 → whlPiece p < pieceCount x → s.streamRoom g 2 →
            ∀ f w, s.regionPieces l (x.offset + 2048 * whlPiece p) (pieceLen x (whlPiece p)) = [(f, w, pieceLen x (whlPiece p))] → s.meetsUnheld [(f, w, pieceLen x (whlPiece p))] = false → runsTo s .whlPull (fun t =>
              t.fab.inbox = [] ∧ t.mem = s.mem ∧ s.sentOne t g 2 (s.whlPacket 0x51 g c back man [(0x18, 2, whlWheel p), (0x1C, 4, whlPiece p)] (s.readPhys w (pieceLen x (whlPiece p)))))))))

/-! ### The host interface (R380 to R408) -/

/-- Rings (R389 to R401): a doorbell's valid value becomes the ring's count and starts the reads, in requests of at most Max Read Request Size, a descriptor's bytes join the ring when they come, an invalid value ends the context, or for the event ring is
counted, and one to a disabled ring is counted alone; NOP and RING.BARRIER, taken from the head, advance it, write SQ_HEAD and leave an OK record in the slot the ring's tail named, the
barrier only when no earlier descriptor of its ring is open, and else only the turn passes on (R393; log 121); a backlogged record moves when room comes; an event ring that is read to its end raises
ALERT_N (R465; log 136); and the moderation timer sends the vector's message, or marks a masked one pending. That the message goes out whatever MSI-X Enable holds is the model's choice (log 5). -/
def Obligations.RingsTakeAndComplete : Prop :=
  ∀ (s : State) (fn : Fn) (ring : Ring),
    let r := s.ring fn ring
    let base := 2 ^ 25 * fn.val
    let mrd := s.host.link.maxRead
    let sq := fun (k : Nat) => (s.reg (base + 0x200 + 0x40 * ring.val + 8 * k)).toNat
    (∀ v : W32, s.hears fn = true → s.sqEnabled fn ring = true →
      let ok := (v - r.tail).toNat ≤ (r.head + BitVec.ofNat 32 (sq 1) - r.tail).toNat
      (ok → leadsTo s (.sqTail fn ring v) (fun t => (t.ring fn ring).tail = v ∧ (t.ring fn ring).head = r.head ∧ t.mem = s.mem ∧
        let slot := r.readTo.toNat % sq 1
        let n := min (v - r.readTo).toNat (min 16 (sq 1 - slot))
        (v ≠ r.readTo → 0 < sq 1 → s.readRoom (64 * n) = true → s.fnStopped fn = false →
          ∀ i < (64 * n + mrd - 1) / mrd, .read fn.val (sq 0 + 64 * slot + mrd * i) (min mrd (64 * n - mrd * i)) s.host.nextRead ∈ t.host.pcieOut))) ∧
      (¬ok → ∀ x, s.ctx? fn = some x → x.phase ≠ .ending → leadsTo s (.sqTail fn ring v) (fun t => t.ends fn 2 0 0 ∧ t.ring fn ring = r))) ∧
    (∀ v : W32, s.hears fn = true → s.sqEnabled fn ring = false → leadsTo s (.sqTail fn ring v) (fun t => s.countedBy t (base + 0x30) 1 ∧ t.host = s.host ∧ t.mem = s.mem)) ∧
    (∀ (rid n : Nat) (count : W32) (bs : List Byte), tabFind s.host.reads rid = some ⟨fn, .descriptors ring count n⟩ → fn.val ∉ s.host.resetting → rid < s.host.nextRead →
      runsTo s (.hostReadCompletion rid (.data bs)) (fun t => tabFind t.host.reads rid = none ∧ t.mem = s.mem ∧
        (t.ring fn ring).fetched = r.fetched ++ (List.range n).map (fun j => (count + BitVec.ofNat 32 j, (bs.drop (64 * j)).take 64)))) ∧
    (∀ (b : List Byte) (x : CtxState), s.headDesc fn ring = some b → s.ctx? fn = some x → x.phase = .active →
      let rec_ := s.recordBytes (BitVec.ofNat 8 (fieldN b 0 1)) 0 (BitVec.ofNat 32 (fieldN b 4 4)) []
      let completes : State → Prop := fun t => (t.ring fn ring).head = r.head + 1 ∧ t.mem = s.mem ∧ t.ten = s.ten ∧ t.host.fnTurn = (fn.val + 1) % 64 ∧ tabGet 0 t.host.ringTurn fn = (ring.val + 1) % 8 ∧ .write fn.val ((s.reg (base + 0x108)).toNat + 8 * ring.val) (leBytes 8 (r.head + 1).toNat) ∈ t.host.pcieOut ∧
        (s.canRecord fn ring = true → s.recorded t fn ring rec_ ∧ (t.ring fn ring).cqTail = r.cqTail + 1 ∧
          .write fn.val ((s.reg (base + 0x108)).toNat + 0x40 + 8 * ring.val) (leBytes 8 (r.cqTail + 1).toNat) ∈ t.host.pcieOut)
      let clean := fieldZero b 1 3 && fieldZero b 8 56
      (s.backlogOf fn).length < 65536 →
      (fieldN b 0 1 = 0x01 → clean = true → leadsTo s (.nop fn ring) completes) ∧
      (fieldN b 0 1 = 0x11 → clean = true → r.open_ = 0 → leadsTo s (.ringBarrier fn ring) completes) ∧
      (fieldN b 0 1 = 0x11 → clean = true → r.open_ ≠ 0 → leadsTo s (.ringBarrier fn ring) (fun t => t = s.passTurn fn ring)) ∧
      (fieldN b 0 1 = 0x01 → clean = false → leadsTo s (.nop fn ring) (fun t => t.ends fn 2 0 1 ∧ t.ring fn ring = r))) ∧
    (∀ (v : W32) (rec_ : List Byte), s.hears fn = true → s.fnStopped fn = false → s.cqEnabled fn ring = true → (v - r.cqHead).toNat ≤ (r.cqTail - r.cqHead).toNat → s.backlogOf fn = [(ring.val, rec_)] → (r.cqTail - v).toNat < sq 3 →
      leadsTo s (.cqHead fn ring v) (fun t => (t.ring fn ring).cqHead = v ∧ (t.ring fn ring).cqTail = r.cqTail + 1 ∧ t.backlogOf fn = [] ∧ s.recorded t fn ring rec_ ∧ t.mem = s.mem)) ∧
    (∀ v : W32, s.hears 0 = true → s.evqEnabled = true → s.host.evBacklog = [] →
      let q := s.host.evq
      ((v - q.cqHead).toNat ≤ (q.cqTail - q.cqHead).toNat → leadsTo s (.evqHead v) (fun t => t = { s with host := { s.host with evq := { q with cqHead := v } }, power := if v = q.cqTail then { s.power with alertN := true } else s.power })) ∧
      (¬(v - q.cqHead).toNat ≤ (q.cqTail - q.cqHead).toNat → leadsTo s (.evqHead v) (fun t => t.host = s.host ∧ s.countedBy t 0x28 1))) ∧
    (∀ t0, r.modFirst = some t0 → (sq 4).testBit 8 = true → let time := sq 5 / 2 ^ 16 % 2 ^ 10
      time ≠ 0 → time * 1000 ≤ s.now - t0 → fn.val ∉ s.host.resetting → runsTo s (.cqModTimer fn ring) (fun t => t.ring fn ring = { r with modCount := 0, modFirst := none } ∧ t.mem = s.mem ∧
        (if (tabGet MsixEntry.reset s.host.msix (64 * fn.val + sq 4 % 64)).masked then (64 * fn.val + sq 4 % 64) ∈ t.host.pba ∧ t.host.pcieOut = s.host.pcieOut
          else t.host.pcieOut = s.host.pcieOut ++ [.msix fn.val (sq 4 % 64)])))

/-- HOST.COPY (R399, R400): a copy of one piece to the host writes the bytes there, in requests of at most Max Payload Size, and leaves an OK record with the count; one from the host reads them, and when they come writes them to memory and
completes; an error or poison completes it with HOST_ABORT or HOST_POISON and the bytes moved before, and touches no memory outside the piece. That a piece has at most 2,048 bytes, and is read from
the host by itself, is the model's choice (log 34). -/
def Obligations.HostCopiesMoveBytes : Prop :=
  ∀ (s : State) (fn : Fn) (ring : Ring) (x : CtxState), s.sound = true → s.ctx? fn = some x → x.phase = .active → s.canRecord fn ring = true → s.sec.home = none →
    (∀ (b : List Byte) (i f w : Nat), s.headDesc fn ring = some b → fieldN b 0 1 = 0x10 → s.copyFields fn b = true →
      let n := fieldN b 8 8
      let host := fieldN b 0x10 8
      let dev := fieldN b 0x18 8
      let mrd := s.host.link.maxRead
      let mpl := s.host.link.maxPayload
      n ≤ 2048 → s.flatPieces dev n = some [(f, w, n)] → s.meetsUnheld [(f, w, n)] = false → s.vats.waiting = [] → s.vats.hurt = [] → s.vatFor fn 3 ⟨3, 2 * s.host.nextCopy, 0, 0⟩ = none → s.vatAllowed fn 3 (fitClass n) = true → s.vats.pools.length = 6 →
      (s.pool (fitClass n)).sram.top = some i → s.readRoom n = true →
      leadsTo s (.hostCopy fn ring) (fun t => (t.ring fn ring).head = (s.ring fn ring).head + 1 ∧ t.mem = s.mem ∧
        (fieldN b 1 1 = 1 → (∀ i < (n + mpl - 1) / mpl, .write fn.val (host + mpl * i) (((s.readPhys w n).drop (mpl * i)).take mpl) ∈ t.host.pcieOut) ∧ tabFind t.host.copies s.host.nextCopy = none ∧
          s.recorded t fn ring (s.recordBytes 0x10 0 (BitVec.ofNat 32 (fieldN b 4 4)) (leBytes 8 n))) ∧
        (fieldN b 1 1 = 0 → (∀ i < (n + mrd - 1) / mrd, .read fn.val (host + mrd * i) (min mrd (n - mrd * i)) s.host.nextRead ∈ t.host.pcieOut) ∧ tabFind t.host.reads s.host.nextRead = some ⟨fn, .copy s.host.nextCopy 0 n⟩))) ∧
    (∀ (rid id n f w : Nat) (k : HostCopyState) (bs : List Byte), tabFind s.host.reads rid = some ⟨fn, .copy id 0 n⟩ → fn.val ∉ s.host.resetting → tabFind s.host.copies id = some k →
      k.desc.fn = fn → k.desc.ring = ring → k.toHost = false → k.length = n → k.done = 0 → k.nextOff = n → 1 ≤ n → n ≤ 2048 → bs.length = n → s.flatPieces k.dev n = some [(f, w, n)] →
      (∀ r ∈ s.host.reads, ∀ o m, r.2.use = .copy id o m → r.1 = rid) → s.vatsQuiet = true → s.vats.hurt = [] →
      let ended : State → Nat → Nat → Prop := fun t status moved => tabFind t.host.copies id = none ∧ s.recorded t fn ring (s.recordBytes k.desc.op status k.desc.tag (leBytes 8 moved))
      runsTo s (.hostReadCompletion rid (.data bs)) (fun t => t.readPhys w n = bs ∧ s.sameOutside t [(w, n)] ∧ ended t 0 n) ∧
      runsTo s (.hostReadCompletion rid .abort) (fun t => s.sameOutside t [(w, n)] ∧ ended t 0x70 0) ∧
      runsTo s (.hostReadCompletion rid .poison) (fun t => s.sameOutside t [(w, n)] ∧ ended t 0x71 0))

/-- Function resets (R402 to R406): a reset function issues nothing more and its context's teardown begins with reason RESET; PF0's, or the link's, takes every context and clears VF Enable; clearing VF Enable resets every VF;
once the contexts are gone the function's rings and registers stand at their reset values and the others as they were. A link reset has no effect while a package reset is held or its wipes run
(R485; log 137). The model's own choices here: what numVfs, ari and the link's configuration hold after a link reset (logs 5 and 120), and which registers of PF0 return to reset (log 60). -/
def Obligations.FunctionsAreReset : Prop :=
  ∀ (s : State) (fn : Fn),
    let going : State → Nat → Prop := fun t c => ∀ x, s.ctx? c = some x → x.phase ≠ .ending → ∃ y e, t.ctx? c = some y ∧ y.phase = .ending ∧ y.ending = some e ∧ e.reason = 4 ∧ e.cls = 0
    let all : State → Prop := fun t => t.host.vfEnable = false ∧ 0 ∈ t.host.resetting ∧ (∀ f < 64, 1 ≤ f → s.fnExists f = true → f ∈ t.host.resetting) ∧ (∀ c, going t c) ∧ t.mem = s.mem ∧ t.host.pcieOut = s.host.pcieOut
    s.host.copies = [] →
    (fn ≠ 0 → s.fnExists fn = true → fn.val ∉ s.host.resetting → runsTo s (.functionLevelReset fn) (fun t => fn.val ∈ t.host.resetting ∧ going t fn ∧ t.mem = s.mem ∧ t.regs = s.regs ∧
      t.host.pcieOut = s.host.pcieOut ∧ ∀ c, c ≠ fn.val → t.ctx? c = s.ctx? c)) ∧
    runsTo s (.functionLevelReset 0) all ∧ (s.sec.boot ≠ .held → s.sec.boot ≠ .wiping → runsTo s .linkReset (fun t => all t ∧ t.host.linkReset = true)) ∧
    (s.sec.boot = .held ∨ s.sec.boot = .wiping → exec .linkReset s = .next s) ∧
    runsTo s .vfEnableClear (fun t => t.host.vfEnable = false ∧ (∀ f < 64, 1 ≤ f → s.fnExists f = true → f ∈ t.host.resetting ∧ (f ∉ s.host.resetting → going t f)) ∧ t.mem = s.mem ∧ t.ctx? 0 = s.ctx? 0) ∧
    (∀ (n : Fin 64) (ari : Bool), 0 ∉ s.host.resetting → s.host.vfEnable = false →
      runsTo s (.vfEnableSet n ari) (fun t => t = { s with host := { s.host with vfEnable := true, numVfs := n, ari := ari } })) ∧
    (fn ≠ 0 → fn.val ∈ s.host.resetting → 0 ∉ s.host.resetting → s.ctx? fn = none → runsTo s (.functionResetDone fn) (fun t => fn.val ∉ t.host.resetting ∧ t.mem = s.mem ∧ t.ten = s.ten ∧
      (∀ i < 8, t.ring fn i = RingState.reset) ∧ t.backlogOf fn = [] ∧ (∀ o < 0x700, t.reg (2 ^ 25 * fn.val + o) = State.reset.reg (2 ^ 25 * fn.val + o)) ∧
      ∀ g, g ≠ fn.val → (∀ i < 8, t.ring g i = s.ring g i) ∧ t.backlogOf g = s.backlogOf g ∧ ∀ o < 2 ^ 25, t.reg (2 ^ 25 * g + o) = s.reg (2 ^ 25 * g + o))) ∧
    (0 ∈ s.host.resetting → s.ten.ctxs = [] → runsTo s (.functionResetDone 0) (fun t => t.host.resetting = [] ∧ (∀ i < 8, t.ring 0 i = RingState.reset) ∧ t.host.evq = RingState.reset ∧ t.host.evBacklog = [] ∧
      (∀ o < 0x700, t.reg o = State.reset.reg o) ∧ (s.host.linkReset = true → t.host.numVfs = 0 ∧ t.host.ari = false ∧ t.host.linkReset = false ∧ t.host.link = .reset)))

/-! ### Tenant contexts (R410 to R436) -/

/-- Creating a context (R415, R416, R159, R414, R417): CTX.CREATE with free areas and enough free good clusters gives the context the lowest of them, wiped, and completes OK; the wipe's end lets its
launches start; CTX.MAP writes one entry of its map, and CTX.KEYSET reads 64 bytes of host memory and writes one key; each takes its descriptor, and nothing else of memory or of another context changes. -/
def Obligations.ContextsAreCreatedAndMapped : Prop :=
  ∀ (s : State) (ring : Ring) (b : List Byte), s.headDesc 0 ring = some b → s.canRecord 0 ring = true → tabWf CoreState.reset s.cores = true →
    let c := fieldN b 2 1
    let op := fieldN b 0 1
    let taken : State → Prop := fun t => (t.ring 0 ring).head = (s.ring 0 ring).head + 1 ∧ s.recorded t 0 ring (s.recordBytes (BitVec.ofNat 8 op) 0 (BitVec.ofNat 32 (fieldN b 4 4)) []) ∧
      ∀ k, k ≠ c → t.ctx? k = s.ctx? k
    (∀ lent : Bool, op = 0x80 → s.time.acquired = true → createFields b = true → s.ctx? c = none → (fieldN b 1 1).testBit 0 = lent → ¬(c = 0 ∧ lent = true) → s.lcAllows c = true → s.fnExists c = true →
      let n := fieldN b 8 2
      let save := fieldN b 0x18 8
      let rep := fieldN b 0x20 8
      s.areaFree save (2 ^ 20 + n * 2 ^ 24) = true → s.areaFree rep (196 * 2 ^ 20) = true → rangesMeet save (2 ^ 20 + n * 2 ^ 24) rep (196 * 2 ^ 20) = false → n ≤ s.freeClusters.length →
      let l := s.freeClusters.take n
      leadsTo s (.ctxCreate 0 ring) (fun t => taken t ∧
        (∃ x, t.ctx? c = some x ∧ x.phase = .active ∧ x.lent = lent ∧ x.count = n ∧ x.clusters = l ∧ x.srKey = BitVec.ofNat 64 (fieldN b 0x10 8) ∧ x.saveBase = BitVec.ofNat 64 save ∧
          x.replyBase = BitVec.ofNat 64 rep ∧ x.map = [] ∧ x.ending = none) ∧
        (∀ i k, l[i]? = some k → t.cluster k = { s.cluster k with owner := some (c, i), wiping := true }) ∧ (∀ k, k ∉ l → t.cluster k = s.cluster k) ∧
        (∀ a, t.byteAt a = if isDram a = false ∧ clusterOfPhys a ∈ l then 0 else s.byteAt a) ∧
        (∀ k, t.core k = if coreCluster k ∈ l then { CoreState.reset with lastRdtb := (s.core k).lastRdtb, drained := s.drainedBit (coreCluster k) } else s.core k))) ∧
    (∀ (k : Ctx) (x : CtxState), s.ctx? k = some x → runsTo s (.clusterWipeDone k) (fun t => t.ten = s.ten ∧ t.mem = s.mem ∧ t.cores = s.cores ∧
      (∀ j, t.cluster j = if j ∈ x.clusters then { s.cluster j with wiping := false } else s.cluster j))) ∧
    (∀ x, s.ctx? c = some x → c < 64 → fieldZero b 1 1 = true → fieldZero b 3 1 = true → fieldZero b 9 7 = true →
      let v := BitVec.ofNat 128 (fieldN b 0x10 16)
      (op = 0x81 → fieldZero b 0x20 32 = true → v.toNat / 2 ^ 95 % 2 ^ 33 = 0 → (mapFrames v ≠ 0 → mapBase v % 65536 = 0 ∧ s.mapConflict c x v = false) →
        leadsTo s (.ctxMap 0 ring) (fun t => taken t ∧ t.ctx? c = some { x with map := tabSet 0 x.map (fieldN b 8 1) v } ∧ t.mem = s.mem)) ∧
      (∀ bs : List Byte, op = 0x86 → fieldZero b 0x18 40 = true → s.sec.rindWiped = false → s.sec.rindBusy = false → bs.length = 64 → s.readRoom 64 = true →
        (fieldN b 8 1 < 4 → (ecKey bs).isSome = true → leadsTo s (.ctxKeyset 0 ring (.data bs)) (fun t => taken t ∧ t.ten = s.ten ∧ t.mem = s.mem ∧ .read 0 (fieldN b 0x10 8) 64 s.host.nextRead ∈ t.host.pcieOut ∧
          t.sec.rind.ctxKeys = tabInsert s.sec.rind.ctxKeys (8 * c + fieldN b 8 1) bs)) ∧
        (fieldN b 8 1 = 4 → fieldZero bs 32 32 = true → leadsTo s (.ctxKeyset 0 ring (.data bs)) (fun t => taken t ∧ t.ten = s.ten ∧ t.mem = s.mem ∧ .read 0 (fieldN b 0x10 8) 64 s.host.nextRead ∈ t.host.pcieOut ∧
          t.sec.rind.ctxKeys = tabInsert s.sec.rind.ctxKeys (8 * c + 4) (bs.take 32) ∧ t.reg (0x40060 + 0x1000 * c) = 0 ∧ t.reg (0x40068 + 0x1000 * c) = 0))))

/-- The end of a context (R418 to R421): CTX.DESTROY begins the teardown with reason DESTROYED; while a read or atomic is open it goes no further; and the end of its drain removes the context and its
requests, frees its clusters with their SRAM wiped, and, for a context with no work left in the other blocks, writes FN_STATUS and the teardown record. That FN_STATUS is written whatever the reason
(log 54), and that the drain waits for reads and atomics while the writes still open are counted as lost (log 53), are the model's choices. -/
def Obligations.ContextsEnd : Prop :=
  ∀ (s : State) (c : Ctx) (x : CtxState), s.ctx? c = some x → tabWf CoreState.reset s.cores = true →
    (∀ (ring : Ring) (b : List Byte), s.headDesc 0 ring = some b → fieldN b 0 1 = 0x84 → fieldZero b 1 1 = true → fieldZero b 3 1 = true → fieldZero b 8 56 = true → fieldN b 2 1 = c → x.phase ≠ .ending →
      leadsTo s (.ctxDestroy 0 ring) (fun t => t.ends c 0 2 0 ∧ (t.ring 0 ring).head = (s.ring 0 ring).head + 1 ∧ t.mem = s.mem ∧
        (∀ k, coreCluster k ∈ x.clusters → (t.core k).run ≠ .running) ∧ ∃ y, t.ctx? c = some y ∧ (⟨0, ring, 0x84, BitVec.ofNat 32 (fieldN b 4 4)⟩, 0) ∈ y.owed)) ∧
    (∀ e, x.ending = some e → (s.memop.slots.any (fun q => q.2.ctx == c && (q.2.kind == 0x10 || q.2.kind == 0x13))) = true → runsTo s (.teardownDrainEnd c) (fun t => t = s)) ∧
    (∀ e, x.ending = some e → e.drained = false → s.drainOpen c = false → s.seq.slots = [] → s.seq.boundary = none → s.seq.tornDown = [] → s.press.marks = [] → s.press.remaps = [] → s.press.failed = none → s.deal.tricks = [] → s.deal.dirsets = [] → s.coll.colls = [] →
      s.host.copies = [] → s.vats.held = [] → s.vats.waiting = [] → s.whl.loads = [] → s.whl.epochs = [.free, .free, .free, .free] → s.whl.adapters = [] → s.fab.inbox = [] → s.ten.edges = [] →
      s.ten.reclaim = [] → x.owed = [] → s.evqEnabled = true → s.host.evBacklog = [] → s.evqRoom = true → s.host.resetting = [] → s.sec.home = none → (∀ k, (s.cluster k).failCtx ≠ some c.val) →
      let lost := (s.memop.slots.filter (fun q => q.2.ctx == c.val && (q.2.kind == 0x11 || q.2.kind == 0x12))).length
      runsTo s (.teardownDrainEnd c) (fun t => t.ctx? c = none ∧ (∀ k, k ≠ c.val → t.ctx? k = s.ctx? k) ∧ (∀ q ∈ t.memop.slots, q.2.ctx ≠ c.val) ∧
        (∀ k, t.cluster k = if k ∈ x.clusters then { s.cluster k with owner := none, wiping := false } else s.cluster k) ∧
        (∀ a, t.byteAt a = if isDram a = false ∧ clusterOfPhys a ∈ x.clusters then 0 else s.byteAt a) ∧
        (∀ k ∈ t.sec.rind.ctxKeys, k.1 / 8 ≠ c.val) ∧
        (t.reg (2 ^ 25 * c.val + 0x10)).toNat = (if (s.reg (2 ^ 25 * c.val + 0x10)).toNat % 2 = 1 ∨ e.reason ≤ 1 then 1 else 0) + e.cls % 16 * 16 + e.reason % 16 * 256 ∧
        (let q := s.host.evq
         .write 0 ((s.reg 0x400).toNat + 32 * (q.cqTail.toNat % (s.reg 0x408).toNat)) (leBytes 1 0x90 ++ zeroBytes 1 ++ leBytes 1 c ++ leBytes 1 (e.cls % 16 + e.reason * 16) ++ leBytes 4 e.tag.toNat ++
           leBytes 8 e.detail.toNat ++ leBytes 4 e.atomics ++ leBytes 4 (e.writes + lost) ++ leBytes 8 s.now) ∈ t.host.pcieOut)))

/-- Pre-emption and resume (R422 to R427): CTX.PREEMPT makes an Active context Stopping; when its cores have stopped the rows of its clusters are saved by logical cluster, the save area alone being
written; when that is done its clusters are wiped and freed and it is Suspended; CTX.RESUME gives it free clusters, and at the end of the restore every saved core and byte stands on the cluster that
has its logical number, and the context is Active; a save area with a tag that does not verify, or with a poisoned word, ends it with class UNCORRECTABLE. That every row is saved at CORES_STOPPED
(log 50), and the form of the save area (log 51), are the model's choices. Reclaim (R422, R428 to R430): an accepted CTX.RECLAIM makes each context it names Reclaiming and counts it in RECLAIM_SEQ; one that has stopped and drained holds no cluster from then on; the kept region of a context without a KEEP_KEY goes to the host as it stands; when every
region is done, or at 19.5 s with the rest partial, the contexts are torn down with reason RECLAIMED. -/
def Obligations.ContextsAreSavedResumedAndReclaimed : Prop :=
  (∀ (s : State) (c : Ctx) (x : CtxState), s.ctx? c = some x → tabWf CoreState.reset s.cores = true → tabWf memDefault s.mem = true → s.coll.colls = [] → s.deal.tricks = [] → x.clusters.Nodup → (∀ k ∈ x.clusters, k < 200) →
     let others : State → Prop := fun t => ∀ k, k ≠ c.val → t.ctx? k = s.ctx? k
     (∀ (ring : Ring) (b : List Byte), s.headDesc 0 ring = some b → ctxOnly b = true → fieldN b 2 1 = c →
       let d : DescRef := ⟨0, ring, BitVec.ofNat 8 (fieldN b 0 1), BitVec.ofNat 32 (fieldN b 4 4)⟩
       let head : State → Prop := fun t => (t.ring 0 ring).head = (s.ring 0 ring).head + 1 ∧ others t
       (fieldN b 0 1 = 0x82 → x.phase = .active → leadsTo s (.ctxPreempt 0 ring) (fun t => head t ∧ t.mem = s.mem ∧ t.cores = s.cores ∧ t.ctx? c = some { x with phase := .stopping, preempt := some d, stopped := false } ∧
         (t.reg (0x40068 + 0x1000 * c.val)).toNat = ((s.reg (0x40068 + 0x1000 * c.val)).toNat + 1) % 2 ^ 32)) ∧
       (fieldN b 0 1 = 0x83 → x.phase = .suspended → x.count ≤ s.freeClusters.length →
         let l := s.freeClusters.take x.count
         leadsTo s (.ctxResume 0 ring) (fun t => head t ∧ t.ctx? c = some { x with phase := .resuming, clusters := l, resume := some d } ∧
           (∀ i k, l[i]? = some k → t.cluster k = { s.cluster k with owner := some (c.val, i), wiping := false }) ∧ (∀ k, k ∉ l → t.cluster k = s.cluster k) ∧
           (∀ a, t.byteAt a = if isDram a = false ∧ clusterOfPhys a ∈ l then 0 else s.byteAt a)))) ∧
     (x.phase = .stopping → x.stopped = false → s.sound = true → ∀ pl, s.flatPieces x.saveBase.toNat (2 ^ 20 + x.count * 2 ^ 24) = some pl →
       runsTo s (.coresStopped c) (fun t => others t ∧ s.sameOutside t (pl.map (fun p => (p.2.1, p.2.2))) ∧
         (∀ k, coreCluster k ∈ x.clusters → t.core k = if (s.core k).run = .running then { s.core k with run := .stopped } else s.core k) ∧
         ∃ v, t.ctx? c = some { x with stopped := true, savedRows := true, saved := some v } ∧
           ∀ (i k a : Nat), x.clusters[i]? = some k → (a < 2 ^ 22 → memRead v.mem (2 ^ 42 + i * 2 ^ 22 + a) = s.byteAt (2 ^ 42 + k * 2 ^ 22 + a)) ∧ (a < 2 ^ 23 → memRead v.mem (2 ^ 43 + i * 2 ^ 23 + a) = s.byteAt (2 ^ 43 + k * 2 ^ 23 + a)))) ∧
     (∀ v d, x.phase = .stopping → x.stopped = true → x.saved = some v → s.drainOpen c = false → x.preempt = some d → s.canRecord d.fn d.ring = true →
       runsTo s (.preemptComplete c) (fun t => others t ∧ (∃ y, t.ctx? c = some y ∧ y.phase = .suspended ∧ y.clusters = [] ∧ y.preempt = none ∧ ∃ w, y.saved = some w ∧ w.mem = v.mem ∧
           ∀ i k j, x.clusters[i]? = some k → j < 128 → tabGet CoreState.reset w.cores (128 * i + j) = s.core (128 * k + j)) ∧
         (∀ k, t.cluster k = if k ∈ x.clusters then { s.cluster k with owner := none, wiping := false } else s.cluster k) ∧
         (∀ a, t.byteAt a = if isDram a = false ∧ clusterOfPhys a ∈ x.clusters then 0 else s.byteAt a) ∧ s.recorded t d.fn d.ring (s.recordBytes d.op 0 d.tag []))) ∧
     (∀ v d, x.phase = .resuming → x.saved = some v → x.replies = [] → x.log = [] → x.heldWrites = [] → x.resume = some d → s.canRecord d.fn d.ring = true → s.sound = true → s.tagsVerify c x = true → (s.seqCtx c).held = none → tabWf memDefault v.mem = true → tabWf CoreState.reset v.cores = true →
       (∀ e ∈ v.mem, 2 ^ 42 ≤ e.1 ∧ clusterOfPhys e.1 < x.clusters.length) → (∀ e ∈ v.cores, e.1 < 128 * x.clusters.length) →
       runsTo s (.resumeComplete c true) (fun t => others t ∧ (∃ y, t.ctx? c = some y ∧ y.phase = .active ∧ y.saved = none ∧ y.savedRows = false ∧ y.resume = none ∧ y.clusters = x.clusters) ∧
         (∀ (i k : Nat) e, x.clusters[i]? = some k → e ∈ v.mem → clusterOfPhys e.1 = i → t.byteAt (if e.1 < 2 ^ 43 then 2 ^ 42 + k * 2 ^ 22 + (e.1 - 2 ^ 42) % 2 ^ 22 else 2 ^ 43 + k * 2 ^ 23 + (e.1 - 2 ^ 43) % 2 ^ 23) = e.2) ∧
         (∀ i k j e, x.clusters[i]? = some k → (128 * i + j, e) ∈ v.cores → j < 128 → t.core (128 * k + j) = { e with run := if e.run = .stopped then .running else e.run, mxHalt := false, vxHalt := false, lastRdtb := max e.lastRdtb (s.core (128 * k + j)).lastRdtb, drained := (s.core (128 * k + j)).drained }) ∧
         (∀ a, isDram a = true → t.byteAt a = s.byteAt a) ∧ s.recorded t d.fn d.ring (s.recordBytes d.op 0 d.tag []))) ∧
     (x.phase = .resuming → s.damage = [] → s.tagsVerify c x = false ∨ (∃ w ∈ s.dramPoison, ∃ p ∈ (s.flatPieces x.saveBase.toNat (2 ^ 20 + x.count * 2 ^ 24)).getD [], rangesMeet (32 * w) 32 p.2.1 p.2.2 = true) →
       runsTo s (.resumeComplete c false) (fun t => t.ends c 3 0 0 ∧ t.mem = s.mem ∧ others t))) ∧
  (∀ (s : State),
     (∀ (ring : Ring) (b : List Byte) (c : Nat) (x : CtxState), s.headDesc 0 ring = some b → fieldN b 0 1 = 0x85 → reclaimFields b = true → fieldN b 8 8 = 2 ^ c → c < 64 → fieldN b 0x18 4 = 0 → s.ctx? c = some x →
       x.lent = true → (x.phase = .active ∨ x.phase = .stopping ∨ x.phase = .suspended) → s.keepers [c] = [] → s.coll.colls = [] → s.ten.reclaim = [] →
       s.readRoom 0 = true → (∀ k y, k ≠ c → s.ctx? k = some y → y.phase ≠ .reclaiming) → (x.stopped = true ∨ x.phase = .suspended → x.clusters = [] ∨ s.drainOpen c = true) →
       leadsTo s (.ctxReclaim 0 ring (.data [])) (fun t => (t.ring 0 ring).head = (s.ring 0 ring).head + 1 ∧ t.mem = s.mem ∧ (∀ k, k ≠ c → t.ctx? k = s.ctx? k) ∧
         t.ctx? c = some { x with phase := .reclaiming, stopped := x.phase == .suspended || x.stopped, saved := none, savedRows := false } ∧
         (t.reg (0x40060 + 0x1000 * c)).toNat = ((s.reg (0x40060 + 0x1000 * c)).toNat + 1) % 2 ^ 32 ∧
         t.ten.reclaim = [⟨s.ten.nextReclaim, ⟨0, ring, 0x85, BitVec.ofNat 32 (fieldN b 4 4)⟩, [c], [], s.now, 0, false⟩])) ∧
     (∀ (c : Ctx) (x : CtxState), s.ctx? c = some x → x.phase = .reclaiming → x.stopped = false → s.drainOpen c = false → (∀ k y, k ≠ c.val → s.ctx? k = some y → y.phase ≠ .reclaiming) →
       tabWf CoreState.reset s.cores = true → runsTo s (.coresStopped c) (fun t => (∃ y, t.ctx? c = some y ∧ y.phase = .reclaiming ∧ y.stopped = true ∧ y.clusters = []) ∧ (∀ k, k ≠ c.val → t.ctx? k = s.ctx? k) ∧
         (∀ k, t.cluster k = if k ∈ x.clusters then { s.cluster k with owner := none, wiping := false } else s.cluster k) ∧
         (∀ a, t.byteAt a = if isDram a = false ∧ clusterOfPhys a ∈ x.clusters then 0 else s.byteAt a))) ∧
     (∀ (q : Reclaim) (c : Nat) (x : CtxState), s.ten.reclaim = [q] → q.tearing = false → q.ctxs = [c] → s.ctx? c = some x → x.phase = .reclaiming →
       (∀ k v f w, q.regions = [k] → k.ctx = c → k.toHost = true → k.block = 0 → k.queue = [] → k.done = false → k.partial_ = false → x.stopped = true → s.drainOpen c = false → s.sound = true →
         tabGet 0 x.map k.entry = v → mapFrames v = 1 → s.flatPieces (mapBase v) 65536 = some [(f, w, 65536)] → s.meetsUnheld [(f, w, 65536)] = false → tabGet [] s.sec.rind.ctxKeys (8 * c + 4) = [] → c ∉ s.host.resetting →
         s.memop.slots = [] → (∀ j y, s.ctx? j = some y → y.phase = .reclaiming → y.clusters = []) →
         runsTo s .reclaimCopiesDone (fun t => t.ends c 0 3 0 ∧ t.mem = s.mem ∧
           (∀ i, s.host.link.maxPayload * i < 65536 → .write c (k.dest + s.host.link.maxPayload * i) (((s.readPhys w 65536).drop (s.host.link.maxPayload * i)).take s.host.link.maxPayload) ∈ t.host.pcieOut) ∧
           ∃ y k', t.ten.reclaim = [y] ∧ y.tearing = true ∧ y.copied = q.copied + 65536 ∧ y.regions = [k'] ∧ k'.done = true ∧ k'.partial_ = false)) ∧
       (19500000000 ≤ s.now - q.start → runsTo s .reclaimDeadline (fun t => t.ends c 0 3 0 ∧ s.sameOutside t ((q.regions.filter (!·.done)).flatMap (fun k => (s.keptPieces k).map (fun x => (x.2.1, x.2.2)))) ∧ t.host = s.host ∧
         ∃ y, t.ten.reclaim = [y] ∧ y.tearing = true ∧ ∀ k ∈ y.regions, k.done = true))))

/-- Accounting (R433 to R436, R481): the end of a window writes the record of each context at the next slot of the buffer and posts the notice, and the context's next interval starts there; an energy
interval adds each rail's energy to its register and charges a context that alone used a die for all of that die's energy, in the window in which the interval began; and within 10 µs of the last does nothing. -/
def Obligations.AccountsAreKept : Prop :=
  ∀ (s : State),
    (∀ (idx stop c : Nat) (ctrs : List Nat) (x : CtxState), s.ten.edges = [(idx, stop, [(c, ctrs)])] → s.ctx? c = some x → stop ≤ s.power.railTime → (s.reg 0xB0028).toNat.testBit 0 = true → 0 < (s.reg 0xB0038).toNat → 0 ∉ s.host.resetting →
      s.evqEnabled = true → s.host.evBacklog = [] → s.evqRoom = true →
      let n := (s.reg 0xB0040).toNat
      runsTo s .acctWindowEnd (fun t => t.ten.edges = [] ∧ t.mem = s.mem ∧ t.ctx? c = some { x with acctFirst := false, acctStart := stop, acctBase := ctrs } ∧ s.countedBy t 0xB0040 1 ∧
        .write 0 ((s.reg 0xB0030).toNat + 128 * (n % (s.reg 0xB0038).toNat)) (acctBytes c x ctrs stop false) ∈ t.host.pcieOut ∧
        ∃ a, .write 0 a ([0x91#8] ++ zeroBytes 7 ++ leBytes 8 idx ++ leBytes 8 (min (n + 1) (2 ^ 48 - 1)) ++ leBytes 8 s.now) ∈ t.host.pcieOut)) ∧
    (∀ e : List Nat, s.now - s.power.railTime < 10000 → runsTo s (.railEnergyInterval e) (fun t => t = s)) ∧
    (∀ e : List Nat, 10000 ≤ s.now - s.power.railTime → runsTo s (.railEnergyInterval e) (fun t => t.power.railTime = s.now ∧ t.ten.engSteps = [] ∧ t.mem = s.mem ∧
      (∀ j < 11, t.reg (0x30300 + 8 * j) = s.reg (0x30300 + 8 * j) + BitVec.ofNat 64 (e.getD j 0)) ∧
      (∀ c d n x, c < 64 → d < 4 → 0 < n → s.ten.ctxs = [(c, x)] → x.lent = true → s.ten.engSteps = [(4 * c + d, n)] → s.ten.dramBytes = [] → s.ten.tblSteps = [] → s.ten.fabBytes = [] →
        s.countedBy t (0x40528 + 0x1000 * c) (e.getD d 0) ∧
          ∀ idx stop ctrs, s.ten.edges = [(idx, stop, [(c, ctrs)])] → t.ten.edges = [(idx, stop, [(c, if s.power.railTime < stop then ctrs.set 5 (min (ctrs.getD 5 0 + e.getD d 0) (2 ^ 48 - 1)) else ctrs)])])))

/-! ### Reset, boot and the rind (R153 to R158, R437 to R442, R473, R474, R406 to R408) -/

/-- What restarts the package (R156, R473, R474, R442): SYS_RST_N low for 10 µs or more, a brown-out, the key written to PKG_RESET and firmware's silence put every register, memory, queue and context at its
reset state, keep the fuses, the flash, the serial number and the commands that wait, and hold the package; a shorter pulse below 1 µs, a wrong key and a silence with no firmware do nothing, and
between 1 µs and 10 µs either happens; a brown-out is also how power is removed, which ends a trip (log 83); the hold counts the steps for which SYS_RST_N is high and every rail within its limits, and ends after 50 µs of them, or
1 ms after a brown-out (log 137); the release starts the wipes and sets REFCLK_LOST if the reference clock is gone. -/
def Obligations.ResetsRestartThePackage : Prop :=
  ∀ (s : State),
    let restarted : State → Prop := fun t => t.pending = s.pending ∧ t.regs = [] ∧ t.mem = [] ∧ t.damage = [] ∧ t.dramPoison = [] ∧ t.rowPoison = [] ∧ t.cores = [] ∧ t.clusters = [] ∧ t.vats = .reset ∧ t.ten = .reset ∧
      t.seq = .reset ∧ t.net = .reset ∧ t.memop = .reset ∧ t.whl = .reset ∧ t.deal = .reset ∧ t.coll = .reset ∧ t.life = .reset ∧ t.time = { TimeState.reset with clockLost := s.time.clockLost } ∧
      t.sec.fuses = s.sec.fuses ∧ t.sec.flash = s.sec.flash ∧ t.sec.serial = s.sec.serial ∧ t.sec.rind = .empty ∧ t.sec.rindWiped = false ∧ t.sec.debugOpen = false ∧ t.sec.home = none ∧ t.sec.boot = .held ∧
      t.host.rings = [] ∧ t.host.reads = [] ∧ t.host.vfEnable = false ∧ t.fab.pos = none ∧ t.fab.ports = [] ∧ t.fab.peers = [] ∧ t.fab.inbox = [] ∧ t.press.wiping ≠ [] ∧ t.press.remaps = [] ∧
      t.power.tripped = false ∧ t.power.pwrGood = false ∧ t.power.lasersOff = false ∧ t.power.held = 0 ∧ t.power.sysRstN = s.power.sysRstN
    (∀ ns, s.power.tripped = false → 10000 ≤ ns → leadsTo s (.packageReset ns) restarted) ∧
    (∀ ns, ns < 1000 → leadsTo s (.packageReset ns) (fun t => t = s)) ∧
    (∀ ns, s.power.tripped = false → 1000 ≤ ns → ns < 10000 → leadsTo s (.packageReset ns) (fun t => restarted t ∨ ∃ k, t = { s with freeCtr := k })) ∧
    (s.power.tripped = true → ∀ ns, leadsTo s (.packageReset ns) (fun t => t = s)) ∧
    leadsTo s .brownOut (fun t => restarted t ∧ t.power.railsOk = false ∧ t.power.railsInBand = false ∧ t.power.browned = true) ∧
    (s.sec.boot = .running → s.power.tripped = false → leadsTo s .firmwareWatchdog restarted) ∧
    (s.sec.boot = .recovery → leadsTo s .firmwareWatchdog (fun t => t = s)) ∧
    (∀ v : W64, s.hears 0 = true → (v.toNat % 2 ^ 32 = 0x7A3C51E9 → leadsTo s (.pkgReset v) restarted) ∧ (v.toNat % 2 ^ 32 ≠ 0x7A3C51E9 → leadsTo s (.pkgReset v) (fun t => t = s))) ∧
    (let ended : Prop := s.sec.boot = .held ∧ s.power.sysRstN = true ∧ s.power.railsOk = true ∧ (if s.power.browned = true then 156250 else 7813) ≤ s.power.held
     let wiping : State := { s with sec := { s.sec with boot := .wiping } }
     (ended → leadsTo s .packageResetRelease (fun t => t = if s.time.clockLost = true then wiping.setTherm thRefclkLost true else wiping)) ∧
     (¬ended → leadsTo s .packageResetRelease (fun t => t = s))) ∧
    (∀ (ok band rst : Bool), s.sec.boot = .held → leadsTo s (.timebaseStep { StepEnv.quiet with rails := some (ok, band), sysRst := some rst }) (fun t =>
      t.sec = s.sec ∧ t.regs = s.regs ∧ t.power = { s.power with railsOk := ok, railsInBand := band, sysRstN := rst, browned := s.power.browned || !ok, held := if rst && ok then s.power.held + 1 else 0 }))

/-- Boot and images (R437 to R441, R406 to R408, R157): after the Table SRAM wipe the boot ROM stops on a decommissioned part, goes on with a marked transition, starts an image that verifies and waits for a push
of any other, counting the boot; RCV_GO reads the image in the host in parts of the size it names, BOOT_STATUS showing 0x4 once all of it is here; one that verifies starts at the next step of the timebase (log 122), and one that does not, or whose read fails, ends with its result in RCV_RESULT (a read that comes poisoned ends it as one aborted, log 85); FW.FLASH
takes one that verifies, and the write ends at the next step, with a flash that fails verification where it did not read back (log 87); an image that fails wipes the rind; a debug unlock opens the port for a credential that names this part, answers the challenge and is signed by the
key the fuses name (log 132); and the last DRAM wipe makes the page ledger: the good frames of each stack Free, in order, and the rest of its entries Retired. -/
def Obligations.BootChecksTheImage : Prop :=
  ∀ (s : State),
    let gone : State → Nat → Prop := fun t cause => t.sec.rind = .empty ∧ t.sec.rindBusy = true ∧ (s.sec.rindBusy = false → t.sec.rindCause = cause)
    let started : State → List Byte → Prop := fun t img => t.sec.boot = .running ∧ t.sec.bootCode = 5 ∧ t.sec.fwVersion = BitVec.ofNat 64 (fieldN img 0x10 8) ∧ t.sec.fwSvn = fieldN img 6 1 ∧
      t.sec.arithRev = BitVec.ofNat 16 (fieldN img 0x0C 2) ∧ t.sec.rind.fwMeas = sha256 (img.take (fieldN img 8 4)) ∧
      t.sec.fuses.minSvn = (if (fieldN img 7 1).testBit 0 = true ∧ s.sec.fuses.minSvn < fieldN img 6 1 then min (fieldN img 6 1) 32 else s.sec.fuses.minSvn) ∧
      (s.sec.rindWiped = false → s.sec.rindBusy = false → t.sec.rind.mgmtKeys = s.trustedKeys s.sec.flash.keyRecord ∧ t.sec.rind.nonces = []) ∧ t.mem = s.mem
    (s.sec.boot = .wiping →
      let boots := (s.sec.flash.bootCount + 1) % 2 ^ 32
      let img := s.sec.flash.image
      (s.lcState = 0 → runsTo s .tableSramWipeDone (fun t => t.sec.boot = .stopped ∧ t.sec.bootCode = 0xF ∧ t.sec.flash = s.sec.flash ∧ t.power.pwrGood = s.power.railsInBand)) ∧
      (s.lcState ≠ 0 → s.sec.flash.mark = none → s.imageOk img = true → s.sec.flash.torn = false → s.net.badDies = [] → runsTo s .tableSramWipeDone (fun t => started t img ∧ t.sec.flash.bootCount = boots ∧ t.life.live.powerCycles = boots ∧
        t.power.pwrGood = s.power.railsInBand ∧ t.sec.rind.identity = (if s.lcState ≠ 1 ∧ s.sec.fuses.idWrap = true ∧ s.sec.rindWiped = false ∧ s.sec.rindBusy = false then some (Config.unwrapIdentity s.sec.fuses.idWrapBits) else none))) ∧
      (s.lcState ≠ 0 → s.sec.flash.mark = none → s.imageOk img = false ∨ s.sec.flash.torn = true → runsTo s .tableSramWipeDone (fun t => t.sec.boot = .recovery ∧ t.sec.bootCode = 3 ∧ gone t 2 ∧ t.sec.flash.bootCount = boots)) ∧
      (∀ m, s.lcState ≠ 0 → s.sec.flash.mark = some m → s.press.wiping ≠ [] → runsTo s .tableSramWipeDone (fun t => t.sec.boot = .markWait ∧ t.sec.flash.bootCount = boots ∧ t.sec.fuses = s.sec.fuses)) ∧
      (∀ m, s.lcState ≠ 0 → s.sec.flash.mark = some m → s.press.wiping = [] → runsTo s .tableSramWipeDone (fun t => t.sec.boot = .held ∧ t.sec.flash.mark = none ∧
        (m.target = 0 → t.sec.fuses.lcDecom = true) ∧ (m.target ≠ 0 → t.sec.fuses.lcBits = s.sec.fuses.lcBits ||| BitVec.ofNat 4 m.target) ∧ (m.target = 7 → t.sec.fuses.ownerHash = m.ownerHash)))) ∧
    (∀ k : Stack, k.val ∈ s.press.wiping → s.sec.boot ≠ .held → s.life.live.stackBytes.length = 12 →
      runsTo s (.pressWipeDone k) (fun t =>
        (s.press.wiping.filter (· != k.val) ≠ [] → t = { s with
          life := { s.life with live := { s.life.live with stackBytes := s.life.live.stackBytes.set k (s.life.live.stackBytes.getD k 0 + 96 * 2 ^ 30) } }
          press := { s.press with wiping := s.press.wiping.filter (· != k.val) } }) ∧
        (s.press.wiping.filter (· != k.val) = [] → s.sec.boot = .running → (s.sec.transition = none ∨ s.sec.flash.mark = none) → t.press.wiping = [] ∧ t.press.ready = true ∧ t.mem = s.mem ∧
          (let gone := s.sec.flash.frames ++ s.sec.flash.remaps.map (fun r => (r.1, r.2.2)) ++ s.press.remaps.flatMap (fun e => (e.2.filterMap (·.repl)).map (fun f => (e.1, f)))
           let good : Nat → List Nat := fun st => (List.range stackFrames).filter (fun f => decide (s.regN (offLedgerFirst st) ≤ f) && !gone.contains (st, f))
           let before : Nat → Nat := fun st => ((List.range st).map (fun j => (good j).length)).sum
           (∀ st < 12, t.freeListOf st = ⟨[], before st, before (st + 1)⟩) ∧
           (∀ st < 12, ∀ i f, (good st)[i]? = some f → t.ledgerWord (before st + i) = ledgerMk f st 0 (if i + 1 < (good st).length then before st + i + 1 else before st + i) false) ∧
           (∀ e, before 12 ≤ e → t.ledgerWord e = ledgerMk 0 stackRetired ownerNone e false))))) ∧
    (∀ (v : W64) (part : Nat), s.sec.boot = .recovery → s.sec.bootCode = 3 → s.power.tripped = false → v.toNat.testBit 0 = true → s.host.push = none → s.host.resetting = [] → s.host.reads = [] → 0 < (s.reg 0x710).toNat →
      leadsTo s (.rcvGo v part) (fun t => t.sec = s.sec ∧ t.reg 0x720 = 0 ∧ t.mem = s.mem ∧ (∃ p, t.host.push = some p ∧ p.len = (s.reg 0x710).toNat ∧ p.part = (if part = 0 ∨ 65536 < part then 4096 else part) ∧ p.got = []) ∧
        .read 0 (s.reg 0x708).toNat (min s.host.link.maxRead (min (if part = 0 ∨ 65536 < part then 4096 else part) (s.reg 0x710).toNat)) s.host.nextRead ∈ t.host.pcieOut)) ∧
    (∀ (id off n : Nat) (p : ImagePush), s.host.push = some p → p.nextOff = p.len → tabFind s.host.reads id = some ⟨0, .image off n⟩ → s.host.resetting = [] →
      (∀ bs : List Byte, (tabInsert p.got off (bs.take n)).length = ceilDiv p.len p.part → runsTo s (.hostReadCompletion id (.data bs)) (fun t => t.mem = s.mem ∧ t.host.push = none ∧
        t.sec = { s.sec with bootCode := 4, checking := some ((tabInsert p.got off (bs.take n)).flatMap (·.2)) })) ∧
      (∀ d : HostData, d = .abort ∨ d = .poison → runsTo s (.hostReadCompletion id d) (fun t => t.mem = s.mem ∧ t.host.push = none ∧ t.sec.boot = .recovery ∧ t.sec.bootCode = 3 ∧ gone t 2 ∧ t.reg 0x720 = 0x170))) ∧
    (∀ img : List Byte, s.sec.checking = some img → s.sec.boot = .recovery → s.power.tripped = false → s.host.push = none → s.host.rings = [] → s.host.copies = [] → s.whl.loads = [] → s.coll.colls = [] → s.ten.reclaim = [] → s.sec.flashing = none → s.net.badDies = [] →
      leadsTo s (.timebaseStep .quiet) (fun t => t.sec.checking = none ∧ if s.imageOk img = true then started t img ∧ t.reg 0x720 = 0x100 else t.sec.boot = .recovery ∧ t.sec.bootCode = 3 ∧ gone t 2 ∧ t.reg 0x720 = 0x150)) ∧
    (∀ (b bs : List Byte), s.headDesc 0 0 = some b → fieldN b 0 1 = 0x12 → fieldZero b 1 3 = true → fieldZero b 0x18 40 = true → s.canRecord 0 0 = true → s.sec.flashing = none →
      s.readRoom (min (fieldN b 8 8) s.host.link.maxRead) = true →
      let img := bs.take (fieldN b 8 8)
      let record : State → Nat → Prop := fun t status => (t.ring 0 0).head = (s.ring 0 0).head + 1 ∧ s.recorded t 0 0 (s.recordBytes 0x12 status (BitVec.ofNat 32 (fieldN b 4 4)) [])
      (s.imageOk img = true → ∀ ok, leadsTo s (.fwFlash 0 0 (.data bs) ok) (fun t => (t.ring 0 0).head = (s.ring 0 0).head + 1 ∧ t.mem = s.mem ∧
        t.sec = { s.sec with flashing := some ⟨⟨0, 0, 0x12, BitVec.ofNat 32 (fieldN b 4 4)⟩, img, ok⟩, flash := { s.sec.flash with image := t.sec.flash.image, torn := true } } ∧
        .read 0 (fieldN b 0x10 8) (min s.host.link.maxRead (fieldN b 8 8)) s.host.nextRead ∈ t.host.pcieOut)) ∧
      (s.imageOk img = false → ∀ ok, leadsTo s (.fwFlash 0 0 (.data bs) ok) (fun t => record t 0x50 ∧ gone t 2 ∧ t.sec.flash = s.sec.flash))) ∧
    (∀ b, s.headDesc 0 0 = some b → fieldN b 0 1 = 0x12 → fieldZero b 1 3 = true → fieldZero b 0x18 40 = true → s.sec.flashing.isSome = true → ∀ img ok, leadsTo s (.fwFlash 0 0 img ok) (fun t => t = s.passTurn 0 0)) ∧
    (∀ (user : W32) (img : List Byte) (ok : Bool), s.sec.flashing = some ⟨⟨0, 0, 0x12, user⟩, img, ok⟩ → s.sec.checking = none → s.sec.boot = .running → s.canRecord 0 0 = true →
      runsTo s (.timebaseStep .quiet) (fun t => t.sec.flashing = none ∧ t.sec.flash.image = (if ok = true then img else s.sec.flash.image) ∧ t.sec.flash.torn = !ok ∧
        s.recorded t 0 0 (s.recordBytes 0x12 (if ok = true then 0 else 0x72) user []))) ∧
    (s.sec.rindBusy = true → runsTo s .rindWipeDone (fun t => t.sec.rindBusy = false ∧ t.sec.rindWiped = true ∧ t.power.alertN = false ∧ t.sec.unlock = none ∧
      (t.sec.debugOpen = true ↔ s.sec.debugOpen = true ∨ ∃ k, s.sec.unlock = some k ∧ s.lcState = 0xF ∧ k.serial = s.sec.serial ∧ k.answer = s.sec.challenge ∧ k.answer.length = 32 ∧
        sha256 k.key = s.sec.fuses.debugHash ∧ ecdsaVerify k.key (leBytes 8 k.serial.toNat ++ k.answer) k.signature = true))) ∧
    (∀ k, s.sec.boot ≠ .held → s.power.tripped = false → leadsTo s (.debugUnlock k) (fun t => gone t 1 ∧ t.sec.unlock = some k ∧ t.sec.debugOpen = s.sec.debugOpen))

/-! ### Life cycle, attestation and the management channel (R443 to R451, R278, R291, R297) -/

/-- The host's and the debug port's security commands (R444, R447, R450): SEC.ATTEST reads the challenge and writes the report of Table 16.5 over it, in writes of at most Max Payload Size; LC.DEPLOY of a Provisioned part and PROVISION of one in Manufacture begin
the transition, keep the key (in the management key record, log 38; any 64 bytes are taken, log 89) or the certificate, and stop the acceptance of descriptors; PROVISION asks for a credential signed by the key the fuses name (log 132), and does nothing
for another; MGMT.SEND relays a unicast management packet with this package as its SRC (log 88). -/
def Obligations.SecurityDescriptorsAct : Prop :=
  ∀ (s : State) (ring : Ring) (b bs : List Byte), s.headDesc 0 ring = some b → s.canRecord 0 ring = true →
    let tag : W32 := BitVec.ofNat 32 (fieldN b 4 4)
    let record : State → Nat → Prop := fun t op => (t.ring 0 ring).head = (s.ring 0 ring).head + 1 ∧ t.mem = s.mem ∧ t.ten = s.ten ∧ s.recorded t 0 ring (s.recordBytes (BitVec.ofNat 8 op) 0 tag [])
    (fieldN b 0 1 = 0x88 → fieldZero b 1 3 = true → fieldZero b 8 8 = true → fieldZero b 0x20 32 = true → s.sec.rind.identity.isSome = true → s.sec.rindWiped = false → s.sec.rindBusy = false → bs.length = 32 → s.readRoom 32 = true →
      leadsTo s (.secAttest 0 ring (.data bs)) (fun t => record t 0x88 ∧ t.sec = { s.sec with rind := { s.sec.rind with attests := s.sec.rind.attests + 1, working := Config.rindScratch bs } } ∧ .read 0 (fieldN b 0x10 8) 32 s.host.nextRead ∈ t.host.pcieOut ∧ ∃ r, r.length = 160 ∧
        let report := leBytes 2 1 ++ leBytes 1 s.lcState ++ leBytes 1 0xA1 ++ leBytes 2 s.sec.arithRev.toNat ++ leBytes 1 s.sec.fwSvn ++ leBytes 1 s.sec.fuses.minSvn ++ leBytes 8 s.sec.serial.toNat ++
          leBytes 4 s.sec.flash.bootCount ++ leBytes 2 s.goodClusters ++ leBytes 2 s.tbFlags ++ leBytes 8 s.now ++ bs ++ s.sec.rind.romMeas ++ s.sec.rind.fwMeas ++ sha256 s.sec.flash.keyRecord ++ r
        ∀ i, s.host.link.maxPayload * i < report.length → .write 0 (fieldN b 0x18 8 + s.host.link.maxPayload * i) ((report.drop (s.host.link.maxPayload * i)).take s.host.link.maxPayload) ∈ t.host.pcieOut)) ∧
    (fieldN b 0 1 = 0x89 → fieldZero b 1 3 = true → fieldZero b 8 8 = true → fieldZero b 0x18 40 = true → s.lcState = 3 → s.sec.transition = none → s.sec.flash.mark = none → bs.length = 64 → s.readRoom 64 = true →
      leadsTo s (.lcDeploy 0 ring (.data bs)) (fun t => record t 0x89 ∧ t.host.noAccept = true ∧ t.sec.fuses = s.sec.fuses ∧ t.sec.transition = some ⟨7, sha256 bs⟩ ∧ t.sec.flash.keyRecord = bs)) ∧
    (fieldN b 0 1 = 0x8A → fieldZero b 1 3 = true → fieldZero b 8 8 = true → fieldZero b 0x18 40 = true → relayOk bs = true → (fieldN bs 1 1).testBit 5 = false → s.sec.home = none →
      let dst := fieldN bs 6 2 % 2 ^ 15
      s.streamRoom dst 3 → s.readRoom (min bs.length s.host.link.maxRead) = true →
      leadsTo s (.mgmtSend 0 ring (.data bs)) (fun t => record t 0x8A ∧ s.sentOne t dst 3 (s.mkPacket (fieldN bs 0 1) 3 dst 0 0 [] ((bs.drop 32).take (fieldN bs 2 2 % 2 ^ 12))))) ∧
    (∀ (cred : FactoryCred) (cert : List Byte), sha256 cred.key = s.sec.fuses.debugHash → ecdsaVerify cred.key cred.body cred.signature = true → s.lcState = 1 → s.sec.boot = .running → s.power.tripped = false → s.sec.transition = none → s.sec.flash.mark = none → s.ten.ctxs = [] → leadsTo s (.provision cred cert) (fun t =>
      (∃ w, t.sec.fuses = { s.sec.fuses with idWrap := true, idWrapBits := s.sec.fuses.idWrapBits ||| w }) ∧ t.sec.flash = { s.sec.flash with cert := cert } ∧ t.sec.transition = some ⟨3, []⟩ ∧ t.host.noAccept = true ∧ t.mem = s.mem ∧
      ∃ k, t.sec.dbgOut = s.sec.dbgOut ++ [k])) ∧
    (∀ (cred : FactoryCred) (cert : List Byte), sha256 cred.key ≠ s.sec.fuses.debugHash ∨ ecdsaVerify cred.key cred.body cred.signature = false → leadsTo s (.provision cred cert) (fun t => t = s))

/-- Checking management commands (R449, R451, Table 16.9): the oldest command is taken; one that passes every check waits to be done and its nonce is used up, so that the same command again is refused as a replay;
one that fails the first of them changes nothing but the answer. -/
def Obligations.ManagementCommandsAreChecked : Prop :=
  ∀ (s : State) (pkt : Packet), s.sec.boot = .running → s.power.tripped = false → s.fab.inbox = [pkt] → pkt.typ = 0x60 →
    let p := pkt.payload
    let w := tabGet NonceWindow.empty s.sec.rind.nonces (mgKey p)
    (∀ k h, tabFind s.sec.rind.mgmtKeys (mgKey p) = some k → s.sec.rindWiped = false → s.sec.rindBusy = false → mgSigned k p = true → mgBoot p = s.sec.flash.bootCount → w.high = some h → h < mgNonce p + 1024 →
      mgNonce p ∉ w.seen → s.mgValid p = true → leadsTo s .mgmtCmd (fun t => t.fab.inbox = [] ∧ t.mem = s.mem ∧ t.sec.accepted = s.sec.accepted ++ [⟨pkt.src.toNat, p⟩] ∧
        t.sec.flash = s.sec.flash ∧ t.sec.rind.mgmtKeys = s.sec.rind.mgmtKeys ∧
        (tabGet NonceWindow.empty t.sec.rind.nonces (mgKey p)).fresh (mgNonce p) = false ∧ (tabGet NonceWindow.empty t.sec.rind.nonces (mgKey p)).high = some (max h (mgNonce p)))) ∧
    (∀ status, s.mgCheck p = some status → s.streamRoom pkt.src.toNat 3 → s.sec.home = none → leadsTo s .mgmtCmd (fun t => t.fab.inbox = [] ∧ t.mem = s.mem ∧ t.sec = { s.sec with rind := { s.sec.rind with working := t.sec.rind.working } } ∧ ∃ sig, sig.length = 64 ∧
      s.sentOne t pkt.src.toNat 3 (s.mkPacket 0x61 3 pkt.src.toNat 0 0 [] (leBytes 2 (mgCode p) ++ leBytes 1 status ++ leBytes 1 0 ++ leBytes 4 s.sec.flash.bootCount ++ leBytes 8 (mgNonce p) ++ leBytes 2 0 ++
        zeroBytes 6 ++ leBytes 8 s.now ++ sig)))) ∧
    (mgKey p ∉ s.sec.rind.mgmtKeys.map (·.1) → s.sec.rindWiped = false → s.sec.rindBusy = false → s.mgCheck p = some 0xA3) ∧
    (s.sec.rindWiped = true → s.mgCheck p = some 0x58)

/-- Accepted management commands (Table 16.8): each is done in order, answered with OK (one whose answer meets a gateway mismatch on a package with a home sends that event after it), and has its effect: a report, a certificate or the ledger in the answer; the home package; gateway entries; a peer brought
back; contexts torn down with reason JOB_TEARDOWN; a transition begun; new management keys, of which a slot whose key has changed starts with an empty nonce window (log 90; the key record's layout is log 38); and the time role, from whose
acceptance the 5 s of R456 count (log 41). FAB.RETRAIN takes its ports through Down to Training. -/
def Obligations.ManagementCommandsAct : Prop :=
  ∀ (s : State) (m : MgmtCmd) (rest : List MgmtCmd), s.sec.boot = .running → s.power.tripped = false → s.sec.accepted = m :: rest → s.sec.home = none → s.streamRoom m.src 3 → s.fab.unrouted = [] →
    let p := m.payload
    let b := mgBody p
    let response : Nat → List Byte → List Byte → Packet := fun time body sig => s.mkPacket 0x61 3 m.src 0 0 []
      (leBytes 2 (mgCode p) ++ leBytes 1 0 ++ leBytes 1 0 ++ leBytes 4 s.sec.flash.bootCount ++ leBytes 8 (mgNonce p) ++ leBytes 2 body.length ++ zeroBytes 6 ++ leBytes 8 time ++ body ++ sig)
    let answersAt : State → Nat → List Byte → Prop := fun t time body => t.sec.accepted = rest ∧ t.mem = s.mem ∧ ∃ sig, sig.length = 64 ∧ s.sentOne t m.src 3 (response time body sig)
    let answers : State → List Byte → Prop := fun t body => answersAt t s.now body
    (mgCode p = 0x01 → s.sec.rind.identity.isSome = true → s.sec.rindWiped = false → s.sec.rindBusy = false → s.sec.rind.romMeas.length = 32 → s.sec.rind.fwMeas.length = 32 → leadsTo s .attest (fun t => t.sec.flash = s.sec.flash ∧
      ∃ r, answers t (leBytes 2 1 ++ leBytes 1 s.lcState ++ leBytes 1 0xA1 ++ leBytes 2 s.sec.arithRev.toNat ++ leBytes 1 s.sec.fwSvn ++ leBytes 1 s.sec.fuses.minSvn ++ leBytes 8 s.sec.serial.toNat ++
        leBytes 4 s.sec.flash.bootCount ++ leBytes 2 s.goodClusters ++ leBytes 2 s.tbFlags ++ leBytes 8 s.now ++ (b ++ zeroBytes 32).take 32 ++ s.sec.rind.romMeas ++ s.sec.rind.fwMeas ++ sha256 s.sec.flash.keyRecord ++ r))) ∧
    (mgCode p = 0x02 → leadsTo s .certRead (fun t => answers t (s.sec.flash.cert.take 1952) ∧ t.ten = s.ten)) ∧
    (mgCode p = 0x03 → leadsTo s .mgmtHome (fun t => t.sec.accepted = rest ∧ t.sec.home = some (leNat b % 2 ^ 15) ∧ t.mem = s.mem ∧ ∃ sig more, sig.length = 64 ∧
      ((t.peer m.src).txOf 3).unacked.map (·.pkt) = ((s.peer m.src).txOf 3).unacked.map (·.pkt) ++ { response s.now [] sig with seq := ((s.peer m.src).txOf 3).nextSeq } :: more)) ∧
    (mgCode p = 0x11 → (∀ e ∈ s.fab.peers, ∀ k ∈ e.2.tx, ∀ u ∈ k.2.unacked, u.sent = true) → leadsTo s .fabGwset (fun t => answers t [] ∧
      (∀ i < fieldN b 2 2, t.gwEntry (fieldN b 0 2 + i) = BitVec.ofNat 32 (fieldN b (4 + 4 * i) 4 % 2 ^ 20)) ∧ ∀ k, k < fieldN b 0 2 ∨ fieldN b 0 2 + fieldN b 2 2 ≤ k → t.gwEntry k = s.gwEntry k)) ∧
    (mgCode p = 0x12 → leadsTo s .fabRevive (fun t => answers t [] ∧ (t.peer (leNat b % 2 ^ 15)).dead = false ∧ ∀ g, g ≠ leNat b % 2 ^ 15 → (t.peer g).dead = (s.peer g).dead)) ∧
    (mgCode p = 0x10 → leadsTo s .fabRetrain (fun t => answers t [] ∧ ∀ k < 20,
      ((leNat b).testBit k = true → ((s.port k).phase = .up ∨ (s.port k).phase = .down) → s.canTrain k = true → (t.port k).phase = .training ∧ (t.port k).mayFull = true) ∧
      ((leNat b).testBit k = false → (t.port k).phase = (s.port k).phase))) ∧
    (mgCode p = 0x20 → leadsTo s .jobTeardown (fun t => answers t [] ∧ ∀ c x, s.ctx? c = some x →
      (c < 64 ∧ (leNat b).testBit c = true → x.phase ≠ .ending → t.ends c 0 5 0) ∧ (¬(c < 64 ∧ (leNat b).testBit c = true) → t.ctx? c = some x))) ∧
    (mgCode p = 0x40 → s.sec.transition = none → s.sec.flash.mark = none → s.ten.ctxs = [] ∨ mgForce p = true → leadsTo s .lcAdvance (fun t => answers t [] ∧ t.host.noAccept = true ∧
      t.sec.transition = some ⟨fieldN b 0 1, []⟩ ∧ t.sec.fuses = s.sec.fuses ∧ ∀ c < 64, ∀ x, s.ctx? c = some x → x.phase ≠ .ending → t.ends c 0 5 0)) ∧
    (mgCode p = 0x41 → leadsTo s .mgmtKeyset (fun t => answers t [] ∧ t.sec.rind.mgmtKeys = recordKeys b ∧ t.sec.flash.keyRecord = b ∧ t.sec.keyrecOk = true ∧
      ∀ k, tabFind s.sec.rind.mgmtKeys k ≠ tabFind (recordKeys b) k → tabFind t.sec.rind.nonces k = none)) ∧
    (mgCode p = 0x50 → (s.life.live.bytes.length ≤ 1944) → leadsTo s .ledgerRead (fun t => answers t (s.life.live.bytes ++ leBytes 8 s.life.lastSave) ∧ t.life = s.life)) ∧
    (mgCode p = 0x30 → leadsTo s .timeConfig (fun t => answers t [] ∧ t.time = { s.time with
      master := leNat b % 2 ^ 15
      role := leNat b / 2 ^ 16 % 4
      configured := true
      asked := false
      lastCount := s.now })) ∧
    (mgCode p = 0x31 → leadsTo s .timeSet (fun t => answersAt t t.now [] ∧ t.time.acquired = true ∧
      (s.now < fieldN b 0 8 → t.now = fieldN b 0 8 ∧ t.time.locked = false) ∧ (fieldN b 0 8 ≤ s.now → t.now = s.now)))

/-! ### Time and the lifetime ledger (R452 to R460) -/

/-- The timebase (R452 to R456): a step of the reference adds TB_INC and counts what stalls and which whole second it ends (for an optical transmitter while it is lit, log 42), a step past a window's end keeping the counters for its records, while routers forward the head of a class or hold it for a full
buffer (R16 to R21, R28, log 112) and bank ports serve the first master at or after their pointer (R145, R149); the exchange sends a request every 250 ms, answers one with the stamp of its arrival, and counts an answer from an acquired master with a delay of at most 20 µs, both stamped by the ports (log 110):
the first acquires and steps forward if it is behind (one that is ahead acquires too, log 110), a later one steps only when more than 1 ms behind, else it slews, and eight in a row within the bound lock; 5 s without one are holdover; TB_SET steps forward once. A package held in reset or tripped sees the levels of
its board alone. -/
def Obligations.TheTimebaseIsKept : Prop :=
  ∀ (s : State),
    let idle : Prop := s.sec.checking = none ∧ s.sec.flashing = none ∧ s.whl.loads = [] ∧ s.host.copies = [] ∧ s.coll.colls = [] ∧ s.ten.reclaim = [] ∧ s.host.rings = [] ∧ s.host.push = none
    (∀ e, s.sec.boot = .held ∨ s.power.tripped = true → leadsTo s (.timebaseStep e) (fun t => t = { s with power := t.power } ∧ t.power.tripped = s.power.tripped ∧ t.power.pwrGood = (s.power.pwrGood ||
      (s.sec.boot != .held && s.sec.boot != .wiping && t.power.railsInBand)))) ∧
    (s.ticks = false → s.sec.boot ≠ .held → idle → leadsTo s (.timebaseStep .quiet) (fun t => t = { s with power := { s.power with pwrGood := s.power.pwrGood || (s.sec.boot != .wiping && s.power.railsInBand) } })) ∧
    (s.ticks = true → idle → leadsTo s (.timebaseStep .quiet) (fun t => t.time = { s.time with tb := s.time.tb + s.time.inc.toNat, steps := s.time.steps + 1 } ∧ t.net = s.net ∧ t.mem = s.mem ∧ t.cores = s.cores ∧
        (∀ n q o, (n, q, o) ∈ s.net.blocked → s.countedBy t (0x400000 + 0x4000 * n + 0x100 + 8 * (6 * q + o)) 1) ∧
        (if s.life.secTick + 1 < 156250000 then t.life = { s.life with secTick := s.life.secTick + 1 }
          else t.life.secTick = 0 ∧ t.life.live.powerOnS = s.life.live.powerOnS + 1 ∧
            (∀ p, p < s.life.live.optTxS.length → t.life.live.optTxS.getD p 0 = s.life.live.optTxS.getD p 0 + if s.lit p then 1 else 0)) ∧
        (let stop := s.ten.window + s.ten.windowLen
         let now := (s.time.tb + s.time.inc.toNat) / 2 ^ 24
         if now < stop then t.ten.edges = s.ten.edges else t.ten.edges = s.ten.edges ++ [(s.ten.windowNo, stop, s.ten.ctxs.map (fun x => (x.1, (List.range 10).map (fun i => (s.reg (0x40500 + 0x1000 * x.1 + 8 * i)).toNat))))] ∧
           t.ten.window ≤ now ∧ now < t.ten.window + t.ten.windowLen))) ∧
    (∀ (n i out q : Nat) (p : NetPkt) (l : List NetPkt) (b : NetBuf), s.sec.boot ≠ .held → s.power.tripped = false → idle → n < 200 → i < 6 → q < 4 → s.net.queue (.input n i) q = p :: l → netOut n p.dst = out → netHop (.input n i) p.dst = some b →
      (∀ j k, j < 6 → k < 4 → (j, k) ≠ (i, q) → s.net.queue (.input n j) k = []) →
      leadsTo s (.timebaseStep { StepEnv.quiet with netTurns := [.router n out] }) (fun t =>
        (s.net.full b q = true → (∀ m k, t.net.queue m k = s.net.queue m k) ∧ (n, q, out) ∈ t.net.blocked) ∧
        (∀ m, b = .inward m → s.retired m = false → (s.cluster m).portClosed = true → q ≠ 3 → ∀ m' k, t.net.queue m' k = s.net.queue m' k) ∧
        (s.net.full b q = false → (∀ m, b = .inward m → s.retired m = false ∧ ((s.cluster m).portClosed = false ∨ q = 3)) → t.net.queue (.input n i) q = l ∧ t.net.queue b q = s.net.queue b q ++ [p]) ∧
        (∀ m, s.net.full b q = false → b = .inward m → s.retired m = true → t.net.queue (.input n i) q = l ∧ t.net.queue b q = s.net.queue b q))) ∧
    (∀ (k : Cluster) (unit : Nat) (a b : BankAcc) (x : BankState), s.ticks = true → s.power.diesHalted = false → idle → s.retired k = false → unit < 32 → a.master < 10 → b.master < 10 → a.write = false → b.write = false → a.atomic = false →
      x.rdPtr < 10 → x.hold = none → x.asked = [a, b] → x.waiting = [] → s.net.banks = [(bankKey ⟨k, unit, 0⟩, x)] → (a.master + 10 - x.rdPtr) % 10 < (b.master + 10 - x.rdPtr) % 10 →
      leadsTo s (.timebaseStep { StepEnv.quiet with bankTurns := [⟨k, unit, 0⟩] }) (fun t =>
        tabGet .reset t.net.banks (bankKey ⟨k, unit, 0⟩) = { x with rdPtr := (a.master + 1) % 10, asked := [], waiting := [b] } ∧
        s.countedBy t (0x400000 + 0x4000 * k.val + 0x400 + 8 * (10 * unit + b.master)) 1 ∧ s.countedBy t (0x400000 + 0x4000 * k.val + 0xE00 + 8 * (10 * unit + b.master)) 1 ∧
        t.reg (0x400000 + 0x4000 * k.val + 0x400 + 8 * (10 * unit + a.master)) = s.reg (0x400000 + 0x4000 * k.val + 0x400 + 8 * (10 * unit + a.master)))) ∧
    (let v := s.time.exch + 1
     let req := s.mkPacket 0x63 3 s.time.master 0 0 [(0x10, 8, s.now), (0x18, 4, v.toNat)] []
     s.exchanges = true → (∀ k, s.time.lastExch = some k → 250000000 ≤ s.now - k) → leadsTo s .timeExchange (fun t =>
       t.time = { s.time with
         exch := v
         asked := true
         lastExch := some s.now } ∧ t.mem = s.mem ∧
       ((s.peer (s.time.master % 2 ^ 15)).dead = false → ∀ k pkt det, s.route req none = .port k pkt det → (s.port k).phase = .up → (s.port k).queue pkt.vc.toNat = [] → (s.port k).hasRoom pkt = true → ⟨k, s.stampLeaving pkt, false⟩ ∈ t.fab.wire))) ∧
    (∀ (p : Packet) (t2 t3 : W64), s.sec.boot = .running → s.power.tripped = false → s.fab.inbox = [p] → p.typ = 0x63 → s.isSelf p.src.toNat = false → (s.peer p.src.toNat).dead = false →
      let answer := s.mkPacket 0x64 3 p.src.toNat 0 0 [(0x10, 8, pktOp p 0x10 8), (0x18, 4, pktOp p 0x18 4), (0x1C, 2, s.tbFlags)] (leBytes 8 p.arrived ++ leBytes 8 s.now)
      leadsTo s (.timeReq t2 t3) (fun t => t.fab.inbox = [] ∧ t.time = s.time ∧ t.mem = s.mem ∧
        ∀ k pkt det, s.route answer none = .port k pkt det → (s.port k).phase = .up → (s.port k).queue pkt.vc.toNat = [] → (s.port k).hasRoom pkt = true → ⟨k, s.stampLeaving pkt, false⟩ ∈ t.fab.wire)) ∧
    (∀ (p : Packet) (operand : W64), s.exchanges = true → s.time.asked = true → s.fab.inbox = [p] → p.typ = 0x64 → pktOp p 0x18 4 = s.time.exch.toNat → p.payload.length = 16 →
      let t1 : Int := pktOp p 0x10 8
      let t2 : Int := fieldN p.payload 0 8
      let t3 : Int := fieldN p.payload 8 8
      let t4 : Int := p.arrived
      let delta := (t4 - t1) - (t3 - t2)
      let theta2 := (t2 - t1) + (t3 - t4)
      let good : Prop := (pktOp p 0x1C 2).testBit 0 = true ∧ delta ≤ 20000
      let stepped : State → Prop := fun t => (t.time.tb : Int) = s.time.tb + theta2 * 2 ^ 23 ∧ t.time.inc = s.time.inc ∧ t.time.locked = false ∧ t.time.lockRun = 0
      let within : Prop := theta2.natAbs ≤ (if s.time.role = 1 then 10000 else 1000)
      let judged : State → Prop := fun t => t.time.tb = s.time.tb ∧ (within → t.time.lockRun = s.time.lockRun + 1 ∧ t.time.locked = (s.time.locked || 8 ≤ s.time.lockRun + 1)) ∧
        (¬within → t.time.lockRun = 0 ∧ t.time.locked = false)
      (¬good → runsTo s (.timeResp operand) (fun t => t.time = { s.time with asked := false } ∧ t.fab.inbox = [] ∧ t.mem = s.mem)) ∧
      (good → runsTo s (.timeResp operand) (fun t => t.time.asked = false ∧ t.time.holdover = false ∧ t.time.acquired = true ∧ t.time.lastCount = t.now ∧ t.mem = s.mem ∧
        (s.time.acquired = false → 0 < theta2 → stepped t) ∧ (s.time.acquired = false → theta2 ≤ 0 → judged t ∧ t.time.inc = s.time.inc) ∧
        (s.time.acquired = true → 2000000 < theta2 → stepped t) ∧
        (s.time.acquired = true → theta2 ≤ 2000000 → judged t ∧ (0x06666666 : Int) - 53687 ≤ t.time.inc.toNat ∧ t.time.inc.toNat ≤ (0x06666666 : Int) + 53687)))) ∧
    (s.exchanges = true → s.time.holdover = false → (5000000000 ≤ s.now - s.time.lastCount → leadsTo s .timeHoldover (fun t => t.time = { s.time with holdover := true } ∧ t.mem = s.mem)) ∧
      (s.now - s.time.lastCount < 5000000000 → leadsTo s .timeHoldover (fun t => t = s))) ∧
    (∀ v : W64, s.hears 0 = true → (s.now < v.toNat → s.time.setUsed = false → s.time.configured = false → leadsTo s (.tbSet v) (fun t => t.now = v.toNat ∧ t.time.acquired = true ∧ t.time.setUsed = true ∧ t.mem = s.mem)) ∧
      (v.toNat ≤ s.now ∨ s.time.setUsed = true ∨ s.time.configured = true → leadsTo s (.tbSet v) (fun t => t.time = s.time ∧ t.mem = s.mem ∧ t.ten = s.ten)))

/-- Saves of the lifetime ledger (R457 to R460, R445, R483): every 595 s, at an orderly power-down and at a transition the ledger is written with the next SAVE_SEQ, once the part is provisioned, over the older copy (before provisioning the one with the lower POWER_ON_S, log 84), which is not valid until
the save is done; SAVED tells that of a power-down; a transition writes its mark first, and after its save wipes memory and the rind. -/
def Obligations.TheLedgerIsSaved : Prop :=
  ∀ (s : State), s.sec.boot = .running → s.power.tripped = false →
    let l := s.life.live
    let l' : LifeLedger := { l with saveSeq := if s.lcState = 1 then l.saveSeq else l.saveSeq + 1, firstDeploy := if l.firstDeploy = 0 ∧ s.lcState = 7 ∧ s.time.acquired = true then s.now else l.firstDeploy }
    let f := s.sec.flash
    let older : Bool := !f.copyA.valid || (f.copyB.valid && decide (f.copyA.data.saveSeq < f.copyB.data.saveSeq ∨ (f.copyA.data.saveSeq = f.copyB.data.saveSeq ∧ f.copyA.data.powerOnS < f.copyB.data.powerOnS)))
    let begun : State → Option WipeMark → Bool → Prop := fun t mark down => t.life = { s.life with live := l', snapshot := some l', forDown := down, lastStart := s.now } ∧ t.mem = s.mem ∧
      t.sec.flash = { f with mark := mark, copyA := if older then ⟨false, l'⟩ else f.copyA, copyB := if older then f.copyB else ⟨false, l'⟩ }
    (s.life.snapshot = none → s.sec.transition = none → s.power.powerDown = false → 595000000000 ≤ s.now - s.life.lastStart → leadsTo s .ledgerSave (fun t => begun t f.mark false)) ∧
    (s.life.snapshot = none → s.sec.transition = none → s.power.powerDown = false → s.now - s.life.lastStart < 595000000000 → leadsTo s .ledgerSave (fun t => t = s)) ∧
    (s.life.snapshot = none → s.sec.transition = none → s.power.powerDown = true → s.life.saved = false → leadsTo s .ledgerSave (fun t => begun t f.mark true)) ∧
    (∀ m, s.life.snapshot = none → s.sec.transition = some m → s.ten.ctxs = [] → f.mark = none → leadsTo s .ledgerSave (fun t => begun t (some m) s.power.powerDown)) ∧
    (∀ m, s.life.snapshot = none → s.sec.transition = some m → s.ten.ctxs ≠ [] → s.power.powerDown = false → leadsTo s .ledgerSave (fun t => t = s)) ∧
    (∀ d, s.life.snapshot = some d → (s.sec.transition = none ∨ f.mark = none) → leadsTo s .ledgerSaveDone (fun t => t.life = { s.life with snapshot := none, forDown := false, lastSave := s.now, saved := s.life.saved || s.life.forDown } ∧
      t.sec.flash = { f with copyA := if older then ⟨true, d⟩ else f.copyA, copyB := if older then f.copyB else ⟨true, d⟩ } ∧ t.mem = s.mem)) ∧
    (∀ d m, s.life.snapshot = some d → s.sec.transition = some m → f.mark = some m → leadsTo s .ledgerSaveDone (fun t => t.mem = [] ∧ t.cores = [] ∧ t.sec.rind = .empty ∧ t.sec.rindBusy = true ∧ t.press.wiping ≠ [] ∧
      t.sec.flash.mark = some m ∧ t.sec.fuses = s.sec.fuses ∧ t.life.snapshot = none))

/-! ### Package, power and failed clusters (R24, R28, R29, R471 to R485) -/

/-- The thermal and power loop and the regulators (R471, R472, R478, R479): every 100 µs the readings are stored; one at its part's trip point trips the package; else THROTTLED says whether a die stands at THROTTLE_T (log 43), an optical engine at 85 °C loses its light and its port goes down, and each
die's set point goes at most 20 mV in each of its writes toward the lower of its two set points within 0.55 to 0.80 V, a write being made only once READ_VOUT has reported the previous value within band (how often an interval reads it is log 43's choice), the confirmed value standing when its regulator does not
acknowledge; a retry after 10 ms ends or goes on; VR_ALERT posts each regulator's STATUS_WORD, and ALERT_N falls. -/
def Obligations.ThermalLoopsAct : Prop :=
  ∀ (s : State), s.sec.boot = .running → s.power.tripped = false →
    let cool : ThermalEnv → Prop := fun e => (∀ d < 4, (e.dies.getD d 0).toInt < 16 * 115) ∧ e.table.toInt < 16 * 115 ∧ (∀ i < 12, (e.stackTemps.getD i 0).toInt < 16 * 105) ∧ ∀ p < 20, (e.optics.getD p 0).toInt < 16 * 95
    let stored : State → ThermalEnv → Prop := fun t e => t.power.thermTime = s.now ∧ t.mem = s.mem ∧ t.cores = s.cores ∧ t.ten.ctxs = s.ten.ctxs ∧
      (∀ d < 4, (t.reg (0x30080 + 8 * d)).toNat = (e.dies.getD d 0).toNat) ∧ (t.reg 0x300A0).toNat = e.table.toNat ∧ (∀ i < 12, (t.reg (0x30100 + 8 * i)).toNat = (e.stackTemps.getD i 0).toNat) ∧
      (∀ p < 20, (t.reg (0x30200 + 8 * p)).toNat = (e.optics.getD p 0).toNat) ∧ (t.reg 0x30018).toNat = min e.powerW 2047
    (∀ e, s.now - s.power.thermTime < 100000 → leadsTo s (.thermalControl e) (fun t => t = s)) ∧
    (∀ e : ThermalEnv, 100000 ≤ s.now - s.power.thermTime → ¬cool e → leadsTo s (.thermalControl e) (fun t => stored t e ∧
      t.power = { s.power with thermTime := s.now, tripped := true, thermTripN := false, lasersOff := true, diesHalted := true } ∧ t.life.snapshot = none)) ∧
    (∀ e : ThermalEnv, 100000 ≤ s.now - s.power.thermTime → cool e → leadsTo s (.thermalControl e) (fun t => stored t e ∧ t.power.tripped = false ∧
      ((t.reg 0x30000).toNat.testBit 0 = true ↔ ∃ d < 4, 16 * ((s.reg 0x30008).toNat : Int) ≤ (e.dies.getD d 0).toInt) ∧
      (∀ p < 20, (16 * 85 : Int) ≤ (e.optics.getD p 0).toInt → p ∈ t.power.hotPorts ∧ (p ∉ s.power.hotPorts → (t.port p).phase ≠ .up ∧ (t.port p).phase ≠ .training)) ∧
      (∀ d < 4, d < s.power.vcore.length →
        let was := s.power.vcore.getD d 0
        let now := stepsOf was
        let want := min 160 (max 110 (min (e.thermalSet.getD d 160) e.capSet))
        let reads := e.vouts.getD d []
        let n := reads.length
        let after : Nat → Nat := fun k => if now < want then min want (now + 4 * k) else max want (now - 4 * k)
        let volts : Nat → Nat := fun k => if k = 0 then was else after k * 5 * 4096 / 1000
        let near : W16 → Nat → Prop := fun r v => ((r.toNat : Int) - v).natAbs * 1000 ≤ 20 * 4096
        let prompt : Prop := ∀ i r, reads[i]? = some r → near r (volts i)
        (tabHas s.power.vr d = true ∨ want = now ∨ (∀ r ∈ reads, ¬near r was) → t.reg (0x30040 + 8 * d) = s.reg (0x30040 + 8 * d) ∧ t.power.vcore.getD d 0 = was) ∧
        (tabHas s.power.vr d = false → want ≠ now → 0 < n → prompt → (e.acks.getD d true = true ∨ after (n - 1) = want) →
          t.reg (0x30040 + 8 * d) = BitVec.ofNat 64 (volts n) ∧ t.power.vcore.getD d 0 = volts n ∧ (d, volts n) ∈ t.power.vrOut) ∧
        (tabHas s.power.vr d = false → want ≠ now → 0 < n → prompt → e.acks.getD d true = false → after (n - 1) ≠ want →
          t.power.vcore.getD d 0 = volts (n - 1) ∧ tabFind t.power.vr d = some ⟨volts n, 3, s.now⟩ ∧ (t.reg 0x30000).toNat.testBit 2 = true)))) ∧
    (∀ (d : Fin 4) (p : VrPending), tabFind s.power.vr d = some p → 10000000 ≤ s.now - p.last →
      leadsTo s (.vrRetry d true) (fun t => tabFind t.power.vr d = none ∧ t.reg (0x30040 + 8 * d.val) = BitVec.ofNat 64 p.target ∧ t.power.vcore = s.power.vcore.set d.val p.target ∧ t.power.vrOut = s.power.vrOut ++ [(d.val, p.target)] ∧ t.mem = s.mem) ∧
      leadsTo s (.vrRetry d false) (fun t => tabFind t.power.vr d = some { p with tries := p.tries + 1, last := s.now } ∧ t.regs = s.regs ∧ t.mem = s.mem)) ∧
    (∀ st : List (BitVec 16), s.evqEnabled = true → s.host.resetting = [] → s.host.evBacklog = [] → (s.host.evq.cqTail - s.host.evq.cqHead).toNat + 4 ≤ (s.reg 0x408).toNat → s.sec.home = none →
      leadsTo s (.vrAlert st) (fun t => t.mem = s.mem ∧ t.ten = s.ten ∧ t.power = { s.power with alertN := false } ∧ ∀ d < 4, ∃ a, .write 0 a ([0x92#8, 0, 0x30#8, 0] ++ zeroBytes 4 ++ leBytes 8 d ++ leBytes 8 (st.getD d 0).toNat ++ leBytes 8 s.now) ∈ t.host.pcieOut))

/-- What the board and the package do to the block (R475, R478, R480, R482, R483): a sensor at its part's trip point halts the dies and darkens every port until power goes, and after it no block acts; the loss of the reference stops the timebase and takes the ports
down; POSITION is taken while every port is Disabled; POWER_DOWN stops the acceptance of descriptors; STATUS, TEMP (whose fifth byte is THROTTLE_T, and whose roundings are free, log 44) and POWER answer; CAP sets the power cap within its limits and is ignored outside them (log 111); and a message with a wrong PEC
does nothing. -/
def Obligations.BoardEventsAct : Prop :=
  ∀ (s : State),
    let dark : State → Prop := fun t => (∀ p, (t.port p).phase ≠ .up ∧ (t.port p).phase ≠ .training) ∧ t.mem = s.mem ∧ t.ten = s.ten
    let sends : State → List Byte → Prop := fun t bs => t = { s with power := { s.power with smbOut := s.power.smbOut ++ [bs] } }
    tabWf PortState.reset s.fab.ports = true →
    (∀ k : TripReading, let at_ : Int := match k.part with | .die _ => 16 * 115 | .table => 16 * 115 | .stack _ => 16 * 105 | .optics _ => 16 * 95
      (at_ ≤ k.reading.toInt → s.power.tripped = false → s.sec.boot ≠ .held →
        leadsTo s (.thermalTrip k) (fun t => dark t ∧ t.power = { s.power with tripped := true, thermTripN := false, lasersOff := true, diesHalted := true } ∧ t.life.snapshot = none)) ∧
      (k.reading.toInt < at_ → leadsTo s (.thermalTrip k) (fun t => t = s))) ∧
    (s.power.tripped = true → ∀ i ∈ [Instr.trickRow, .trickNotice, .rdReq, .wrReq, .fillReq, .atReq, .ack, .collData, .whlData, .linkReset], leadsTo s i (fun t => t = s)) ∧
    (s.time.clockLost = false → s.sec.boot ≠ .held → leadsTo s .refclkLost (fun t => dark t ∧ t.time = { s.time with clockLost := true } ∧ t.ticks = false ∧ (t.reg 0x30000).toNat.testBit 3 = true)) ∧
    (s.sec.boot = .held → leadsTo s .refclkLost (fun t => t = { s with time := { s.time with clockLost := true } })) ∧
    leadsTo s .refclkRestored (fun t => t = { s with time := { s.time with clockLost := false } }) ∧
    (∀ d : BitVec 24, (∀ e ∈ s.fab.ports, e.2.phase = .disabled) →
      leadsTo s (.position true d) (fun t => t = { s with fab := { s.fab with pos := some (d.toNat % 2 ^ 9, d.toNat / 2 ^ 9 % 8, d.toNat / 2 ^ 12 % 8) } })) ∧
    (∀ d : BitVec 24, (∃ e ∈ s.fab.ports, e.2.phase ≠ .disabled) → leadsTo s (.position true d) (fun t => t = s)) ∧
    leadsTo s (.status true) (fun t => sends t (leBytes 2 (s.power.pwrGood.toNat + 2 * ((s.reg 0x30000).toNat.testBit 0).toNat + 4 * s.power.tripped.toNat + 8 * ((s.reg 0x30000).toNat.testBit 2).toNat +
      16 * s.life.saved.toNat + 32 * ((s.reg 0x30000).toNat.testBit 1).toNat + 256 * s.sec.bootCode))) ∧
    (s.sec.boot = .running → s.power.tripped = false → s.power.powerDown = false → leadsTo s (.powerDown true) (fun t => dark t ∧ t.power = { s.power with powerDown := true, lasersOff := true, diesHalted := true } ∧
      t.host.noAccept = true)) ∧
    (let near : Nat → Int → Prop := fun v x => v = (BitVec.ofInt 8 (x / 16)).toNat ∨ (x % 16 ≠ 0 ∧ v = (BitVec.ofInt 8 (x / 16 + 1)).toNat)
     let temp := fun (a : Nat) => (BitVec.ofNat 16 (s.reg a).toNat).toInt
     let hot := fun (l : List Int) (v : Int) => v ∈ l ∧ ∀ x ∈ l, x ≤ v
     leadsTo s (.temp true) (fun t => t.mem = s.mem ∧ t.regs = s.regs ∧ ∃ a b c d u v w, t.power.smbOut = s.power.smbOut ++ [leBytes 1 a ++ leBytes 1 b ++ leBytes 1 c ++ leBytes 1 d ++ leBytes 1 (s.reg 0x30008).toNat] ∧
       hot ((List.range 4).map (fun i => temp (0x30080 + 8 * i))) u ∧ near a u ∧ near b (temp 0x300A0) ∧ hot ((List.range 12).map (fun i => temp (0x30100 + 8 * i))) v ∧ near c v ∧
       hot ((List.range 20).map (fun i => temp (0x30200 + 8 * i))) w ∧ near d w)) ∧
    leadsTo s (.power true) (fun t => sends t (leBytes 2 (s.reg 0x30018).toNat)) ∧
    (∀ w : BitVec 16, s.sec.boot ≠ .held → (600 ≤ w.toNat → w.toNat ≤ 1800 → leadsTo s (.cap true w) (fun t => t.reg 0x30010 = BitVec.ofNat 64 w.toNat ∧ t.mem = s.mem ∧ ∀ a, a ≠ 0x30010 → t.reg a = s.reg a)) ∧
      (w.toNat < 600 ∨ 1800 < w.toNat → leadsTo s (.cap true w) (fun t => t = s))) ∧
    (∀ d w, leadsTo s (.position false d) (fun t => t = s) ∧ leadsTo s (.status false) (fun t => t = s) ∧ leadsTo s (.powerDown false) (fun t => t = s) ∧ leadsTo s (.temp false) (fun t => t = s) ∧
      leadsTo s (.power false) (fun t => t = s) ∧ leadsTo s (.cap false w) (fun t => t = s))

/-- Clusters (R24, R28, R29): every 15,625 steps of the timebase a good cluster's meter holds its mean handshakes per microsecond; a core with work issued that does not acknowledge for 1 ms fails its cluster; and a failed
cluster is given up: the context that had work on it when the failure was detected ends with "hardware lost" and the cluster's number, its SRAM is wiped, and it is recorded as retired. -/
def Obligations.ClustersAreMeteredAndRetired : Prop :=
  ∀ (s : State) (k : Cluster),
    (∀ n, s.retired k = false → s.ticks = true → 15625 ≤ s.time.steps - (s.cluster k).meter → n < 2 ^ 24 → leadsTo s (.hskMeterWindow k n) (fun t =>
      let v := (t.reg (0x400000 + 0x4000 * k.val)).toNat
      (t.cluster k) = { s.cluster k with meter := s.time.steps } ∧ t.mem = s.mem ∧ (v = n * 256 / 100 ∨ (n * 256 % 100 ≠ 0 ∧ v = n * 256 / 100 + 1)))) ∧
    (∀ n, s.time.steps - (s.cluster k).meter < 15625 → leadsTo s (.hskMeterWindow k n) (fun t => t = s)) ∧
    (∀ c : Core, (s.enginesRun c = true → ((s.core c).matQ ≠ [] ∨ (s.core c).vecQ ≠ [] ∨ (s.core c).dmaQ ≠ []) → leadsTo s (.coreAckTimeout c) (fun t => (t.cluster (c.val / 128)).failed = true ∧
        ((s.cluster (c.val / 128)).failed = false → (t.cluster (c.val / 128)).failCtx = (s.cluster (c.val / 128)).owner.map (·.1)) ∧ t.mem = s.mem ∧ t.cores = s.cores ∧
        ∀ j, j ≠ c.val / 128 → t.cluster j = s.cluster j)) ∧
      (s.enginesRun c = false ∨ ((s.core c).matQ = [] ∧ (s.core c).vecQ = [] ∧ (s.core c).dmaQ = []) → leadsTo s (.coreAckTimeout c) (fun t => t = s))) ∧
    (s.sec.boot = .running → s.power.tripped = false → (s.cluster k).failed = true → s.retired k = false → leadsTo s (.clusterRetired k) (fun t => t.retired k = true ∧ (∀ j < 200, j ≠ k.val → t.retired j = s.retired j) ∧
      t.cluster k = { s.cluster k with portClosed := true } ∧ t.sec.flash.retired = setAdd s.sec.flash.retired k ∧ t.power.alertN = false ∧
      (∀ a, t.byteAt a = if isDram a = false ∧ clusterOfPhys a = k.val then 0 else s.byteAt a) ∧
      (∀ c x, (s.cluster k).failCtx = some c → s.ctx? c = some x → x.phase ≠ .ending → t.ends c 5 0 k)))

/-! ### The whole machine -/

/-- After reset no command waits, every byte of memory reads 0 and none is damaged, every core holds WAIT_LIMIT 1,000,000,000 and the CSR values of Table 4.10, with no weight set and nothing queued, no cluster is given away, no context and no sequence exists, no port is enabled, no ring holds anything, and the timebase stands at 0 with its nominal
step (R156, R452, R490). The zero of the scalar, vector and mask registers, predicates, accumulators and status words is the model's own (log 2), and so is the program counter 0 (log 3). -/
def Obligations.ResetLeavesNothing : Prop :=
  let s := State.reset
  s.pending = [] ∧ (∀ a, s.byteAt a = 0) ∧ s.sound = true ∧
  (∀ k, (∀ r, (s.core k).sreg r = 0) ∧ (∀ p, (s.core k).pred p = false) ∧ (s.core k).pc = 0 ∧ (s.core k).vl = 0 ∧ (s.core k).vstat = 0 ∧ (s.core k).srTensor = 0 ∧ (s.core k).srIndex = 0 ∧
    (s.core k).waitLimit = 1000000000 ∧ (s.core k).vregs = [] ∧ (s.core k).masks = [] ∧ (s.core k).acc = [] ∧ (s.core k).accStatus = [] ∧ (s.core k).weights = .none ∧
    (s.core k).matQ = [] ∧ (s.core k).vecQ = [] ∧ (s.core k).dmaQ = [] ∧ (s.core k).summary = []) ∧
  (∀ k, (s.cluster k).owner = none) ∧ (∀ c, s.ctx? c = none) ∧ (∀ x, (s.slot x).st = 0) ∧ s.seq.boundary = none ∧
  (∀ p, (s.port p).phase = .disabled) ∧ s.fab.inbox = [] ∧ (∀ fn i, s.sqEnabled fn i = false ∧ s.cqEnabled fn i = false) ∧
  s.now = 0 ∧ s.reg 0x90108 = 0x06666666

/-- Table 4.17 and R126: an instruction with a non-zero RSVD bit, a reserved condition, a wait for more commands than a queue holds, a jump to a misaligned address, or a scalar access or atomic that is misaligned or leaves the local windows is an
illegal instruction: the core's context ends with class 1 and its CORE_ID as DETAIL, the cores of its clusters halt, the core's own registers are as they were, and memory is untouched. -/
def Obligations.IllegalInstructionsEndTheContext : Prop :=
  ∀ (s : State) (core : Core) (c : Nat), s.executes core = true → s.coreCtx core = some c → tabWf CoreState.reset s.cores = true →
    let me := s.core core
    let ends : Instr → Prop := fun i => ∃ t, exec i s = .next t ∧ t.ends c 1 0 (s.coreId core) ∧ t.mem = s.mem ∧ t.regs = s.regs ∧ t.canRun core = false ∧
      (t.core core).sregs = me.sregs ∧ (t.core core).preds = me.preds ∧ (t.core core).pc = me.pc
    (∀ (rd rs : R5) (sh : BitVec 6) (r : BitVec 8), r ≠ 0 → ends (.slli core rd rs r sh) ∧ ends (.srli core rd rs r sh) ∧ ends (.srai core rd rs r sh)) ∧
    (∀ (rd r : R5) (imm : Imm), r ≠ 0 → ends (.movi core rd r imm) ∧ ends (.shori core rd r imm)) ∧
    (∀ (pd : P2) (cc : BitVec 3) (a b : R5) (imm : Imm) (r : BitVec 11), (6 ≤ cc.toNat ∨ r ≠ 0 → ends (.cmp core pd cc a b r)) ∧ (6 ≤ cc.toNat → ends (.cmpi core pd cc a imm))) ∧
    (∀ (pd pa pb : P2) (rs r : R5) (bit : BitVec 6), r ≠ 0 → ends (.pand core pd pa pb r) ∧ ends (.por core pd pa pb r) ∧ ends (.pxor core pd pa pb r) ∧ ends (.pnot core pd pa r) ∧
      ends (.pset core pd r) ∧ ends (.pclr core pd r) ∧ ends (.tstb core pd rs bit r)) ∧
    (∀ (rd rs : R5) (r : BitVec 16), r ≠ 0 ∨ (me.sreg rs).toNat % 4 ≠ 0 → ends (.jalr core rd rs r)) ∧
    (∀ (rd rs : R5) (imm : Imm) (n : Nat), scalarPhys core (me.sreg rs + imm.signExtend 64).toNat n = none →
      (n = 1 → ends (.ldB core rd rs imm) ∧ ends (.ldBu core rd rs imm) ∧ ends (.stB core rd rs imm)) ∧
      (n = 2 → ends (.ldH core rd rs imm) ∧ ends (.ldHu core rd rs imm) ∧ ends (.stH core rd rs imm)) ∧
      (n = 4 → ends (.ldW core rd rs imm) ∧ ends (.ldWu core rd rs imm) ∧ ends (.stW core rd rs imm)) ∧
      (n = 8 → ends (.ldD core rd rs imm) ∧ ends (.stD core rd rs imm))) ∧
    (∀ (rd rs rt : R5), scalarPhys core (me.sreg rs).toNat 8 = none → ends (.amoAdd core rd rs rt) ∧ ends (.amoMin core rd rs rt) ∧ ends (.amoMax core rd rs rt) ∧ ends (.amoAnd core rd rs rt) ∧
      ends (.amoOr core rd rs rt) ∧ ends (.amoXchg core rd rs rt) ∧ ends (.amoCas core rd rs rt)) ∧
    (∀ (r : BitVec 3) (n : BitVec 8), (r ≠ 0 ∨ 8 < n.toNat → ends (.waitMx core r n)) ∧ (r ≠ 0 ∨ 16 < n.toNat → ends (.waitVx core r n)) ∧ (r ≠ 0 ∨ 32 < n.toNat → ends (.waitDma core r n)) ∧
      (r ≠ 0 → ends (.fenceL core r) ∧ ends (.fenceG core r))) ∧
    (∀ (rd rs : R5) (r : BitVec 18), r ≠ 0 → ends (.issueMxi core rs r) ∧ ends (.issueVxc core rs r) ∧ ends (.issueDmai core rs r) ∧ ends (.sumrPop core rd r) ∧ ends (.sumrLastMx core rd r) ∧
      ends (.sumrOrMx core rd r) ∧ ends (.sumrDma core rd r)) ∧
    (∀ (rd : R5) (csr code : BitVec 16), ends (.trap core true code) ∧ ends (.yield core true) ∧ ends (.csrr core rd true csr) ∧ ends (.csrw core rd true csr))

/-- The grant rule (R266) over the registers of Table 18.9 and the lists of R262: a request of engine class e of context c (7: management) for class k is granted from k when k allows it; when k is empty and
VAT_PROMOTE has the bit of an engine class of a context, from the lowest larger class that allows it; else, and for management always, it waits on class k. A grant takes the SRAM list's top while that list is not empty, else the overflow list's; the vat counts as held in
the class it came from, and when it is freed it returns to that pool, where it is the next one taken; an overflow vat's first 8 bytes then name the one behind it. -/
def Obligations.VatsAreGrantedByTheRule : Prop :=
  ∀ (s : State) (c e k : Nat), k < 6 → e < 4 ∨ e = 7 → s.vats.pools.length = 6 →
    let held : State → Nat → Nat := fun t j => (t.vats.held.filter (fun h => h.ctx == c && h.eng == e && h.vat.k == j)).length
    let free : State → Nat → Nat := fun t j => (t.pool j).sram.size + (t.pool j).ovf.size
    let ok : Nat → Prop := fun j => 0 < free s j ∧ (e = 7 ∨ (held s j < s.regN (offVatQuota c e j) ∧ s.regN (offVatCrit j) < free s j ∧
      (s.regN (offVatLow j) < free s j ∨ 2 * held s j ≤ s.regN (offVatQuota c e j))))
    (ok k → s.grantClass c e k = some k) ∧
    (¬ok k → free s k ≠ 0 ∨ e = 7 ∨ (s.regN (offVatPromote c)).testBit e = false → s.grantClass c e k = none) ∧
    (free s k = 0 → e ≠ 7 → (s.regN (offVatPromote c)).testBit e = true →
      (∀ j, k < j → j < 6 → ok j → (∀ i, k < i → i < j → ¬ok i) → s.grantClass c e k = some j) ∧
      ((∀ j, k < j → j < 6 → ¬ok j) → s.grantClass c e k = none)) ∧
    (∀ (n : Nat) (tag : VatTag), fitClass n = k → s.vatFor c e tag = none → s.vats.waiting.contains ⟨c, e, k, tag⟩ = false → s.vats.hurt = [] → s.sound = true →
      (s.grantClass c e k = none → (s.askVat c e n tag).1 = none ∧ (s.askVat c e n tag).2.vats.waiting = s.vats.waiting ++ [⟨c, e, k, tag⟩]) ∧
      (∀ j i, s.grantClass c e k = some j → j < 6 → ((s.pool j).sram.top = some i → (s.askVat c e n tag).1 = some ⟨⟨j, false, i⟩, c, e, tag⟩) ∧
        ((s.pool j).sram.top = none → (s.pool j).ovf.top = some i → (s.askVat c e n tag).1 = some ⟨⟨j, true, i⟩, c, e, tag⟩)) ∧
      (∀ h t, s.askVat c e n tag = (some h, t) → held t h.vat.k = held s h.vat.k + 1 ∧ free t h.vat.k + 1 = free s h.vat.k)) ∧
    (∀ h ∈ s.vats.held, h.vat.k = k → h.vat.ovf = false → s.vats.waiting = [] → s.vats.hurt = [] →
      free (s.freeVat h) k = free s k + 1 ∧ (s.freeVat h).vats.held = s.vats.held.erase h ∧ ((s.freeVat h).takeVat k).1 = some h.vat) ∧
    (∀ h ∈ s.vats.held, h.vat.k = k → h.vat.ovf = true → s.vats.waiting = [] → s.sound = true → ∀ f w, s.flatPieces (s.regN (offOvfBase k) + h.vat.idx * vatSize k) 8 = some [(f, w, 8)] →
      (s.freeVat h).readPhys w 8 = leBytes 8 ((s.pool k).ovf.top.getD (2 ^ 64 - 1)))

/-- Words the spec writes out decode to the instructions it says they are, and the all-zero word, a reserved major opcode and a reserved function code to none (R126, Tables 4.4 to 4.11). -/
def Obligations.SpecWordsDecode : Prop :=
  ∀ core : Core,
    decodeCoreWord core 0xDCC50080 = some (.setvl core 6 5 0 8) ∧ decodeCoreWord core 0xCC410180 = some (.vredSum core 2 1 0 1 8) ∧
    decodeCoreWord core 0x84E00000 = some (.sumrPop core 7 0) ∧ decodeCoreWord core 0x2D803C00 = some (.tstb core 0 7 32 0) ∧
    decodeCoreWord core 0x30800006 = some (.br core 0 true 6) ∧
    decodeCoreWord core 0 = none ∧ decodeCoreWord core 0x78000000 = none ∧ decodeCoreWord core 0x04000010 = none

/-- Encoding and decoding agree for every instruction of a control core: the word of an instruction decodes, on its core, to that instruction with every operand as it was; a word that decodes at all decodes to an
instruction that has a word on that core, and that word decodes to the same instruction (Tables 4.4 to 4.11). -/
def Obligations.DecodeAndEncodeAgree : Prop :=
  (∀ (i : Instr) (c : Core) (w : W32), encodeCoreWord i = some (c, w) → decodeCoreWord c w = some i) ∧
  (∀ (c : Core) (w : W32) (i : Instr), decodeCoreWord c w = some i → ∃ v, encodeCoreWord i = some (c, v))

/-- Every step keeps the canonical form: the bytes of memory and the tables of cores, sequence slots, admission epochs and ports hold strictly rising keys and no entry that reads as an unlisted one, so do the cores and
bytes each suspended context keeps, and there stay six pools, four epochs and twelve page lists. -/
def Obligations.EveryStepKeepsTheCanonicalForm : Prop := ∀ s t : State, s.canonical = true → step s = .next t → t.canonical = true

/-- The state after reset has the canonical form. -/
def Obligations.ResetIsCanonical : Prop := State.reset.canonical = true
end

