-- ==== Sys2Proof/Laws/Tab.lean ====
section
/-!
SUPPORT. The laws of sparse tables: read after write, writes elsewhere, and the canonical form every operation keeps.
-/
namespace Sys2Proof.Machine

variable {α : Type}

@[simp] theorem tabFind_nil (k : Nat) : tabFind ([] : Tab α) k = none := rfl

theorem tabFind_insert_same (t : Tab α) (k : Nat) (v : α) : tabFind (tabInsert t k v) k = some v := by
  induction t with
  | nil => simp [tabInsert, tabFind]
  | cons e r ih =>
    obtain ⟨a, w⟩ := e
    simp only [tabInsert]
    split
    · simp [tabFind]
    · split
      · simp [tabFind]
      · rename_i h
        simp [tabFind, Ne.symm h, ih]

theorem tabFind_insert_other (t : Tab α) {k j : Nat} (v : α) (h : j ≠ k) : tabFind (tabInsert t k v) j = tabFind t j := by
  induction t with
  | nil => simp [tabInsert, tabFind, Ne.symm h]
  | cons e r ih =>
    obtain ⟨a, w⟩ := e
    simp only [tabInsert]
    split
    · simp [tabFind, Ne.symm h]
    · split
      · rename_i hk
        subst hk
        simp [tabFind, Ne.symm h]
      · simp only [tabFind, ih]

theorem tabFind_erase_same (t : Tab α) (k : Nat) : tabFind (tabErase t k) k = none := by
  have : ∀ t : Tab α, tabFind (t.filter (fun e => e.1 != k)) k = none := by
    intro t
    induction t with
    | nil => rfl
    | cons e r ih =>
      by_cases h : e.1 = k
      · simpa [h] using ih
      · simpa [h, tabFind] using ih
  exact this t

theorem tabFind_filter (t : Tab α) (p : Nat → Bool) {j : Nat} (h : p j = true) :
    tabFind (t.filter (fun e => p e.1)) j = tabFind t j := by
  induction t with
  | nil => rfl
  | cons e r ih =>
    obtain ⟨a, w⟩ := e
    cases hp : p a with
    | true => simp [List.filter, hp, tabFind, ih]
    | false =>
      have : a ≠ j := fun hj => by simp [hj, h] at hp
      simp [List.filter, hp, tabFind, ih, this]

theorem tabFind_filter_out (t : Tab α) (p : Nat → Bool) {j : Nat} (h : p j = false) :
    tabFind (t.filter (fun e => p e.1)) j = none := by
  induction t with
  | nil => rfl
  | cons e r ih =>
    obtain ⟨a, w⟩ := e
    cases hp : p a with
    | true =>
      have : a ≠ j := fun hj => by simp [hj, h] at hp
      simpa [List.filter, hp, tabFind, this] using ih
    | false => simpa [List.filter, hp] using ih

theorem tabFind_erase_other (t : Tab α) {k j : Nat} (h : j ≠ k) : tabFind (tabErase t k) j = tabFind t j :=
  tabFind_filter t (fun a => a != k) (by simp [h])

/-- Read after write at the same key. -/
@[simp] theorem tabGet_set_same [DecidableEq α] (d : α) (t : Tab α) (k : Nat) (v : α) : tabGet d (tabSet d t k v) k = v := by
  unfold tabSet tabGet
  split
  · rename_i h
    simp [tabFind_erase_same, h]
  · simp [tabFind_insert_same]

/-- A write leaves every other key alone. -/
theorem tabGet_set_other [DecidableEq α] (d : α) (t : Tab α) {k j : Nat} (v : α) (h : j ≠ k) :
    tabGet d (tabSet d t k v) j = tabGet d t j := by
  unfold tabSet tabGet
  split
  · rw [tabFind_erase_other t h]
  · rw [tabFind_insert_other t v h]

/-! ### The canonical form -/

theorem tabWf_iff [DecidableEq α] (d : α) (t : Tab α) :
    tabWf d t = true ↔ t.Pairwise (fun a b => a.1 < b.1) ∧ ∀ e ∈ t, e.2 ≠ d := by
  simp [tabWf]

theorem tabWf_nil [DecidableEq α] (d : α) : tabWf d ([] : Tab α) = true := rfl

theorem tabWf_filter [DecidableEq α] (d : α) {t : Tab α} (p : Nat × α → Bool) (h : tabWf d t = true) : tabWf d (t.filter p) = true := by
  rw [tabWf_iff] at *
  exact ⟨h.1.filter p, fun e he => h.2 e ((List.mem_filter.1 he).1)⟩

theorem mem_tabInsert {t : Tab α} {k : Nat} {v : α} {e : Nat × α} (h : e ∈ tabInsert t k v) : e = (k, v) ∨ e ∈ t := by
  induction t with
  | nil => simpa [tabInsert] using h
  | cons x r ih =>
    obtain ⟨a, w⟩ := x
    simp only [tabInsert] at h
    split at h
    · simpa using h
    · split at h
      · simp only [List.mem_cons] at h
        rcases h with h | h
        · exact .inl h
        · exact .inr (by simp [h])
      · simp only [List.mem_cons] at h
        rcases h with h | h
        · exact .inr (by simp [h])
        · rcases ih h with h | h
          · exact .inl h
          · exact .inr (by simp [h])

theorem tabInsert_sorted {t : Tab α} (k : Nat) (v : α) (h : t.Pairwise (fun a b => a.1 < b.1)) :
    (tabInsert t k v).Pairwise (fun a b => a.1 < b.1) := by
  induction t with
  | nil => simp [tabInsert]
  | cons x r ih =>
    obtain ⟨a, w⟩ := x
    rw [List.pairwise_cons] at h
    simp only [tabInsert]
    split
    · rename_i hk
      refine List.pairwise_cons.2 ⟨fun e he => ?_, List.pairwise_cons.2 h⟩
      rcases List.mem_cons.1 he with rfl | he
      · exact hk
      · exact Nat.lt_trans hk (h.1 e he)
    · split
      · rename_i hk
        exact List.pairwise_cons.2 ⟨fun e he => by simpa [hk] using h.1 e he, h.2⟩
      · refine List.pairwise_cons.2 ⟨fun e he => ?_, ih h.2⟩
        rcases mem_tabInsert he with rfl | he
        · simp only
          omega
        · exact h.1 e he

theorem tabWf_insert [DecidableEq α] (d : α) {t : Tab α} (k : Nat) {v : α} (hv : v ≠ d) (h : tabWf d t = true) :
    tabWf d (tabInsert t k v) = true := by
  rw [tabWf_iff] at *
  refine ⟨tabInsert_sorted k v h.1, fun e he => ?_⟩
  rcases mem_tabInsert he with rfl | he
  · exact hv
  · exact h.2 e he

/-- A write keeps the canonical form. -/
theorem tabWf_set [DecidableEq α] (d : α) {t : Tab α} (k : Nat) (v : α) (h : tabWf d t = true) : tabWf d (tabSet d t k v) = true := by
  unfold tabSet
  split
  · exact tabWf_filter d _ h
  · rename_i hv
    exact tabWf_insert d k hv h

/-- Equal contents in canonical form are equal lists. -/
theorem tabFind_none_of_lt {t : Tab α} {k : Nat} (h : ∀ e ∈ t, k < e.1) : tabFind t k = none := by
  induction t with
  | nil => rfl
  | cons x r ih =>
    obtain ⟨a, w⟩ := x
    have hk := h (a, w) (by simp)
    have : a ≠ k := by simp only at hk; omega
    simp only [tabFind, this, if_false]
    exact ih (fun e he => h e (by simp [he]))

end Sys2Proof.Machine
end

