-- ==== Sys2Proof/Laws/Memory.lean ====
section
/-!
SUPPORT. The laws of memory: read after write, the bytes a write leaves alone, and that every memory operation keeps the canonical form.
-/
namespace Sys2Proof.Machine

@[simp] theorem memRead_write_same (m : Tab Byte) (a : Nat) (b : Byte) : memRead (memWrite m a b) a = b :=
  tabGet_set_same memDefault m a b

theorem memRead_write_other (m : Tab Byte) {a x : Nat} (b : Byte) (h : x ≠ a) : memRead (memWrite m a b) x = memRead m x :=
  tabGet_set_other memDefault m b h

/-- A string write leaves the bytes before and after it alone. -/
theorem memRead_writeAll_other (m : Tab Byte) {a x : Nat} (bs : List Byte) (h : x < a ∨ a + bs.length ≤ x) :
    memRead (memWriteAll m a bs) x = memRead m x := by
  induction bs generalizing m a with
  | nil => rfl
  | cons b r ih =>
    simp only [List.length_cons] at h
    simp only [memWriteAll]
    rw [ih _ (by omega), memRead_write_other _ _ (by omega)]

/-- Each byte of a string written is read back. -/
theorem memRead_writeAll_same (m : Tab Byte) {a i : Nat} (bs : List Byte) (h : i < bs.length) :
    memRead (memWriteAll m a bs) (a + i) = bs[i] := by
  induction bs generalizing m a i with
  | nil => simp at h
  | cons b r ih =>
    cases i with
    | zero =>
      simp only [memWriteAll, Nat.add_zero]
      rw [memRead_writeAll_other _ _ (by omega)]
      simp
    | succ i =>
      simp only [memWriteAll, List.getElem_cons_succ]
      have := ih (memWrite m a b) (a := a + 1) (i := i) (by simpa using h)
      rwa [Nat.add_right_comm, Nat.add_assoc] at this

theorem memWf_write {m : Tab Byte} (a : Nat) (b : Byte) (h : memWf m = true) : memWf (memWrite m a b) = true :=
  tabWf_set memDefault a b h

theorem memWf_writeAll {m : Tab Byte} (a : Nat) (bs : List Byte) (h : memWf m = true) : memWf (memWriteAll m a bs) = true := by
  induction bs generalizing m a with
  | nil => exact h
  | cons b r ih => exact ih _ (memWf_write a b h)

theorem memWf_wipe {m : Tab Byte} (a n : Nat) (h : memWf m = true) : memWf (memWipe m a n) = true := tabWf_filter _ _ h

theorem memWf_filter {m : Tab Byte} (p : Nat × Byte → Bool) (h : memWf m = true) : memWf (m.filter p) = true := tabWf_filter _ p h

theorem memWf_reset : memWf State.reset.mem = true := rfl

/-- Bytes of a wiped range read 0, and every other byte stays. -/
theorem memRead_wipe (m : Tab Byte) (a n x : Nat) :
    memRead (memWipe m a n) x = if a ≤ x ∧ x < a + n then 0 else memRead m x := by
  unfold memRead memWipe tabGet
  by_cases h : a ≤ x ∧ x < a + n
  · rw [tabFind_filter_out m (fun k => !(decide (a ≤ k) && decide (k < a + n))) (by simp [h])]
    simp [h, memDefault]
  · rw [tabFind_filter m (fun k => !(decide (a ≤ k) && decide (k < a + n))) (by simp; omega)]
    simp [h]

/-! ### Little-endian bytes -/

@[simp] theorem length_leBytes (n v : Nat) : (leBytes n v).length = n := by simp [leBytes]

theorem getElem_leBytes (n v i : Nat) (h : i < (leBytes n v).length) : (leBytes n v)[i] = BitVec.ofNat 8 (v / 256 ^ i) := by
  simp [leBytes]

/-- The bytes of a word are its bit fields. -/
theorem leBytes_extract (w : W64) (i : Nat) : BitVec.ofNat 8 (w.toNat / 256 ^ i) = w.extractLsb' (8 * i) 8 := by
  apply BitVec.eq_of_toNat_eq
  have : (256 : Nat) ^ i = 2 ^ (8 * i) := by rw [Nat.pow_mul]
  simp [BitVec.extractLsb'_toNat, Nat.shiftRight_eq_div_pow, this]

/-! ### Physical writes -/

theorem readPhys_eq (s : State) (a n : Nat) : s.readPhys a n = (List.range n).map (fun i => s.byteAt (a + i)) := rfl

theorem countStackWrite_mem (s : State) (a n : Nat) : (s.countStackWrite a n).mem = s.mem := by
  unfold State.countStackWrite
  split <;> rfl

theorem writePhys_mem (s : State) (a : Nat) (bs : List Byte) : (s.writePhys a bs).mem = memWriteAll s.mem a bs := by
  simp only [State.writePhys, countStackWrite_mem]

/-- The bytes outside the range stay. -/
theorem byteAt_writePhys_other (s : State) {a x : Nat} (bs : List Byte) (h : x < a ∨ a + bs.length ≤ x) :
    (s.writePhys a bs).byteAt x = s.byteAt x := by
  simp only [State.byteAt, writePhys_mem, memRead_writeAll_other _ bs h]

theorem byteAt_writePhys_same (s : State) {a i : Nat} (bs : List Byte) (h : i < bs.length) :
    (s.writePhys a bs).byteAt (a + i) = bs[i] := by
  simp only [State.byteAt, writePhys_mem, memRead_writeAll_same _ bs h]

theorem writePhys_wf (s : State) (a : Nat) (bs : List Byte) (h : memWf s.mem = true) : memWf (s.writePhys a bs).mem = true := by
  rw [writePhys_mem]
  exact memWf_writeAll a bs h

end Sys2Proof.Machine
end

