-- ==== Sys2Proof/Laws/State.lean ====
section
/-!
SUPPORT. What each update of State leaves alone: one lemma for each field and update, true by unfolding the update once.
-/
namespace Sys2Proof.Machine

variable (s : State)

@[simp] theorem State.setCore_pending (n : Nat) (c : CoreState) : (s.setCore n c).pending = s.pending := rfl
@[simp] theorem State.setCore_freeCtr (n : Nat) (c : CoreState) : (s.setCore n c).freeCtr = s.freeCtr := rfl
@[simp] theorem State.setCore_regs (n : Nat) (c : CoreState) : (s.setCore n c).regs = s.regs := rfl
@[simp] theorem State.setCore_mem (n : Nat) (c : CoreState) : (s.setCore n c).mem = s.mem := rfl
@[simp] theorem State.setCore_damage (n : Nat) (c : CoreState) : (s.setCore n c).damage = s.damage := rfl
@[simp] theorem State.setCore_dramPoison (n : Nat) (c : CoreState) : (s.setCore n c).dramPoison = s.dramPoison := rfl
@[simp] theorem State.setCore_rowPoison (n : Nat) (c : CoreState) : (s.setCore n c).rowPoison = s.rowPoison := rfl
@[simp] theorem State.setCore_rowUe (n : Nat) (c : CoreState) : (s.setCore n c).rowUe = s.rowUe := rfl
@[simp] theorem State.setCore_clusters (n : Nat) (c : CoreState) : (s.setCore n c).clusters = s.clusters := rfl
@[simp] theorem State.setCore_vats (n : Nat) (c : CoreState) : (s.setCore n c).vats = s.vats := rfl
@[simp] theorem State.setCore_host (n : Nat) (c : CoreState) : (s.setCore n c).host = s.host := rfl
@[simp] theorem State.setCore_ten (n : Nat) (c : CoreState) : (s.setCore n c).ten = s.ten := rfl
@[simp] theorem State.setCore_sec (n : Nat) (c : CoreState) : (s.setCore n c).sec = s.sec := rfl
@[simp] theorem State.setCore_time (n : Nat) (c : CoreState) : (s.setCore n c).time = s.time := rfl
@[simp] theorem State.setCore_life (n : Nat) (c : CoreState) : (s.setCore n c).life = s.life := rfl
@[simp] theorem State.setCore_power (n : Nat) (c : CoreState) : (s.setCore n c).power = s.power := rfl
@[simp] theorem State.setCore_press (n : Nat) (c : CoreState) : (s.setCore n c).press = s.press := rfl
@[simp] theorem State.setCore_seq (n : Nat) (c : CoreState) : (s.setCore n c).seq = s.seq := rfl
@[simp] theorem State.setCore_fab (n : Nat) (c : CoreState) : (s.setCore n c).fab = s.fab := rfl
@[simp] theorem State.setCore_memop (n : Nat) (c : CoreState) : (s.setCore n c).memop = s.memop := rfl
@[simp] theorem State.setCore_whl (n : Nat) (c : CoreState) : (s.setCore n c).whl = s.whl := rfl
@[simp] theorem State.setCore_deal (n : Nat) (c : CoreState) : (s.setCore n c).deal = s.deal := rfl
@[simp] theorem State.setCore_coll (n : Nat) (c : CoreState) : (s.setCore n c).coll = s.coll := rfl
@[simp] theorem State.setCore_net (n : Nat) (c : CoreState) : (s.setCore n c).net = s.net := rfl

@[simp] theorem State.modCore_pending (n : Nat) (f : CoreState → CoreState) : (s.modCore n f).pending = s.pending := rfl
@[simp] theorem State.modCore_freeCtr (n : Nat) (f : CoreState → CoreState) : (s.modCore n f).freeCtr = s.freeCtr := rfl
@[simp] theorem State.modCore_regs (n : Nat) (f : CoreState → CoreState) : (s.modCore n f).regs = s.regs := rfl
@[simp] theorem State.modCore_mem (n : Nat) (f : CoreState → CoreState) : (s.modCore n f).mem = s.mem := rfl
@[simp] theorem State.modCore_damage (n : Nat) (f : CoreState → CoreState) : (s.modCore n f).damage = s.damage := rfl
@[simp] theorem State.modCore_dramPoison (n : Nat) (f : CoreState → CoreState) : (s.modCore n f).dramPoison = s.dramPoison := rfl
@[simp] theorem State.modCore_rowPoison (n : Nat) (f : CoreState → CoreState) : (s.modCore n f).rowPoison = s.rowPoison := rfl
@[simp] theorem State.modCore_rowUe (n : Nat) (f : CoreState → CoreState) : (s.modCore n f).rowUe = s.rowUe := rfl
@[simp] theorem State.modCore_clusters (n : Nat) (f : CoreState → CoreState) : (s.modCore n f).clusters = s.clusters := rfl
@[simp] theorem State.modCore_vats (n : Nat) (f : CoreState → CoreState) : (s.modCore n f).vats = s.vats := rfl
@[simp] theorem State.modCore_host (n : Nat) (f : CoreState → CoreState) : (s.modCore n f).host = s.host := rfl
@[simp] theorem State.modCore_ten (n : Nat) (f : CoreState → CoreState) : (s.modCore n f).ten = s.ten := rfl
@[simp] theorem State.modCore_sec (n : Nat) (f : CoreState → CoreState) : (s.modCore n f).sec = s.sec := rfl
@[simp] theorem State.modCore_time (n : Nat) (f : CoreState → CoreState) : (s.modCore n f).time = s.time := rfl
@[simp] theorem State.modCore_life (n : Nat) (f : CoreState → CoreState) : (s.modCore n f).life = s.life := rfl
@[simp] theorem State.modCore_power (n : Nat) (f : CoreState → CoreState) : (s.modCore n f).power = s.power := rfl
@[simp] theorem State.modCore_press (n : Nat) (f : CoreState → CoreState) : (s.modCore n f).press = s.press := rfl
@[simp] theorem State.modCore_seq (n : Nat) (f : CoreState → CoreState) : (s.modCore n f).seq = s.seq := rfl
@[simp] theorem State.modCore_fab (n : Nat) (f : CoreState → CoreState) : (s.modCore n f).fab = s.fab := rfl
@[simp] theorem State.modCore_memop (n : Nat) (f : CoreState → CoreState) : (s.modCore n f).memop = s.memop := rfl
@[simp] theorem State.modCore_whl (n : Nat) (f : CoreState → CoreState) : (s.modCore n f).whl = s.whl := rfl
@[simp] theorem State.modCore_deal (n : Nat) (f : CoreState → CoreState) : (s.modCore n f).deal = s.deal := rfl
@[simp] theorem State.modCore_coll (n : Nat) (f : CoreState → CoreState) : (s.modCore n f).coll = s.coll := rfl
@[simp] theorem State.modCore_net (n : Nat) (f : CoreState → CoreState) : (s.modCore n f).net = s.net := rfl

@[simp] theorem State.stepsOn_pending (n : Nat) (f : CoreState → CoreState) : (s.stepsOn n f).pending = s.pending := rfl
@[simp] theorem State.stepsOn_freeCtr (n : Nat) (f : CoreState → CoreState) : (s.stepsOn n f).freeCtr = s.freeCtr := rfl
@[simp] theorem State.stepsOn_regs (n : Nat) (f : CoreState → CoreState) : (s.stepsOn n f).regs = s.regs := rfl
@[simp] theorem State.stepsOn_mem (n : Nat) (f : CoreState → CoreState) : (s.stepsOn n f).mem = s.mem := rfl
@[simp] theorem State.stepsOn_damage (n : Nat) (f : CoreState → CoreState) : (s.stepsOn n f).damage = s.damage := rfl
@[simp] theorem State.stepsOn_dramPoison (n : Nat) (f : CoreState → CoreState) : (s.stepsOn n f).dramPoison = s.dramPoison := rfl
@[simp] theorem State.stepsOn_rowPoison (n : Nat) (f : CoreState → CoreState) : (s.stepsOn n f).rowPoison = s.rowPoison := rfl
@[simp] theorem State.stepsOn_rowUe (n : Nat) (f : CoreState → CoreState) : (s.stepsOn n f).rowUe = s.rowUe := rfl
@[simp] theorem State.stepsOn_clusters (n : Nat) (f : CoreState → CoreState) : (s.stepsOn n f).clusters = s.clusters := rfl
@[simp] theorem State.stepsOn_vats (n : Nat) (f : CoreState → CoreState) : (s.stepsOn n f).vats = s.vats := rfl
@[simp] theorem State.stepsOn_host (n : Nat) (f : CoreState → CoreState) : (s.stepsOn n f).host = s.host := rfl
@[simp] theorem State.stepsOn_ten (n : Nat) (f : CoreState → CoreState) : (s.stepsOn n f).ten = s.ten := rfl
@[simp] theorem State.stepsOn_sec (n : Nat) (f : CoreState → CoreState) : (s.stepsOn n f).sec = s.sec := rfl
@[simp] theorem State.stepsOn_time (n : Nat) (f : CoreState → CoreState) : (s.stepsOn n f).time = s.time := rfl
@[simp] theorem State.stepsOn_life (n : Nat) (f : CoreState → CoreState) : (s.stepsOn n f).life = s.life := rfl
@[simp] theorem State.stepsOn_power (n : Nat) (f : CoreState → CoreState) : (s.stepsOn n f).power = s.power := rfl
@[simp] theorem State.stepsOn_press (n : Nat) (f : CoreState → CoreState) : (s.stepsOn n f).press = s.press := rfl
@[simp] theorem State.stepsOn_seq (n : Nat) (f : CoreState → CoreState) : (s.stepsOn n f).seq = s.seq := rfl
@[simp] theorem State.stepsOn_fab (n : Nat) (f : CoreState → CoreState) : (s.stepsOn n f).fab = s.fab := rfl
@[simp] theorem State.stepsOn_memop (n : Nat) (f : CoreState → CoreState) : (s.stepsOn n f).memop = s.memop := rfl
@[simp] theorem State.stepsOn_whl (n : Nat) (f : CoreState → CoreState) : (s.stepsOn n f).whl = s.whl := rfl
@[simp] theorem State.stepsOn_deal (n : Nat) (f : CoreState → CoreState) : (s.stepsOn n f).deal = s.deal := rfl
@[simp] theorem State.stepsOn_coll (n : Nat) (f : CoreState → CoreState) : (s.stepsOn n f).coll = s.coll := rfl
@[simp] theorem State.stepsOn_net (n : Nat) (f : CoreState → CoreState) : (s.stepsOn n f).net = s.net := rfl

@[simp] theorem State.setCluster_pending (n : Nat) (c : ClusterState) : (s.setCluster n c).pending = s.pending := rfl
@[simp] theorem State.setCluster_freeCtr (n : Nat) (c : ClusterState) : (s.setCluster n c).freeCtr = s.freeCtr := rfl
@[simp] theorem State.setCluster_regs (n : Nat) (c : ClusterState) : (s.setCluster n c).regs = s.regs := rfl
@[simp] theorem State.setCluster_mem (n : Nat) (c : ClusterState) : (s.setCluster n c).mem = s.mem := rfl
@[simp] theorem State.setCluster_damage (n : Nat) (c : ClusterState) : (s.setCluster n c).damage = s.damage := rfl
@[simp] theorem State.setCluster_dramPoison (n : Nat) (c : ClusterState) : (s.setCluster n c).dramPoison = s.dramPoison := rfl
@[simp] theorem State.setCluster_rowPoison (n : Nat) (c : ClusterState) : (s.setCluster n c).rowPoison = s.rowPoison := rfl
@[simp] theorem State.setCluster_rowUe (n : Nat) (c : ClusterState) : (s.setCluster n c).rowUe = s.rowUe := rfl
@[simp] theorem State.setCluster_cores (n : Nat) (c : ClusterState) : (s.setCluster n c).cores = s.cores := rfl
@[simp] theorem State.setCluster_vats (n : Nat) (c : ClusterState) : (s.setCluster n c).vats = s.vats := rfl
@[simp] theorem State.setCluster_host (n : Nat) (c : ClusterState) : (s.setCluster n c).host = s.host := rfl
@[simp] theorem State.setCluster_ten (n : Nat) (c : ClusterState) : (s.setCluster n c).ten = s.ten := rfl
@[simp] theorem State.setCluster_sec (n : Nat) (c : ClusterState) : (s.setCluster n c).sec = s.sec := rfl
@[simp] theorem State.setCluster_time (n : Nat) (c : ClusterState) : (s.setCluster n c).time = s.time := rfl
@[simp] theorem State.setCluster_life (n : Nat) (c : ClusterState) : (s.setCluster n c).life = s.life := rfl
@[simp] theorem State.setCluster_power (n : Nat) (c : ClusterState) : (s.setCluster n c).power = s.power := rfl
@[simp] theorem State.setCluster_press (n : Nat) (c : ClusterState) : (s.setCluster n c).press = s.press := rfl
@[simp] theorem State.setCluster_seq (n : Nat) (c : ClusterState) : (s.setCluster n c).seq = s.seq := rfl
@[simp] theorem State.setCluster_fab (n : Nat) (c : ClusterState) : (s.setCluster n c).fab = s.fab := rfl
@[simp] theorem State.setCluster_memop (n : Nat) (c : ClusterState) : (s.setCluster n c).memop = s.memop := rfl
@[simp] theorem State.setCluster_whl (n : Nat) (c : ClusterState) : (s.setCluster n c).whl = s.whl := rfl
@[simp] theorem State.setCluster_deal (n : Nat) (c : ClusterState) : (s.setCluster n c).deal = s.deal := rfl
@[simp] theorem State.setCluster_coll (n : Nat) (c : ClusterState) : (s.setCluster n c).coll = s.coll := rfl
@[simp] theorem State.setCluster_net (n : Nat) (c : ClusterState) : (s.setCluster n c).net = s.net := rfl

@[simp] theorem State.setCtx_pending (n : Nat) (c : CtxState) : (s.setCtx n c).pending = s.pending := rfl
@[simp] theorem State.setCtx_freeCtr (n : Nat) (c : CtxState) : (s.setCtx n c).freeCtr = s.freeCtr := rfl
@[simp] theorem State.setCtx_regs (n : Nat) (c : CtxState) : (s.setCtx n c).regs = s.regs := rfl
@[simp] theorem State.setCtx_mem (n : Nat) (c : CtxState) : (s.setCtx n c).mem = s.mem := rfl
@[simp] theorem State.setCtx_damage (n : Nat) (c : CtxState) : (s.setCtx n c).damage = s.damage := rfl
@[simp] theorem State.setCtx_dramPoison (n : Nat) (c : CtxState) : (s.setCtx n c).dramPoison = s.dramPoison := rfl
@[simp] theorem State.setCtx_rowPoison (n : Nat) (c : CtxState) : (s.setCtx n c).rowPoison = s.rowPoison := rfl
@[simp] theorem State.setCtx_rowUe (n : Nat) (c : CtxState) : (s.setCtx n c).rowUe = s.rowUe := rfl
@[simp] theorem State.setCtx_cores (n : Nat) (c : CtxState) : (s.setCtx n c).cores = s.cores := rfl
@[simp] theorem State.setCtx_clusters (n : Nat) (c : CtxState) : (s.setCtx n c).clusters = s.clusters := rfl
@[simp] theorem State.setCtx_vats (n : Nat) (c : CtxState) : (s.setCtx n c).vats = s.vats := rfl
@[simp] theorem State.setCtx_host (n : Nat) (c : CtxState) : (s.setCtx n c).host = s.host := rfl
@[simp] theorem State.setCtx_sec (n : Nat) (c : CtxState) : (s.setCtx n c).sec = s.sec := rfl
@[simp] theorem State.setCtx_time (n : Nat) (c : CtxState) : (s.setCtx n c).time = s.time := rfl
@[simp] theorem State.setCtx_life (n : Nat) (c : CtxState) : (s.setCtx n c).life = s.life := rfl
@[simp] theorem State.setCtx_power (n : Nat) (c : CtxState) : (s.setCtx n c).power = s.power := rfl
@[simp] theorem State.setCtx_press (n : Nat) (c : CtxState) : (s.setCtx n c).press = s.press := rfl
@[simp] theorem State.setCtx_seq (n : Nat) (c : CtxState) : (s.setCtx n c).seq = s.seq := rfl
@[simp] theorem State.setCtx_fab (n : Nat) (c : CtxState) : (s.setCtx n c).fab = s.fab := rfl
@[simp] theorem State.setCtx_memop (n : Nat) (c : CtxState) : (s.setCtx n c).memop = s.memop := rfl
@[simp] theorem State.setCtx_whl (n : Nat) (c : CtxState) : (s.setCtx n c).whl = s.whl := rfl
@[simp] theorem State.setCtx_deal (n : Nat) (c : CtxState) : (s.setCtx n c).deal = s.deal := rfl
@[simp] theorem State.setCtx_coll (n : Nat) (c : CtxState) : (s.setCtx n c).coll = s.coll := rfl
@[simp] theorem State.setCtx_net (n : Nat) (c : CtxState) : (s.setCtx n c).net = s.net := rfl

@[simp] theorem State.modCtx_pending (n : Nat) (f : CtxState → CtxState) : (s.modCtx n f).pending = s.pending := by unfold State.modCtx; split <;> rfl
@[simp] theorem State.modCtx_freeCtr (n : Nat) (f : CtxState → CtxState) : (s.modCtx n f).freeCtr = s.freeCtr := by unfold State.modCtx; split <;> rfl
@[simp] theorem State.modCtx_regs (n : Nat) (f : CtxState → CtxState) : (s.modCtx n f).regs = s.regs := by unfold State.modCtx; split <;> rfl
@[simp] theorem State.modCtx_mem (n : Nat) (f : CtxState → CtxState) : (s.modCtx n f).mem = s.mem := by unfold State.modCtx; split <;> rfl
@[simp] theorem State.modCtx_damage (n : Nat) (f : CtxState → CtxState) : (s.modCtx n f).damage = s.damage := by unfold State.modCtx; split <;> rfl
@[simp] theorem State.modCtx_dramPoison (n : Nat) (f : CtxState → CtxState) : (s.modCtx n f).dramPoison = s.dramPoison := by unfold State.modCtx; split <;> rfl
@[simp] theorem State.modCtx_rowPoison (n : Nat) (f : CtxState → CtxState) : (s.modCtx n f).rowPoison = s.rowPoison := by unfold State.modCtx; split <;> rfl
@[simp] theorem State.modCtx_rowUe (n : Nat) (f : CtxState → CtxState) : (s.modCtx n f).rowUe = s.rowUe := by unfold State.modCtx; split <;> rfl
@[simp] theorem State.modCtx_cores (n : Nat) (f : CtxState → CtxState) : (s.modCtx n f).cores = s.cores := by unfold State.modCtx; split <;> rfl
@[simp] theorem State.modCtx_clusters (n : Nat) (f : CtxState → CtxState) : (s.modCtx n f).clusters = s.clusters := by unfold State.modCtx; split <;> rfl
@[simp] theorem State.modCtx_vats (n : Nat) (f : CtxState → CtxState) : (s.modCtx n f).vats = s.vats := by unfold State.modCtx; split <;> rfl
@[simp] theorem State.modCtx_host (n : Nat) (f : CtxState → CtxState) : (s.modCtx n f).host = s.host := by unfold State.modCtx; split <;> rfl
@[simp] theorem State.modCtx_sec (n : Nat) (f : CtxState → CtxState) : (s.modCtx n f).sec = s.sec := by unfold State.modCtx; split <;> rfl
@[simp] theorem State.modCtx_time (n : Nat) (f : CtxState → CtxState) : (s.modCtx n f).time = s.time := by unfold State.modCtx; split <;> rfl
@[simp] theorem State.modCtx_life (n : Nat) (f : CtxState → CtxState) : (s.modCtx n f).life = s.life := by unfold State.modCtx; split <;> rfl
@[simp] theorem State.modCtx_power (n : Nat) (f : CtxState → CtxState) : (s.modCtx n f).power = s.power := by unfold State.modCtx; split <;> rfl
@[simp] theorem State.modCtx_press (n : Nat) (f : CtxState → CtxState) : (s.modCtx n f).press = s.press := by unfold State.modCtx; split <;> rfl
@[simp] theorem State.modCtx_seq (n : Nat) (f : CtxState → CtxState) : (s.modCtx n f).seq = s.seq := by unfold State.modCtx; split <;> rfl
@[simp] theorem State.modCtx_fab (n : Nat) (f : CtxState → CtxState) : (s.modCtx n f).fab = s.fab := by unfold State.modCtx; split <;> rfl
@[simp] theorem State.modCtx_memop (n : Nat) (f : CtxState → CtxState) : (s.modCtx n f).memop = s.memop := by unfold State.modCtx; split <;> rfl
@[simp] theorem State.modCtx_whl (n : Nat) (f : CtxState → CtxState) : (s.modCtx n f).whl = s.whl := by unfold State.modCtx; split <;> rfl
@[simp] theorem State.modCtx_deal (n : Nat) (f : CtxState → CtxState) : (s.modCtx n f).deal = s.deal := by unfold State.modCtx; split <;> rfl
@[simp] theorem State.modCtx_coll (n : Nat) (f : CtxState → CtxState) : (s.modCtx n f).coll = s.coll := by unfold State.modCtx; split <;> rfl
@[simp] theorem State.modCtx_net (n : Nat) (f : CtxState → CtxState) : (s.modCtx n f).net = s.net := by unfold State.modCtx; split <;> rfl

@[simp] theorem State.setReg_pending (a : Nat) (v : W64) : (s.setReg a v).pending = s.pending := rfl
@[simp] theorem State.setReg_freeCtr (a : Nat) (v : W64) : (s.setReg a v).freeCtr = s.freeCtr := rfl
@[simp] theorem State.setReg_mem (a : Nat) (v : W64) : (s.setReg a v).mem = s.mem := rfl
@[simp] theorem State.setReg_damage (a : Nat) (v : W64) : (s.setReg a v).damage = s.damage := rfl
@[simp] theorem State.setReg_dramPoison (a : Nat) (v : W64) : (s.setReg a v).dramPoison = s.dramPoison := rfl
@[simp] theorem State.setReg_rowPoison (a : Nat) (v : W64) : (s.setReg a v).rowPoison = s.rowPoison := rfl
@[simp] theorem State.setReg_rowUe (a : Nat) (v : W64) : (s.setReg a v).rowUe = s.rowUe := rfl
@[simp] theorem State.setReg_cores (a : Nat) (v : W64) : (s.setReg a v).cores = s.cores := rfl
@[simp] theorem State.setReg_clusters (a : Nat) (v : W64) : (s.setReg a v).clusters = s.clusters := rfl
@[simp] theorem State.setReg_vats (a : Nat) (v : W64) : (s.setReg a v).vats = s.vats := rfl
@[simp] theorem State.setReg_host (a : Nat) (v : W64) : (s.setReg a v).host = s.host := rfl
@[simp] theorem State.setReg_ten (a : Nat) (v : W64) : (s.setReg a v).ten = s.ten := rfl
@[simp] theorem State.setReg_sec (a : Nat) (v : W64) : (s.setReg a v).sec = s.sec := rfl
@[simp] theorem State.setReg_time (a : Nat) (v : W64) : (s.setReg a v).time = s.time := rfl
@[simp] theorem State.setReg_life (a : Nat) (v : W64) : (s.setReg a v).life = s.life := rfl
@[simp] theorem State.setReg_power (a : Nat) (v : W64) : (s.setReg a v).power = s.power := rfl
@[simp] theorem State.setReg_press (a : Nat) (v : W64) : (s.setReg a v).press = s.press := rfl
@[simp] theorem State.setReg_seq (a : Nat) (v : W64) : (s.setReg a v).seq = s.seq := rfl
@[simp] theorem State.setReg_fab (a : Nat) (v : W64) : (s.setReg a v).fab = s.fab := rfl
@[simp] theorem State.setReg_memop (a : Nat) (v : W64) : (s.setReg a v).memop = s.memop := rfl
@[simp] theorem State.setReg_whl (a : Nat) (v : W64) : (s.setReg a v).whl = s.whl := rfl
@[simp] theorem State.setReg_deal (a : Nat) (v : W64) : (s.setReg a v).deal = s.deal := rfl
@[simp] theorem State.setReg_coll (a : Nat) (v : W64) : (s.setReg a v).coll = s.coll := rfl
@[simp] theorem State.setReg_net (a : Nat) (v : W64) : (s.setReg a v).net = s.net := rfl

@[simp] theorem State.setRegN_pending (a v : Nat) : (s.setRegN a v).pending = s.pending := rfl
@[simp] theorem State.setRegN_freeCtr (a v : Nat) : (s.setRegN a v).freeCtr = s.freeCtr := rfl
@[simp] theorem State.setRegN_mem (a v : Nat) : (s.setRegN a v).mem = s.mem := rfl
@[simp] theorem State.setRegN_damage (a v : Nat) : (s.setRegN a v).damage = s.damage := rfl
@[simp] theorem State.setRegN_dramPoison (a v : Nat) : (s.setRegN a v).dramPoison = s.dramPoison := rfl
@[simp] theorem State.setRegN_rowPoison (a v : Nat) : (s.setRegN a v).rowPoison = s.rowPoison := rfl
@[simp] theorem State.setRegN_rowUe (a v : Nat) : (s.setRegN a v).rowUe = s.rowUe := rfl
@[simp] theorem State.setRegN_cores (a v : Nat) : (s.setRegN a v).cores = s.cores := rfl
@[simp] theorem State.setRegN_clusters (a v : Nat) : (s.setRegN a v).clusters = s.clusters := rfl
@[simp] theorem State.setRegN_vats (a v : Nat) : (s.setRegN a v).vats = s.vats := rfl
@[simp] theorem State.setRegN_host (a v : Nat) : (s.setRegN a v).host = s.host := rfl
@[simp] theorem State.setRegN_ten (a v : Nat) : (s.setRegN a v).ten = s.ten := rfl
@[simp] theorem State.setRegN_sec (a v : Nat) : (s.setRegN a v).sec = s.sec := rfl
@[simp] theorem State.setRegN_time (a v : Nat) : (s.setRegN a v).time = s.time := rfl
@[simp] theorem State.setRegN_life (a v : Nat) : (s.setRegN a v).life = s.life := rfl
@[simp] theorem State.setRegN_power (a v : Nat) : (s.setRegN a v).power = s.power := rfl
@[simp] theorem State.setRegN_press (a v : Nat) : (s.setRegN a v).press = s.press := rfl
@[simp] theorem State.setRegN_seq (a v : Nat) : (s.setRegN a v).seq = s.seq := rfl
@[simp] theorem State.setRegN_fab (a v : Nat) : (s.setRegN a v).fab = s.fab := rfl
@[simp] theorem State.setRegN_memop (a v : Nat) : (s.setRegN a v).memop = s.memop := rfl
@[simp] theorem State.setRegN_whl (a v : Nat) : (s.setRegN a v).whl = s.whl := rfl
@[simp] theorem State.setRegN_deal (a v : Nat) : (s.setRegN a v).deal = s.deal := rfl
@[simp] theorem State.setRegN_coll (a v : Nat) : (s.setRegN a v).coll = s.coll := rfl
@[simp] theorem State.setRegN_net (a v : Nat) : (s.setRegN a v).net = s.net := rfl

@[simp] theorem State.orReg_pending (a : Nat) (v : W64) : (s.orReg a v).pending = s.pending := rfl
@[simp] theorem State.orReg_freeCtr (a : Nat) (v : W64) : (s.orReg a v).freeCtr = s.freeCtr := rfl
@[simp] theorem State.orReg_mem (a : Nat) (v : W64) : (s.orReg a v).mem = s.mem := rfl
@[simp] theorem State.orReg_damage (a : Nat) (v : W64) : (s.orReg a v).damage = s.damage := rfl
@[simp] theorem State.orReg_dramPoison (a : Nat) (v : W64) : (s.orReg a v).dramPoison = s.dramPoison := rfl
@[simp] theorem State.orReg_rowPoison (a : Nat) (v : W64) : (s.orReg a v).rowPoison = s.rowPoison := rfl
@[simp] theorem State.orReg_rowUe (a : Nat) (v : W64) : (s.orReg a v).rowUe = s.rowUe := rfl
@[simp] theorem State.orReg_cores (a : Nat) (v : W64) : (s.orReg a v).cores = s.cores := rfl
@[simp] theorem State.orReg_clusters (a : Nat) (v : W64) : (s.orReg a v).clusters = s.clusters := rfl
@[simp] theorem State.orReg_vats (a : Nat) (v : W64) : (s.orReg a v).vats = s.vats := rfl
@[simp] theorem State.orReg_host (a : Nat) (v : W64) : (s.orReg a v).host = s.host := rfl
@[simp] theorem State.orReg_ten (a : Nat) (v : W64) : (s.orReg a v).ten = s.ten := rfl
@[simp] theorem State.orReg_sec (a : Nat) (v : W64) : (s.orReg a v).sec = s.sec := rfl
@[simp] theorem State.orReg_time (a : Nat) (v : W64) : (s.orReg a v).time = s.time := rfl
@[simp] theorem State.orReg_life (a : Nat) (v : W64) : (s.orReg a v).life = s.life := rfl
@[simp] theorem State.orReg_power (a : Nat) (v : W64) : (s.orReg a v).power = s.power := rfl
@[simp] theorem State.orReg_press (a : Nat) (v : W64) : (s.orReg a v).press = s.press := rfl
@[simp] theorem State.orReg_seq (a : Nat) (v : W64) : (s.orReg a v).seq = s.seq := rfl
@[simp] theorem State.orReg_fab (a : Nat) (v : W64) : (s.orReg a v).fab = s.fab := rfl
@[simp] theorem State.orReg_memop (a : Nat) (v : W64) : (s.orReg a v).memop = s.memop := rfl
@[simp] theorem State.orReg_whl (a : Nat) (v : W64) : (s.orReg a v).whl = s.whl := rfl
@[simp] theorem State.orReg_deal (a : Nat) (v : W64) : (s.orReg a v).deal = s.deal := rfl
@[simp] theorem State.orReg_coll (a : Nat) (v : W64) : (s.orReg a v).coll = s.coll := rfl
@[simp] theorem State.orReg_net (a : Nat) (v : W64) : (s.orReg a v).net = s.net := rfl

@[simp] theorem State.count_pending (a n : Nat) : (s.count a n).pending = s.pending := rfl
@[simp] theorem State.count_freeCtr (a n : Nat) : (s.count a n).freeCtr = s.freeCtr := rfl
@[simp] theorem State.count_mem (a n : Nat) : (s.count a n).mem = s.mem := rfl
@[simp] theorem State.count_damage (a n : Nat) : (s.count a n).damage = s.damage := rfl
@[simp] theorem State.count_dramPoison (a n : Nat) : (s.count a n).dramPoison = s.dramPoison := rfl
@[simp] theorem State.count_rowPoison (a n : Nat) : (s.count a n).rowPoison = s.rowPoison := rfl
@[simp] theorem State.count_rowUe (a n : Nat) : (s.count a n).rowUe = s.rowUe := rfl
@[simp] theorem State.count_cores (a n : Nat) : (s.count a n).cores = s.cores := rfl
@[simp] theorem State.count_clusters (a n : Nat) : (s.count a n).clusters = s.clusters := rfl
@[simp] theorem State.count_vats (a n : Nat) : (s.count a n).vats = s.vats := rfl
@[simp] theorem State.count_host (a n : Nat) : (s.count a n).host = s.host := rfl
@[simp] theorem State.count_ten (a n : Nat) : (s.count a n).ten = s.ten := rfl
@[simp] theorem State.count_sec (a n : Nat) : (s.count a n).sec = s.sec := rfl
@[simp] theorem State.count_time (a n : Nat) : (s.count a n).time = s.time := rfl
@[simp] theorem State.count_life (a n : Nat) : (s.count a n).life = s.life := rfl
@[simp] theorem State.count_power (a n : Nat) : (s.count a n).power = s.power := rfl
@[simp] theorem State.count_press (a n : Nat) : (s.count a n).press = s.press := rfl
@[simp] theorem State.count_seq (a n : Nat) : (s.count a n).seq = s.seq := rfl
@[simp] theorem State.count_fab (a n : Nat) : (s.count a n).fab = s.fab := rfl
@[simp] theorem State.count_memop (a n : Nat) : (s.count a n).memop = s.memop := rfl
@[simp] theorem State.count_whl (a n : Nat) : (s.count a n).whl = s.whl := rfl
@[simp] theorem State.count_deal (a n : Nat) : (s.count a n).deal = s.deal := rfl
@[simp] theorem State.count_coll (a n : Nat) : (s.count a n).coll = s.coll := rfl
@[simp] theorem State.count_net (a n : Nat) : (s.count a n).net = s.net := rfl

@[simp] theorem State.resetRegs_pending (p : Nat → Bool) : (s.resetRegs p).pending = s.pending := rfl
@[simp] theorem State.resetRegs_freeCtr (p : Nat → Bool) : (s.resetRegs p).freeCtr = s.freeCtr := rfl
@[simp] theorem State.resetRegs_mem (p : Nat → Bool) : (s.resetRegs p).mem = s.mem := rfl
@[simp] theorem State.resetRegs_damage (p : Nat → Bool) : (s.resetRegs p).damage = s.damage := rfl
@[simp] theorem State.resetRegs_dramPoison (p : Nat → Bool) : (s.resetRegs p).dramPoison = s.dramPoison := rfl
@[simp] theorem State.resetRegs_rowPoison (p : Nat → Bool) : (s.resetRegs p).rowPoison = s.rowPoison := rfl
@[simp] theorem State.resetRegs_rowUe (p : Nat → Bool) : (s.resetRegs p).rowUe = s.rowUe := rfl
@[simp] theorem State.resetRegs_cores (p : Nat → Bool) : (s.resetRegs p).cores = s.cores := rfl
@[simp] theorem State.resetRegs_clusters (p : Nat → Bool) : (s.resetRegs p).clusters = s.clusters := rfl
@[simp] theorem State.resetRegs_vats (p : Nat → Bool) : (s.resetRegs p).vats = s.vats := rfl
@[simp] theorem State.resetRegs_host (p : Nat → Bool) : (s.resetRegs p).host = s.host := rfl
@[simp] theorem State.resetRegs_ten (p : Nat → Bool) : (s.resetRegs p).ten = s.ten := rfl
@[simp] theorem State.resetRegs_sec (p : Nat → Bool) : (s.resetRegs p).sec = s.sec := rfl
@[simp] theorem State.resetRegs_time (p : Nat → Bool) : (s.resetRegs p).time = s.time := rfl
@[simp] theorem State.resetRegs_life (p : Nat → Bool) : (s.resetRegs p).life = s.life := rfl
@[simp] theorem State.resetRegs_power (p : Nat → Bool) : (s.resetRegs p).power = s.power := rfl
@[simp] theorem State.resetRegs_press (p : Nat → Bool) : (s.resetRegs p).press = s.press := rfl
@[simp] theorem State.resetRegs_seq (p : Nat → Bool) : (s.resetRegs p).seq = s.seq := rfl
@[simp] theorem State.resetRegs_fab (p : Nat → Bool) : (s.resetRegs p).fab = s.fab := rfl
@[simp] theorem State.resetRegs_memop (p : Nat → Bool) : (s.resetRegs p).memop = s.memop := rfl
@[simp] theorem State.resetRegs_whl (p : Nat → Bool) : (s.resetRegs p).whl = s.whl := rfl
@[simp] theorem State.resetRegs_deal (p : Nat → Bool) : (s.resetRegs p).deal = s.deal := rfl
@[simp] theorem State.resetRegs_coll (p : Nat → Bool) : (s.resetRegs p).coll = s.coll := rfl
@[simp] theorem State.resetRegs_net (p : Nat → Bool) : (s.resetRegs p).net = s.net := rfl

@[simp] theorem State.refuse_pending (fn off : Nat) : (s.refuse fn off).pending = s.pending := by unfold State.refuse; exact State.setRegN_pending s _ _
@[simp] theorem State.refuse_freeCtr (fn off : Nat) : (s.refuse fn off).freeCtr = s.freeCtr := by unfold State.refuse; exact State.setRegN_freeCtr s _ _
@[simp] theorem State.refuse_mem (fn off : Nat) : (s.refuse fn off).mem = s.mem := by unfold State.refuse; exact State.setRegN_mem s _ _
@[simp] theorem State.refuse_damage (fn off : Nat) : (s.refuse fn off).damage = s.damage := by unfold State.refuse; exact State.setRegN_damage s _ _
@[simp] theorem State.refuse_dramPoison (fn off : Nat) : (s.refuse fn off).dramPoison = s.dramPoison := by unfold State.refuse; exact State.setRegN_dramPoison s _ _
@[simp] theorem State.refuse_rowPoison (fn off : Nat) : (s.refuse fn off).rowPoison = s.rowPoison := by unfold State.refuse; exact State.setRegN_rowPoison s _ _
@[simp] theorem State.refuse_rowUe (fn off : Nat) : (s.refuse fn off).rowUe = s.rowUe := by unfold State.refuse; exact State.setRegN_rowUe s _ _
@[simp] theorem State.refuse_cores (fn off : Nat) : (s.refuse fn off).cores = s.cores := by unfold State.refuse; exact State.setRegN_cores s _ _
@[simp] theorem State.refuse_clusters (fn off : Nat) : (s.refuse fn off).clusters = s.clusters := by unfold State.refuse; exact State.setRegN_clusters s _ _
@[simp] theorem State.refuse_vats (fn off : Nat) : (s.refuse fn off).vats = s.vats := by unfold State.refuse; exact State.setRegN_vats s _ _
@[simp] theorem State.refuse_host (fn off : Nat) : (s.refuse fn off).host = s.host := by unfold State.refuse; exact State.setRegN_host s _ _
@[simp] theorem State.refuse_ten (fn off : Nat) : (s.refuse fn off).ten = s.ten := by unfold State.refuse; exact State.setRegN_ten s _ _
@[simp] theorem State.refuse_sec (fn off : Nat) : (s.refuse fn off).sec = s.sec := by unfold State.refuse; exact State.setRegN_sec s _ _
@[simp] theorem State.refuse_time (fn off : Nat) : (s.refuse fn off).time = s.time := by unfold State.refuse; exact State.setRegN_time s _ _
@[simp] theorem State.refuse_life (fn off : Nat) : (s.refuse fn off).life = s.life := by unfold State.refuse; exact State.setRegN_life s _ _
@[simp] theorem State.refuse_power (fn off : Nat) : (s.refuse fn off).power = s.power := by unfold State.refuse; exact State.setRegN_power s _ _
@[simp] theorem State.refuse_press (fn off : Nat) : (s.refuse fn off).press = s.press := by unfold State.refuse; exact State.setRegN_press s _ _
@[simp] theorem State.refuse_seq (fn off : Nat) : (s.refuse fn off).seq = s.seq := by unfold State.refuse; exact State.setRegN_seq s _ _
@[simp] theorem State.refuse_fab (fn off : Nat) : (s.refuse fn off).fab = s.fab := by unfold State.refuse; exact State.setRegN_fab s _ _
@[simp] theorem State.refuse_memop (fn off : Nat) : (s.refuse fn off).memop = s.memop := by unfold State.refuse; exact State.setRegN_memop s _ _
@[simp] theorem State.refuse_whl (fn off : Nat) : (s.refuse fn off).whl = s.whl := by unfold State.refuse; exact State.setRegN_whl s _ _
@[simp] theorem State.refuse_deal (fn off : Nat) : (s.refuse fn off).deal = s.deal := by unfold State.refuse; exact State.setRegN_deal s _ _
@[simp] theorem State.refuse_coll (fn off : Nat) : (s.refuse fn off).coll = s.coll := by unfold State.refuse; exact State.setRegN_coll s _ _
@[simp] theorem State.refuse_net (fn off : Nat) : (s.refuse fn off).net = s.net := by unfold State.refuse; exact State.setRegN_net s _ _

@[simp] theorem State.badAccess_pending (fn : Nat) : (s.badAccess fn).pending = s.pending := by unfold State.badAccess; exact State.count_pending s _ _
@[simp] theorem State.badAccess_freeCtr (fn : Nat) : (s.badAccess fn).freeCtr = s.freeCtr := by unfold State.badAccess; exact State.count_freeCtr s _ _
@[simp] theorem State.badAccess_mem (fn : Nat) : (s.badAccess fn).mem = s.mem := by unfold State.badAccess; exact State.count_mem s _ _
@[simp] theorem State.badAccess_damage (fn : Nat) : (s.badAccess fn).damage = s.damage := by unfold State.badAccess; exact State.count_damage s _ _
@[simp] theorem State.badAccess_dramPoison (fn : Nat) : (s.badAccess fn).dramPoison = s.dramPoison := by unfold State.badAccess; exact State.count_dramPoison s _ _
@[simp] theorem State.badAccess_rowPoison (fn : Nat) : (s.badAccess fn).rowPoison = s.rowPoison := by unfold State.badAccess; exact State.count_rowPoison s _ _
@[simp] theorem State.badAccess_rowUe (fn : Nat) : (s.badAccess fn).rowUe = s.rowUe := by unfold State.badAccess; exact State.count_rowUe s _ _
@[simp] theorem State.badAccess_cores (fn : Nat) : (s.badAccess fn).cores = s.cores := by unfold State.badAccess; exact State.count_cores s _ _
@[simp] theorem State.badAccess_clusters (fn : Nat) : (s.badAccess fn).clusters = s.clusters := by unfold State.badAccess; exact State.count_clusters s _ _
@[simp] theorem State.badAccess_vats (fn : Nat) : (s.badAccess fn).vats = s.vats := by unfold State.badAccess; exact State.count_vats s _ _
@[simp] theorem State.badAccess_host (fn : Nat) : (s.badAccess fn).host = s.host := by unfold State.badAccess; exact State.count_host s _ _
@[simp] theorem State.badAccess_ten (fn : Nat) : (s.badAccess fn).ten = s.ten := by unfold State.badAccess; exact State.count_ten s _ _
@[simp] theorem State.badAccess_sec (fn : Nat) : (s.badAccess fn).sec = s.sec := by unfold State.badAccess; exact State.count_sec s _ _
@[simp] theorem State.badAccess_time (fn : Nat) : (s.badAccess fn).time = s.time := by unfold State.badAccess; exact State.count_time s _ _
@[simp] theorem State.badAccess_life (fn : Nat) : (s.badAccess fn).life = s.life := by unfold State.badAccess; exact State.count_life s _ _
@[simp] theorem State.badAccess_power (fn : Nat) : (s.badAccess fn).power = s.power := by unfold State.badAccess; exact State.count_power s _ _
@[simp] theorem State.badAccess_press (fn : Nat) : (s.badAccess fn).press = s.press := by unfold State.badAccess; exact State.count_press s _ _
@[simp] theorem State.badAccess_seq (fn : Nat) : (s.badAccess fn).seq = s.seq := by unfold State.badAccess; exact State.count_seq s _ _
@[simp] theorem State.badAccess_fab (fn : Nat) : (s.badAccess fn).fab = s.fab := by unfold State.badAccess; exact State.count_fab s _ _
@[simp] theorem State.badAccess_memop (fn : Nat) : (s.badAccess fn).memop = s.memop := by unfold State.badAccess; exact State.count_memop s _ _
@[simp] theorem State.badAccess_whl (fn : Nat) : (s.badAccess fn).whl = s.whl := by unfold State.badAccess; exact State.count_whl s _ _
@[simp] theorem State.badAccess_deal (fn : Nat) : (s.badAccess fn).deal = s.deal := by unfold State.badAccess; exact State.count_deal s _ _
@[simp] theorem State.badAccess_coll (fn : Nat) : (s.badAccess fn).coll = s.coll := by unfold State.badAccess; exact State.count_coll s _ _
@[simp] theorem State.badAccess_net (fn : Nat) : (s.badAccess fn).net = s.net := by unfold State.badAccess; exact State.count_net s _ _

@[simp] theorem State.setRing_pending (fn i : Nat) (r : RingState) : (s.setRing fn i r).pending = s.pending := rfl
@[simp] theorem State.setRing_freeCtr (fn i : Nat) (r : RingState) : (s.setRing fn i r).freeCtr = s.freeCtr := rfl
@[simp] theorem State.setRing_regs (fn i : Nat) (r : RingState) : (s.setRing fn i r).regs = s.regs := rfl
@[simp] theorem State.setRing_mem (fn i : Nat) (r : RingState) : (s.setRing fn i r).mem = s.mem := rfl
@[simp] theorem State.setRing_damage (fn i : Nat) (r : RingState) : (s.setRing fn i r).damage = s.damage := rfl
@[simp] theorem State.setRing_dramPoison (fn i : Nat) (r : RingState) : (s.setRing fn i r).dramPoison = s.dramPoison := rfl
@[simp] theorem State.setRing_rowPoison (fn i : Nat) (r : RingState) : (s.setRing fn i r).rowPoison = s.rowPoison := rfl
@[simp] theorem State.setRing_rowUe (fn i : Nat) (r : RingState) : (s.setRing fn i r).rowUe = s.rowUe := rfl
@[simp] theorem State.setRing_cores (fn i : Nat) (r : RingState) : (s.setRing fn i r).cores = s.cores := rfl
@[simp] theorem State.setRing_clusters (fn i : Nat) (r : RingState) : (s.setRing fn i r).clusters = s.clusters := rfl
@[simp] theorem State.setRing_vats (fn i : Nat) (r : RingState) : (s.setRing fn i r).vats = s.vats := rfl
@[simp] theorem State.setRing_ten (fn i : Nat) (r : RingState) : (s.setRing fn i r).ten = s.ten := rfl
@[simp] theorem State.setRing_sec (fn i : Nat) (r : RingState) : (s.setRing fn i r).sec = s.sec := rfl
@[simp] theorem State.setRing_time (fn i : Nat) (r : RingState) : (s.setRing fn i r).time = s.time := rfl
@[simp] theorem State.setRing_life (fn i : Nat) (r : RingState) : (s.setRing fn i r).life = s.life := rfl
@[simp] theorem State.setRing_power (fn i : Nat) (r : RingState) : (s.setRing fn i r).power = s.power := rfl
@[simp] theorem State.setRing_press (fn i : Nat) (r : RingState) : (s.setRing fn i r).press = s.press := rfl
@[simp] theorem State.setRing_seq (fn i : Nat) (r : RingState) : (s.setRing fn i r).seq = s.seq := rfl
@[simp] theorem State.setRing_fab (fn i : Nat) (r : RingState) : (s.setRing fn i r).fab = s.fab := rfl
@[simp] theorem State.setRing_memop (fn i : Nat) (r : RingState) : (s.setRing fn i r).memop = s.memop := rfl
@[simp] theorem State.setRing_whl (fn i : Nat) (r : RingState) : (s.setRing fn i r).whl = s.whl := rfl
@[simp] theorem State.setRing_deal (fn i : Nat) (r : RingState) : (s.setRing fn i r).deal = s.deal := rfl
@[simp] theorem State.setRing_coll (fn i : Nat) (r : RingState) : (s.setRing fn i r).coll = s.coll := rfl
@[simp] theorem State.setRing_net (fn i : Nat) (r : RingState) : (s.setRing fn i r).net = s.net := rfl

@[simp] theorem State.sendTlp_pending (o : PcieOut) : (s.sendTlp o).pending = s.pending := rfl
@[simp] theorem State.sendTlp_freeCtr (o : PcieOut) : (s.sendTlp o).freeCtr = s.freeCtr := rfl
@[simp] theorem State.sendTlp_regs (o : PcieOut) : (s.sendTlp o).regs = s.regs := rfl
@[simp] theorem State.sendTlp_mem (o : PcieOut) : (s.sendTlp o).mem = s.mem := rfl
@[simp] theorem State.sendTlp_damage (o : PcieOut) : (s.sendTlp o).damage = s.damage := rfl
@[simp] theorem State.sendTlp_dramPoison (o : PcieOut) : (s.sendTlp o).dramPoison = s.dramPoison := rfl
@[simp] theorem State.sendTlp_rowPoison (o : PcieOut) : (s.sendTlp o).rowPoison = s.rowPoison := rfl
@[simp] theorem State.sendTlp_rowUe (o : PcieOut) : (s.sendTlp o).rowUe = s.rowUe := rfl
@[simp] theorem State.sendTlp_cores (o : PcieOut) : (s.sendTlp o).cores = s.cores := rfl
@[simp] theorem State.sendTlp_clusters (o : PcieOut) : (s.sendTlp o).clusters = s.clusters := rfl
@[simp] theorem State.sendTlp_vats (o : PcieOut) : (s.sendTlp o).vats = s.vats := rfl
@[simp] theorem State.sendTlp_ten (o : PcieOut) : (s.sendTlp o).ten = s.ten := rfl
@[simp] theorem State.sendTlp_sec (o : PcieOut) : (s.sendTlp o).sec = s.sec := rfl
@[simp] theorem State.sendTlp_time (o : PcieOut) : (s.sendTlp o).time = s.time := rfl
@[simp] theorem State.sendTlp_life (o : PcieOut) : (s.sendTlp o).life = s.life := rfl
@[simp] theorem State.sendTlp_power (o : PcieOut) : (s.sendTlp o).power = s.power := rfl
@[simp] theorem State.sendTlp_press (o : PcieOut) : (s.sendTlp o).press = s.press := rfl
@[simp] theorem State.sendTlp_seq (o : PcieOut) : (s.sendTlp o).seq = s.seq := rfl
@[simp] theorem State.sendTlp_fab (o : PcieOut) : (s.sendTlp o).fab = s.fab := rfl
@[simp] theorem State.sendTlp_memop (o : PcieOut) : (s.sendTlp o).memop = s.memop := rfl
@[simp] theorem State.sendTlp_whl (o : PcieOut) : (s.sendTlp o).whl = s.whl := rfl
@[simp] theorem State.sendTlp_deal (o : PcieOut) : (s.sendTlp o).deal = s.deal := rfl
@[simp] theorem State.sendTlp_coll (o : PcieOut) : (s.sendTlp o).coll = s.coll := rfl
@[simp] theorem State.sendTlp_net (o : PcieOut) : (s.sendTlp o).net = s.net := rfl

@[simp] theorem State.deliver_pending (pkt : Packet) : (s.deliver pkt).pending = s.pending := rfl
@[simp] theorem State.deliver_freeCtr (pkt : Packet) : (s.deliver pkt).freeCtr = s.freeCtr := rfl
@[simp] theorem State.deliver_regs (pkt : Packet) : (s.deliver pkt).regs = s.regs := rfl
@[simp] theorem State.deliver_mem (pkt : Packet) : (s.deliver pkt).mem = s.mem := rfl
@[simp] theorem State.deliver_damage (pkt : Packet) : (s.deliver pkt).damage = s.damage := rfl
@[simp] theorem State.deliver_dramPoison (pkt : Packet) : (s.deliver pkt).dramPoison = s.dramPoison := rfl
@[simp] theorem State.deliver_rowPoison (pkt : Packet) : (s.deliver pkt).rowPoison = s.rowPoison := rfl
@[simp] theorem State.deliver_rowUe (pkt : Packet) : (s.deliver pkt).rowUe = s.rowUe := rfl
@[simp] theorem State.deliver_cores (pkt : Packet) : (s.deliver pkt).cores = s.cores := rfl
@[simp] theorem State.deliver_clusters (pkt : Packet) : (s.deliver pkt).clusters = s.clusters := rfl
@[simp] theorem State.deliver_vats (pkt : Packet) : (s.deliver pkt).vats = s.vats := rfl
@[simp] theorem State.deliver_host (pkt : Packet) : (s.deliver pkt).host = s.host := rfl
@[simp] theorem State.deliver_ten (pkt : Packet) : (s.deliver pkt).ten = s.ten := rfl
@[simp] theorem State.deliver_sec (pkt : Packet) : (s.deliver pkt).sec = s.sec := rfl
@[simp] theorem State.deliver_time (pkt : Packet) : (s.deliver pkt).time = s.time := rfl
@[simp] theorem State.deliver_life (pkt : Packet) : (s.deliver pkt).life = s.life := rfl
@[simp] theorem State.deliver_power (pkt : Packet) : (s.deliver pkt).power = s.power := rfl
@[simp] theorem State.deliver_press (pkt : Packet) : (s.deliver pkt).press = s.press := rfl
@[simp] theorem State.deliver_seq (pkt : Packet) : (s.deliver pkt).seq = s.seq := rfl
@[simp] theorem State.deliver_memop (pkt : Packet) : (s.deliver pkt).memop = s.memop := rfl
@[simp] theorem State.deliver_whl (pkt : Packet) : (s.deliver pkt).whl = s.whl := rfl
@[simp] theorem State.deliver_deal (pkt : Packet) : (s.deliver pkt).deal = s.deal := rfl
@[simp] theorem State.deliver_coll (pkt : Packet) : (s.deliver pkt).coll = s.coll := rfl
@[simp] theorem State.deliver_net (pkt : Packet) : (s.deliver pkt).net = s.net := rfl

@[simp] theorem State.present_pending (u : SramUser) (l : List (Nat × Nat)) (w a : Bool) : (s.present u l w a).pending = s.pending := rfl
@[simp] theorem State.present_freeCtr (u : SramUser) (l : List (Nat × Nat)) (w a : Bool) : (s.present u l w a).freeCtr = s.freeCtr := rfl
@[simp] theorem State.present_regs (u : SramUser) (l : List (Nat × Nat)) (w a : Bool) : (s.present u l w a).regs = s.regs := rfl
@[simp] theorem State.present_mem (u : SramUser) (l : List (Nat × Nat)) (w a : Bool) : (s.present u l w a).mem = s.mem := rfl
@[simp] theorem State.present_damage (u : SramUser) (l : List (Nat × Nat)) (w a : Bool) : (s.present u l w a).damage = s.damage := rfl
@[simp] theorem State.present_dramPoison (u : SramUser) (l : List (Nat × Nat)) (w a : Bool) : (s.present u l w a).dramPoison = s.dramPoison := rfl
@[simp] theorem State.present_rowPoison (u : SramUser) (l : List (Nat × Nat)) (w a : Bool) : (s.present u l w a).rowPoison = s.rowPoison := rfl
@[simp] theorem State.present_rowUe (u : SramUser) (l : List (Nat × Nat)) (w a : Bool) : (s.present u l w a).rowUe = s.rowUe := rfl
@[simp] theorem State.present_cores (u : SramUser) (l : List (Nat × Nat)) (w a : Bool) : (s.present u l w a).cores = s.cores := rfl
@[simp] theorem State.present_clusters (u : SramUser) (l : List (Nat × Nat)) (w a : Bool) : (s.present u l w a).clusters = s.clusters := rfl
@[simp] theorem State.present_vats (u : SramUser) (l : List (Nat × Nat)) (w a : Bool) : (s.present u l w a).vats = s.vats := rfl
@[simp] theorem State.present_host (u : SramUser) (l : List (Nat × Nat)) (w a : Bool) : (s.present u l w a).host = s.host := rfl
@[simp] theorem State.present_ten (u : SramUser) (l : List (Nat × Nat)) (w a : Bool) : (s.present u l w a).ten = s.ten := rfl
@[simp] theorem State.present_sec (u : SramUser) (l : List (Nat × Nat)) (w a : Bool) : (s.present u l w a).sec = s.sec := rfl
@[simp] theorem State.present_time (u : SramUser) (l : List (Nat × Nat)) (w a : Bool) : (s.present u l w a).time = s.time := rfl
@[simp] theorem State.present_life (u : SramUser) (l : List (Nat × Nat)) (w a : Bool) : (s.present u l w a).life = s.life := rfl
@[simp] theorem State.present_power (u : SramUser) (l : List (Nat × Nat)) (w a : Bool) : (s.present u l w a).power = s.power := rfl
@[simp] theorem State.present_press (u : SramUser) (l : List (Nat × Nat)) (w a : Bool) : (s.present u l w a).press = s.press := rfl
@[simp] theorem State.present_seq (u : SramUser) (l : List (Nat × Nat)) (w a : Bool) : (s.present u l w a).seq = s.seq := rfl
@[simp] theorem State.present_fab (u : SramUser) (l : List (Nat × Nat)) (w a : Bool) : (s.present u l w a).fab = s.fab := rfl
@[simp] theorem State.present_memop (u : SramUser) (l : List (Nat × Nat)) (w a : Bool) : (s.present u l w a).memop = s.memop := rfl
@[simp] theorem State.present_whl (u : SramUser) (l : List (Nat × Nat)) (w a : Bool) : (s.present u l w a).whl = s.whl := rfl
@[simp] theorem State.present_deal (u : SramUser) (l : List (Nat × Nat)) (w a : Bool) : (s.present u l w a).deal = s.deal := rfl
@[simp] theorem State.present_coll (u : SramUser) (l : List (Nat × Nat)) (w a : Bool) : (s.present u l w a).coll = s.coll := rfl

@[simp] theorem State.presentOwn_pending (core n : Nat) (x : Option Nat) (w a : Bool) : (s.presentOwn core n x w a).pending = s.pending := by unfold State.presentOwn; cases x <;> rfl
@[simp] theorem State.presentOwn_freeCtr (core n : Nat) (x : Option Nat) (w a : Bool) : (s.presentOwn core n x w a).freeCtr = s.freeCtr := by unfold State.presentOwn; cases x <;> rfl
@[simp] theorem State.presentOwn_regs (core n : Nat) (x : Option Nat) (w a : Bool) : (s.presentOwn core n x w a).regs = s.regs := by unfold State.presentOwn; cases x <;> rfl
@[simp] theorem State.presentOwn_mem (core n : Nat) (x : Option Nat) (w a : Bool) : (s.presentOwn core n x w a).mem = s.mem := by unfold State.presentOwn; cases x <;> rfl
@[simp] theorem State.presentOwn_damage (core n : Nat) (x : Option Nat) (w a : Bool) : (s.presentOwn core n x w a).damage = s.damage := by unfold State.presentOwn; cases x <;> rfl
@[simp] theorem State.presentOwn_dramPoison (core n : Nat) (x : Option Nat) (w a : Bool) : (s.presentOwn core n x w a).dramPoison = s.dramPoison := by unfold State.presentOwn; cases x <;> rfl
@[simp] theorem State.presentOwn_rowPoison (core n : Nat) (x : Option Nat) (w a : Bool) : (s.presentOwn core n x w a).rowPoison = s.rowPoison := by unfold State.presentOwn; cases x <;> rfl
@[simp] theorem State.presentOwn_rowUe (core n : Nat) (x : Option Nat) (w a : Bool) : (s.presentOwn core n x w a).rowUe = s.rowUe := by unfold State.presentOwn; cases x <;> rfl
@[simp] theorem State.presentOwn_cores (core n : Nat) (x : Option Nat) (w a : Bool) : (s.presentOwn core n x w a).cores = s.cores := by unfold State.presentOwn; cases x <;> rfl
@[simp] theorem State.presentOwn_clusters (core n : Nat) (x : Option Nat) (w a : Bool) : (s.presentOwn core n x w a).clusters = s.clusters := by unfold State.presentOwn; cases x <;> rfl
@[simp] theorem State.presentOwn_vats (core n : Nat) (x : Option Nat) (w a : Bool) : (s.presentOwn core n x w a).vats = s.vats := by unfold State.presentOwn; cases x <;> rfl
@[simp] theorem State.presentOwn_host (core n : Nat) (x : Option Nat) (w a : Bool) : (s.presentOwn core n x w a).host = s.host := by unfold State.presentOwn; cases x <;> rfl
@[simp] theorem State.presentOwn_ten (core n : Nat) (x : Option Nat) (w a : Bool) : (s.presentOwn core n x w a).ten = s.ten := by unfold State.presentOwn; cases x <;> rfl
@[simp] theorem State.presentOwn_sec (core n : Nat) (x : Option Nat) (w a : Bool) : (s.presentOwn core n x w a).sec = s.sec := by unfold State.presentOwn; cases x <;> rfl
@[simp] theorem State.presentOwn_time (core n : Nat) (x : Option Nat) (w a : Bool) : (s.presentOwn core n x w a).time = s.time := by unfold State.presentOwn; cases x <;> rfl
@[simp] theorem State.presentOwn_life (core n : Nat) (x : Option Nat) (w a : Bool) : (s.presentOwn core n x w a).life = s.life := by unfold State.presentOwn; cases x <;> rfl
@[simp] theorem State.presentOwn_power (core n : Nat) (x : Option Nat) (w a : Bool) : (s.presentOwn core n x w a).power = s.power := by unfold State.presentOwn; cases x <;> rfl
@[simp] theorem State.presentOwn_press (core n : Nat) (x : Option Nat) (w a : Bool) : (s.presentOwn core n x w a).press = s.press := by unfold State.presentOwn; cases x <;> rfl
@[simp] theorem State.presentOwn_seq (core n : Nat) (x : Option Nat) (w a : Bool) : (s.presentOwn core n x w a).seq = s.seq := by unfold State.presentOwn; cases x <;> rfl
@[simp] theorem State.presentOwn_fab (core n : Nat) (x : Option Nat) (w a : Bool) : (s.presentOwn core n x w a).fab = s.fab := by unfold State.presentOwn; cases x <;> rfl
@[simp] theorem State.presentOwn_memop (core n : Nat) (x : Option Nat) (w a : Bool) : (s.presentOwn core n x w a).memop = s.memop := by unfold State.presentOwn; cases x <;> rfl
@[simp] theorem State.presentOwn_whl (core n : Nat) (x : Option Nat) (w a : Bool) : (s.presentOwn core n x w a).whl = s.whl := by unfold State.presentOwn; cases x <;> rfl
@[simp] theorem State.presentOwn_deal (core n : Nat) (x : Option Nat) (w a : Bool) : (s.presentOwn core n x w a).deal = s.deal := by unfold State.presentOwn; cases x <;> rfl
@[simp] theorem State.presentOwn_coll (core n : Nat) (x : Option Nat) (w a : Bool) : (s.presentOwn core n x w a).coll = s.coll := by unfold State.presentOwn; cases x <;> rfl

@[simp] theorem State.confirmVr_pending (d v : Nat) : (s.confirmVr d v).pending = s.pending := rfl
@[simp] theorem State.confirmVr_freeCtr (d v : Nat) : (s.confirmVr d v).freeCtr = s.freeCtr := rfl
@[simp] theorem State.confirmVr_mem (d v : Nat) : (s.confirmVr d v).mem = s.mem := rfl
@[simp] theorem State.confirmVr_damage (d v : Nat) : (s.confirmVr d v).damage = s.damage := rfl
@[simp] theorem State.confirmVr_dramPoison (d v : Nat) : (s.confirmVr d v).dramPoison = s.dramPoison := rfl
@[simp] theorem State.confirmVr_rowPoison (d v : Nat) : (s.confirmVr d v).rowPoison = s.rowPoison := rfl
@[simp] theorem State.confirmVr_rowUe (d v : Nat) : (s.confirmVr d v).rowUe = s.rowUe := rfl
@[simp] theorem State.confirmVr_cores (d v : Nat) : (s.confirmVr d v).cores = s.cores := rfl
@[simp] theorem State.confirmVr_clusters (d v : Nat) : (s.confirmVr d v).clusters = s.clusters := rfl
@[simp] theorem State.confirmVr_vats (d v : Nat) : (s.confirmVr d v).vats = s.vats := rfl
@[simp] theorem State.confirmVr_host (d v : Nat) : (s.confirmVr d v).host = s.host := rfl
@[simp] theorem State.confirmVr_ten (d v : Nat) : (s.confirmVr d v).ten = s.ten := rfl
@[simp] theorem State.confirmVr_sec (d v : Nat) : (s.confirmVr d v).sec = s.sec := rfl
@[simp] theorem State.confirmVr_time (d v : Nat) : (s.confirmVr d v).time = s.time := rfl
@[simp] theorem State.confirmVr_life (d v : Nat) : (s.confirmVr d v).life = s.life := rfl
@[simp] theorem State.confirmVr_press (d v : Nat) : (s.confirmVr d v).press = s.press := rfl
@[simp] theorem State.confirmVr_seq (d v : Nat) : (s.confirmVr d v).seq = s.seq := rfl
@[simp] theorem State.confirmVr_fab (d v : Nat) : (s.confirmVr d v).fab = s.fab := rfl
@[simp] theorem State.confirmVr_memop (d v : Nat) : (s.confirmVr d v).memop = s.memop := rfl
@[simp] theorem State.confirmVr_whl (d v : Nat) : (s.confirmVr d v).whl = s.whl := rfl
@[simp] theorem State.confirmVr_deal (d v : Nat) : (s.confirmVr d v).deal = s.deal := rfl
@[simp] theorem State.confirmVr_coll (d v : Nat) : (s.confirmVr d v).coll = s.coll := rfl
@[simp] theorem State.confirmVr_net (d v : Nat) : (s.confirmVr d v).net = s.net := rfl

@[simp] theorem State.emit_pending (fn : Nat) (o : PcieOut) : (s.emit fn o).pending = s.pending := by unfold State.emit; split <;> rfl
@[simp] theorem State.emit_freeCtr (fn : Nat) (o : PcieOut) : (s.emit fn o).freeCtr = s.freeCtr := by unfold State.emit; split <;> rfl
@[simp] theorem State.emit_regs (fn : Nat) (o : PcieOut) : (s.emit fn o).regs = s.regs := by unfold State.emit; split <;> rfl
@[simp] theorem State.emit_mem (fn : Nat) (o : PcieOut) : (s.emit fn o).mem = s.mem := by unfold State.emit; split <;> rfl
@[simp] theorem State.emit_damage (fn : Nat) (o : PcieOut) : (s.emit fn o).damage = s.damage := by unfold State.emit; split <;> rfl
@[simp] theorem State.emit_dramPoison (fn : Nat) (o : PcieOut) : (s.emit fn o).dramPoison = s.dramPoison := by unfold State.emit; split <;> rfl
@[simp] theorem State.emit_rowPoison (fn : Nat) (o : PcieOut) : (s.emit fn o).rowPoison = s.rowPoison := by unfold State.emit; split <;> rfl
@[simp] theorem State.emit_rowUe (fn : Nat) (o : PcieOut) : (s.emit fn o).rowUe = s.rowUe := by unfold State.emit; split <;> rfl
@[simp] theorem State.emit_cores (fn : Nat) (o : PcieOut) : (s.emit fn o).cores = s.cores := by unfold State.emit; split <;> rfl
@[simp] theorem State.emit_clusters (fn : Nat) (o : PcieOut) : (s.emit fn o).clusters = s.clusters := by unfold State.emit; split <;> rfl
@[simp] theorem State.emit_vats (fn : Nat) (o : PcieOut) : (s.emit fn o).vats = s.vats := by unfold State.emit; split <;> rfl
@[simp] theorem State.emit_ten (fn : Nat) (o : PcieOut) : (s.emit fn o).ten = s.ten := by unfold State.emit; split <;> rfl
@[simp] theorem State.emit_sec (fn : Nat) (o : PcieOut) : (s.emit fn o).sec = s.sec := by unfold State.emit; split <;> rfl
@[simp] theorem State.emit_time (fn : Nat) (o : PcieOut) : (s.emit fn o).time = s.time := by unfold State.emit; split <;> rfl
@[simp] theorem State.emit_life (fn : Nat) (o : PcieOut) : (s.emit fn o).life = s.life := by unfold State.emit; split <;> rfl
@[simp] theorem State.emit_power (fn : Nat) (o : PcieOut) : (s.emit fn o).power = s.power := by unfold State.emit; split <;> rfl
@[simp] theorem State.emit_press (fn : Nat) (o : PcieOut) : (s.emit fn o).press = s.press := by unfold State.emit; split <;> rfl
@[simp] theorem State.emit_seq (fn : Nat) (o : PcieOut) : (s.emit fn o).seq = s.seq := by unfold State.emit; split <;> rfl
@[simp] theorem State.emit_fab (fn : Nat) (o : PcieOut) : (s.emit fn o).fab = s.fab := by unfold State.emit; split <;> rfl
@[simp] theorem State.emit_memop (fn : Nat) (o : PcieOut) : (s.emit fn o).memop = s.memop := by unfold State.emit; split <;> rfl
@[simp] theorem State.emit_whl (fn : Nat) (o : PcieOut) : (s.emit fn o).whl = s.whl := by unfold State.emit; split <;> rfl
@[simp] theorem State.emit_deal (fn : Nat) (o : PcieOut) : (s.emit fn o).deal = s.deal := by unfold State.emit; split <;> rfl
@[simp] theorem State.emit_coll (fn : Nat) (o : PcieOut) : (s.emit fn o).coll = s.coll := by unfold State.emit; split <;> rfl
@[simp] theorem State.emit_net (fn : Nat) (o : PcieOut) : (s.emit fn o).net = s.net := by unfold State.emit; split <;> rfl

@[simp] theorem State.countStackWrite_pending (a n : Nat) : (s.countStackWrite a n).pending = s.pending := by unfold State.countStackWrite; split <;> rfl
@[simp] theorem State.countStackWrite_freeCtr (a n : Nat) : (s.countStackWrite a n).freeCtr = s.freeCtr := by unfold State.countStackWrite; split <;> rfl
@[simp] theorem State.countStackWrite_regs (a n : Nat) : (s.countStackWrite a n).regs = s.regs := by unfold State.countStackWrite; split <;> rfl
@[simp] theorem State.countStackWrite_mem (a n : Nat) : (s.countStackWrite a n).mem = s.mem := by unfold State.countStackWrite; split <;> rfl
@[simp] theorem State.countStackWrite_damage (a n : Nat) : (s.countStackWrite a n).damage = s.damage := by unfold State.countStackWrite; split <;> rfl
@[simp] theorem State.countStackWrite_dramPoison (a n : Nat) : (s.countStackWrite a n).dramPoison = s.dramPoison := by unfold State.countStackWrite; split <;> rfl
@[simp] theorem State.countStackWrite_rowPoison (a n : Nat) : (s.countStackWrite a n).rowPoison = s.rowPoison := by unfold State.countStackWrite; split <;> rfl
@[simp] theorem State.countStackWrite_rowUe (a n : Nat) : (s.countStackWrite a n).rowUe = s.rowUe := by unfold State.countStackWrite; split <;> rfl
@[simp] theorem State.countStackWrite_cores (a n : Nat) : (s.countStackWrite a n).cores = s.cores := by unfold State.countStackWrite; split <;> rfl
@[simp] theorem State.countStackWrite_clusters (a n : Nat) : (s.countStackWrite a n).clusters = s.clusters := by unfold State.countStackWrite; split <;> rfl
@[simp] theorem State.countStackWrite_vats (a n : Nat) : (s.countStackWrite a n).vats = s.vats := by unfold State.countStackWrite; split <;> rfl
@[simp] theorem State.countStackWrite_host (a n : Nat) : (s.countStackWrite a n).host = s.host := by unfold State.countStackWrite; split <;> rfl
@[simp] theorem State.countStackWrite_ten (a n : Nat) : (s.countStackWrite a n).ten = s.ten := by unfold State.countStackWrite; split <;> rfl
@[simp] theorem State.countStackWrite_sec (a n : Nat) : (s.countStackWrite a n).sec = s.sec := by unfold State.countStackWrite; split <;> rfl
@[simp] theorem State.countStackWrite_time (a n : Nat) : (s.countStackWrite a n).time = s.time := by unfold State.countStackWrite; split <;> rfl
@[simp] theorem State.countStackWrite_power (a n : Nat) : (s.countStackWrite a n).power = s.power := by unfold State.countStackWrite; split <;> rfl
@[simp] theorem State.countStackWrite_press (a n : Nat) : (s.countStackWrite a n).press = s.press := by unfold State.countStackWrite; split <;> rfl
@[simp] theorem State.countStackWrite_seq (a n : Nat) : (s.countStackWrite a n).seq = s.seq := by unfold State.countStackWrite; split <;> rfl
@[simp] theorem State.countStackWrite_fab (a n : Nat) : (s.countStackWrite a n).fab = s.fab := by unfold State.countStackWrite; split <;> rfl
@[simp] theorem State.countStackWrite_memop (a n : Nat) : (s.countStackWrite a n).memop = s.memop := by unfold State.countStackWrite; split <;> rfl
@[simp] theorem State.countStackWrite_whl (a n : Nat) : (s.countStackWrite a n).whl = s.whl := by unfold State.countStackWrite; split <;> rfl
@[simp] theorem State.countStackWrite_deal (a n : Nat) : (s.countStackWrite a n).deal = s.deal := by unfold State.countStackWrite; split <;> rfl
@[simp] theorem State.countStackWrite_coll (a n : Nat) : (s.countStackWrite a n).coll = s.coll := by unfold State.countStackWrite; split <;> rfl
@[simp] theorem State.countStackWrite_net (a n : Nat) : (s.countStackWrite a n).net = s.net := by unfold State.countStackWrite; split <;> rfl

@[simp] theorem State.writePhys_pending (a : Nat) (bs : List Byte) : (s.writePhys a bs).pending = s.pending := by simp [State.writePhys]
@[simp] theorem State.writePhys_freeCtr (a : Nat) (bs : List Byte) : (s.writePhys a bs).freeCtr = s.freeCtr := by simp [State.writePhys]
@[simp] theorem State.writePhys_regs (a : Nat) (bs : List Byte) : (s.writePhys a bs).regs = s.regs := by simp [State.writePhys]
@[simp] theorem State.writePhys_cores (a : Nat) (bs : List Byte) : (s.writePhys a bs).cores = s.cores := by simp [State.writePhys]
@[simp] theorem State.writePhys_clusters (a : Nat) (bs : List Byte) : (s.writePhys a bs).clusters = s.clusters := by simp [State.writePhys]
@[simp] theorem State.writePhys_vats (a : Nat) (bs : List Byte) : (s.writePhys a bs).vats = s.vats := by simp [State.writePhys]
@[simp] theorem State.writePhys_host (a : Nat) (bs : List Byte) : (s.writePhys a bs).host = s.host := by simp [State.writePhys]
@[simp] theorem State.writePhys_ten (a : Nat) (bs : List Byte) : (s.writePhys a bs).ten = s.ten := by simp [State.writePhys]
@[simp] theorem State.writePhys_sec (a : Nat) (bs : List Byte) : (s.writePhys a bs).sec = s.sec := by simp [State.writePhys]
@[simp] theorem State.writePhys_time (a : Nat) (bs : List Byte) : (s.writePhys a bs).time = s.time := by simp [State.writePhys]
@[simp] theorem State.writePhys_power (a : Nat) (bs : List Byte) : (s.writePhys a bs).power = s.power := by simp [State.writePhys]
@[simp] theorem State.writePhys_press (a : Nat) (bs : List Byte) : (s.writePhys a bs).press = s.press := by simp [State.writePhys]
@[simp] theorem State.writePhys_seq (a : Nat) (bs : List Byte) : (s.writePhys a bs).seq = s.seq := by simp [State.writePhys]
@[simp] theorem State.writePhys_fab (a : Nat) (bs : List Byte) : (s.writePhys a bs).fab = s.fab := by simp [State.writePhys]
@[simp] theorem State.writePhys_memop (a : Nat) (bs : List Byte) : (s.writePhys a bs).memop = s.memop := by simp [State.writePhys]
@[simp] theorem State.writePhys_whl (a : Nat) (bs : List Byte) : (s.writePhys a bs).whl = s.whl := by simp [State.writePhys]
@[simp] theorem State.writePhys_deal (a : Nat) (bs : List Byte) : (s.writePhys a bs).deal = s.deal := by simp [State.writePhys]
@[simp] theorem State.writePhys_coll (a : Nat) (bs : List Byte) : (s.writePhys a bs).coll = s.coll := by simp [State.writePhys]
@[simp] theorem State.writePhys_net (a : Nat) (bs : List Byte) : (s.writePhys a bs).net = s.net := by simp [State.writePhys]

variable (c : CoreState)

@[simp] theorem CoreState.setSreg_preds (r : R5) (v : W64) : (c.setSreg r v).preds = c.preds := by unfold CoreState.setSreg; split <;> rfl
@[simp] theorem CoreState.setSreg_pc (r : R5) (v : W64) : (c.setSreg r v).pc = c.pc := by unfold CoreState.setSreg; split <;> rfl
@[simp] theorem CoreState.setSreg_step (r : R5) (v : W64) : (c.setSreg r v).step = c.step := by unfold CoreState.setSreg; split <;> rfl
@[simp] theorem CoreState.setSreg_srTensor (r : R5) (v : W64) : (c.setSreg r v).srTensor = c.srTensor := by unfold CoreState.setSreg; split <;> rfl
@[simp] theorem CoreState.setSreg_srIndex (r : R5) (v : W64) : (c.setSreg r v).srIndex = c.srIndex := by unfold CoreState.setSreg; split <;> rfl
@[simp] theorem CoreState.setSreg_waitLimit (r : R5) (v : W64) : (c.setSreg r v).waitLimit = c.waitLimit := by unfold CoreState.setSreg; split <;> rfl
@[simp] theorem CoreState.setSreg_vstat (r : R5) (v : W64) : (c.setSreg r v).vstat = c.vstat := by unfold CoreState.setSreg; split <;> rfl
@[simp] theorem CoreState.setSreg_vl (r : R5) (v : W64) : (c.setSreg r v).vl = c.vl := by unfold CoreState.setSreg; split <;> rfl
@[simp] theorem CoreState.setSreg_vregs (r : R5) (v : W64) : (c.setSreg r v).vregs = c.vregs := by unfold CoreState.setSreg; split <;> rfl
@[simp] theorem CoreState.setSreg_masks (r : R5) (v : W64) : (c.setSreg r v).masks = c.masks := by unfold CoreState.setSreg; split <;> rfl
@[simp] theorem CoreState.setSreg_summary (r : R5) (v : W64) : (c.setSreg r v).summary = c.summary := by unfold CoreState.setSreg; split <;> rfl
@[simp] theorem CoreState.setSreg_run (r : R5) (v : W64) : (c.setSreg r v).run = c.run := by unfold CoreState.setSreg; split <;> rfl
@[simp] theorem CoreState.setSreg_wait (r : R5) (v : W64) : (c.setSreg r v).wait = c.wait := by unfold CoreState.setSreg; split <;> rfl
@[simp] theorem CoreState.setSreg_acc (r : R5) (v : W64) : (c.setSreg r v).acc = c.acc := by unfold CoreState.setSreg; split <;> rfl
@[simp] theorem CoreState.setSreg_accStatus (r : R5) (v : W64) : (c.setSreg r v).accStatus = c.accStatus := by unfold CoreState.setSreg; split <;> rfl
@[simp] theorem CoreState.setSreg_weights (r : R5) (v : W64) : (c.setSreg r v).weights = c.weights := by unfold CoreState.setSreg; split <;> rfl
@[simp] theorem CoreState.setSreg_drained (r : R5) (v : W64) : (c.setSreg r v).drained = c.drained := by unfold CoreState.setSreg; split <;> rfl
@[simp] theorem CoreState.setSreg_matQ (r : R5) (v : W64) : (c.setSreg r v).matQ = c.matQ := by unfold CoreState.setSreg; split <;> rfl
@[simp] theorem CoreState.setSreg_mxOut (r : R5) (v : W64) : (c.setSreg r v).mxOut = c.mxOut := by unfold CoreState.setSreg; split <;> rfl
@[simp] theorem CoreState.setSreg_lastMx (r : R5) (v : W64) : (c.setSreg r v).lastMx = c.lastMx := by unfold CoreState.setSreg; split <;> rfl
@[simp] theorem CoreState.setSreg_orMx (r : R5) (v : W64) : (c.setSreg r v).orMx = c.orMx := by unfold CoreState.setSreg; split <;> rfl
@[simp] theorem CoreState.setSreg_vecQ (r : R5) (v : W64) : (c.setSreg r v).vecQ = c.vecQ := by unfold CoreState.setSreg; split <;> rfl
@[simp] theorem CoreState.setSreg_dmaQ (r : R5) (v : W64) : (c.setSreg r v).dmaQ = c.dmaQ := by unfold CoreState.setSreg; split <;> rfl
@[simp] theorem CoreState.setSreg_dmaNext (r : R5) (v : W64) : (c.setSreg r v).dmaNext = c.dmaNext := by unfold CoreState.setSreg; split <;> rfl
@[simp] theorem CoreState.setSreg_dmaStatus (r : R5) (v : W64) : (c.setSreg r v).dmaStatus = c.dmaStatus := by unfold CoreState.setSreg; split <;> rfl
@[simp] theorem CoreState.setSreg_part (r : R5) (v : W64) : (c.setSreg r v).part = c.part := by unfold CoreState.setSreg; split <;> rfl
@[simp] theorem CoreState.setSreg_lastRdtb (r : R5) (v : W64) : (c.setSreg r v).lastRdtb = c.lastRdtb := by unfold CoreState.setSreg; split <;> rfl
@[simp] theorem CoreState.setSreg_mxHalt (r : R5) (v : W64) : (c.setSreg r v).mxHalt = c.mxHalt := by unfold CoreState.setSreg; split <;> rfl
@[simp] theorem CoreState.setSreg_vxHalt (r : R5) (v : W64) : (c.setSreg r v).vxHalt = c.vxHalt := by unfold CoreState.setSreg; split <;> rfl

@[simp] theorem CoreState.setPred_sregs (p : P2) (b : Bool) : (c.setPred p b).sregs = c.sregs := rfl
@[simp] theorem CoreState.setPred_pc (p : P2) (b : Bool) : (c.setPred p b).pc = c.pc := rfl
@[simp] theorem CoreState.setPred_step (p : P2) (b : Bool) : (c.setPred p b).step = c.step := rfl
@[simp] theorem CoreState.setPred_srTensor (p : P2) (b : Bool) : (c.setPred p b).srTensor = c.srTensor := rfl
@[simp] theorem CoreState.setPred_srIndex (p : P2) (b : Bool) : (c.setPred p b).srIndex = c.srIndex := rfl
@[simp] theorem CoreState.setPred_waitLimit (p : P2) (b : Bool) : (c.setPred p b).waitLimit = c.waitLimit := rfl
@[simp] theorem CoreState.setPred_vstat (p : P2) (b : Bool) : (c.setPred p b).vstat = c.vstat := rfl
@[simp] theorem CoreState.setPred_vl (p : P2) (b : Bool) : (c.setPred p b).vl = c.vl := rfl
@[simp] theorem CoreState.setPred_vregs (p : P2) (b : Bool) : (c.setPred p b).vregs = c.vregs := rfl
@[simp] theorem CoreState.setPred_masks (p : P2) (b : Bool) : (c.setPred p b).masks = c.masks := rfl
@[simp] theorem CoreState.setPred_summary (p : P2) (b : Bool) : (c.setPred p b).summary = c.summary := rfl
@[simp] theorem CoreState.setPred_run (p : P2) (b : Bool) : (c.setPred p b).run = c.run := rfl
@[simp] theorem CoreState.setPred_wait (p : P2) (b : Bool) : (c.setPred p b).wait = c.wait := rfl
@[simp] theorem CoreState.setPred_acc (p : P2) (b : Bool) : (c.setPred p b).acc = c.acc := rfl
@[simp] theorem CoreState.setPred_accStatus (p : P2) (b : Bool) : (c.setPred p b).accStatus = c.accStatus := rfl
@[simp] theorem CoreState.setPred_weights (p : P2) (b : Bool) : (c.setPred p b).weights = c.weights := rfl
@[simp] theorem CoreState.setPred_drained (p : P2) (b : Bool) : (c.setPred p b).drained = c.drained := rfl
@[simp] theorem CoreState.setPred_matQ (p : P2) (b : Bool) : (c.setPred p b).matQ = c.matQ := rfl
@[simp] theorem CoreState.setPred_mxOut (p : P2) (b : Bool) : (c.setPred p b).mxOut = c.mxOut := rfl
@[simp] theorem CoreState.setPred_lastMx (p : P2) (b : Bool) : (c.setPred p b).lastMx = c.lastMx := rfl
@[simp] theorem CoreState.setPred_orMx (p : P2) (b : Bool) : (c.setPred p b).orMx = c.orMx := rfl
@[simp] theorem CoreState.setPred_vecQ (p : P2) (b : Bool) : (c.setPred p b).vecQ = c.vecQ := rfl
@[simp] theorem CoreState.setPred_dmaQ (p : P2) (b : Bool) : (c.setPred p b).dmaQ = c.dmaQ := rfl
@[simp] theorem CoreState.setPred_dmaNext (p : P2) (b : Bool) : (c.setPred p b).dmaNext = c.dmaNext := rfl
@[simp] theorem CoreState.setPred_dmaStatus (p : P2) (b : Bool) : (c.setPred p b).dmaStatus = c.dmaStatus := rfl
@[simp] theorem CoreState.setPred_part (p : P2) (b : Bool) : (c.setPred p b).part = c.part := rfl
@[simp] theorem CoreState.setPred_lastRdtb (p : P2) (b : Bool) : (c.setPred p b).lastRdtb = c.lastRdtb := rfl
@[simp] theorem CoreState.setPred_mxHalt (p : P2) (b : Bool) : (c.setPred p b).mxHalt = c.mxHalt := rfl
@[simp] theorem CoreState.setPred_vxHalt (p : P2) (b : Bool) : (c.setPred p b).vxHalt = c.vxHalt := rfl

@[simp] theorem CoreState.setVreg_sregs (r : R5) (v : BitVec 2048) : (c.setVreg r v).sregs = c.sregs := rfl
@[simp] theorem CoreState.setVreg_preds (r : R5) (v : BitVec 2048) : (c.setVreg r v).preds = c.preds := rfl
@[simp] theorem CoreState.setVreg_pc (r : R5) (v : BitVec 2048) : (c.setVreg r v).pc = c.pc := rfl
@[simp] theorem CoreState.setVreg_step (r : R5) (v : BitVec 2048) : (c.setVreg r v).step = c.step := rfl
@[simp] theorem CoreState.setVreg_srTensor (r : R5) (v : BitVec 2048) : (c.setVreg r v).srTensor = c.srTensor := rfl
@[simp] theorem CoreState.setVreg_srIndex (r : R5) (v : BitVec 2048) : (c.setVreg r v).srIndex = c.srIndex := rfl
@[simp] theorem CoreState.setVreg_waitLimit (r : R5) (v : BitVec 2048) : (c.setVreg r v).waitLimit = c.waitLimit := rfl
@[simp] theorem CoreState.setVreg_vstat (r : R5) (v : BitVec 2048) : (c.setVreg r v).vstat = c.vstat := rfl
@[simp] theorem CoreState.setVreg_vl (r : R5) (v : BitVec 2048) : (c.setVreg r v).vl = c.vl := rfl
@[simp] theorem CoreState.setVreg_masks (r : R5) (v : BitVec 2048) : (c.setVreg r v).masks = c.masks := rfl
@[simp] theorem CoreState.setVreg_summary (r : R5) (v : BitVec 2048) : (c.setVreg r v).summary = c.summary := rfl
@[simp] theorem CoreState.setVreg_run (r : R5) (v : BitVec 2048) : (c.setVreg r v).run = c.run := rfl
@[simp] theorem CoreState.setVreg_wait (r : R5) (v : BitVec 2048) : (c.setVreg r v).wait = c.wait := rfl
@[simp] theorem CoreState.setVreg_acc (r : R5) (v : BitVec 2048) : (c.setVreg r v).acc = c.acc := rfl
@[simp] theorem CoreState.setVreg_accStatus (r : R5) (v : BitVec 2048) : (c.setVreg r v).accStatus = c.accStatus := rfl
@[simp] theorem CoreState.setVreg_weights (r : R5) (v : BitVec 2048) : (c.setVreg r v).weights = c.weights := rfl
@[simp] theorem CoreState.setVreg_drained (r : R5) (v : BitVec 2048) : (c.setVreg r v).drained = c.drained := rfl
@[simp] theorem CoreState.setVreg_matQ (r : R5) (v : BitVec 2048) : (c.setVreg r v).matQ = c.matQ := rfl
@[simp] theorem CoreState.setVreg_mxOut (r : R5) (v : BitVec 2048) : (c.setVreg r v).mxOut = c.mxOut := rfl
@[simp] theorem CoreState.setVreg_lastMx (r : R5) (v : BitVec 2048) : (c.setVreg r v).lastMx = c.lastMx := rfl
@[simp] theorem CoreState.setVreg_orMx (r : R5) (v : BitVec 2048) : (c.setVreg r v).orMx = c.orMx := rfl
@[simp] theorem CoreState.setVreg_vecQ (r : R5) (v : BitVec 2048) : (c.setVreg r v).vecQ = c.vecQ := rfl
@[simp] theorem CoreState.setVreg_dmaQ (r : R5) (v : BitVec 2048) : (c.setVreg r v).dmaQ = c.dmaQ := rfl
@[simp] theorem CoreState.setVreg_dmaNext (r : R5) (v : BitVec 2048) : (c.setVreg r v).dmaNext = c.dmaNext := rfl
@[simp] theorem CoreState.setVreg_dmaStatus (r : R5) (v : BitVec 2048) : (c.setVreg r v).dmaStatus = c.dmaStatus := rfl
@[simp] theorem CoreState.setVreg_part (r : R5) (v : BitVec 2048) : (c.setVreg r v).part = c.part := rfl
@[simp] theorem CoreState.setVreg_lastRdtb (r : R5) (v : BitVec 2048) : (c.setVreg r v).lastRdtb = c.lastRdtb := rfl
@[simp] theorem CoreState.setVreg_mxHalt (r : R5) (v : BitVec 2048) : (c.setVreg r v).mxHalt = c.mxHalt := rfl
@[simp] theorem CoreState.setVreg_vxHalt (r : R5) (v : BitVec 2048) : (c.setVreg r v).vxHalt = c.vxHalt := rfl

@[simp] theorem CoreState.setMreg_sregs (m : M3) (v : BitVec 1024) : (c.setMreg m v).sregs = c.sregs := rfl
@[simp] theorem CoreState.setMreg_preds (m : M3) (v : BitVec 1024) : (c.setMreg m v).preds = c.preds := rfl
@[simp] theorem CoreState.setMreg_pc (m : M3) (v : BitVec 1024) : (c.setMreg m v).pc = c.pc := rfl
@[simp] theorem CoreState.setMreg_step (m : M3) (v : BitVec 1024) : (c.setMreg m v).step = c.step := rfl
@[simp] theorem CoreState.setMreg_srTensor (m : M3) (v : BitVec 1024) : (c.setMreg m v).srTensor = c.srTensor := rfl
@[simp] theorem CoreState.setMreg_srIndex (m : M3) (v : BitVec 1024) : (c.setMreg m v).srIndex = c.srIndex := rfl
@[simp] theorem CoreState.setMreg_waitLimit (m : M3) (v : BitVec 1024) : (c.setMreg m v).waitLimit = c.waitLimit := rfl
@[simp] theorem CoreState.setMreg_vstat (m : M3) (v : BitVec 1024) : (c.setMreg m v).vstat = c.vstat := rfl
@[simp] theorem CoreState.setMreg_vl (m : M3) (v : BitVec 1024) : (c.setMreg m v).vl = c.vl := rfl
@[simp] theorem CoreState.setMreg_vregs (m : M3) (v : BitVec 1024) : (c.setMreg m v).vregs = c.vregs := rfl
@[simp] theorem CoreState.setMreg_summary (m : M3) (v : BitVec 1024) : (c.setMreg m v).summary = c.summary := rfl
@[simp] theorem CoreState.setMreg_run (m : M3) (v : BitVec 1024) : (c.setMreg m v).run = c.run := rfl
@[simp] theorem CoreState.setMreg_wait (m : M3) (v : BitVec 1024) : (c.setMreg m v).wait = c.wait := rfl
@[simp] theorem CoreState.setMreg_acc (m : M3) (v : BitVec 1024) : (c.setMreg m v).acc = c.acc := rfl
@[simp] theorem CoreState.setMreg_accStatus (m : M3) (v : BitVec 1024) : (c.setMreg m v).accStatus = c.accStatus := rfl
@[simp] theorem CoreState.setMreg_weights (m : M3) (v : BitVec 1024) : (c.setMreg m v).weights = c.weights := rfl
@[simp] theorem CoreState.setMreg_drained (m : M3) (v : BitVec 1024) : (c.setMreg m v).drained = c.drained := rfl
@[simp] theorem CoreState.setMreg_matQ (m : M3) (v : BitVec 1024) : (c.setMreg m v).matQ = c.matQ := rfl
@[simp] theorem CoreState.setMreg_mxOut (m : M3) (v : BitVec 1024) : (c.setMreg m v).mxOut = c.mxOut := rfl
@[simp] theorem CoreState.setMreg_lastMx (m : M3) (v : BitVec 1024) : (c.setMreg m v).lastMx = c.lastMx := rfl
@[simp] theorem CoreState.setMreg_orMx (m : M3) (v : BitVec 1024) : (c.setMreg m v).orMx = c.orMx := rfl
@[simp] theorem CoreState.setMreg_vecQ (m : M3) (v : BitVec 1024) : (c.setMreg m v).vecQ = c.vecQ := rfl
@[simp] theorem CoreState.setMreg_dmaQ (m : M3) (v : BitVec 1024) : (c.setMreg m v).dmaQ = c.dmaQ := rfl
@[simp] theorem CoreState.setMreg_dmaNext (m : M3) (v : BitVec 1024) : (c.setMreg m v).dmaNext = c.dmaNext := rfl
@[simp] theorem CoreState.setMreg_dmaStatus (m : M3) (v : BitVec 1024) : (c.setMreg m v).dmaStatus = c.dmaStatus := rfl
@[simp] theorem CoreState.setMreg_part (m : M3) (v : BitVec 1024) : (c.setMreg m v).part = c.part := rfl
@[simp] theorem CoreState.setMreg_lastRdtb (m : M3) (v : BitVec 1024) : (c.setMreg m v).lastRdtb = c.lastRdtb := rfl
@[simp] theorem CoreState.setMreg_mxHalt (m : M3) (v : BitVec 1024) : (c.setMreg m v).mxHalt = c.mxHalt := rfl
@[simp] theorem CoreState.setMreg_vxHalt (m : M3) (v : BitVec 1024) : (c.setMreg m v).vxHalt = c.vxHalt := rfl

@[simp] theorem CoreState.advance_sregs : (c.advance).sregs = c.sregs := rfl
@[simp] theorem CoreState.advance_preds : (c.advance).preds = c.preds := rfl
@[simp] theorem CoreState.advance_step : (c.advance).step = c.step := rfl
@[simp] theorem CoreState.advance_srTensor : (c.advance).srTensor = c.srTensor := rfl
@[simp] theorem CoreState.advance_srIndex : (c.advance).srIndex = c.srIndex := rfl
@[simp] theorem CoreState.advance_waitLimit : (c.advance).waitLimit = c.waitLimit := rfl
@[simp] theorem CoreState.advance_vstat : (c.advance).vstat = c.vstat := rfl
@[simp] theorem CoreState.advance_vl : (c.advance).vl = c.vl := rfl
@[simp] theorem CoreState.advance_vregs : (c.advance).vregs = c.vregs := rfl
@[simp] theorem CoreState.advance_masks : (c.advance).masks = c.masks := rfl
@[simp] theorem CoreState.advance_summary : (c.advance).summary = c.summary := rfl
@[simp] theorem CoreState.advance_run : (c.advance).run = c.run := rfl
@[simp] theorem CoreState.advance_wait : (c.advance).wait = c.wait := rfl
@[simp] theorem CoreState.advance_acc : (c.advance).acc = c.acc := rfl
@[simp] theorem CoreState.advance_accStatus : (c.advance).accStatus = c.accStatus := rfl
@[simp] theorem CoreState.advance_weights : (c.advance).weights = c.weights := rfl
@[simp] theorem CoreState.advance_drained : (c.advance).drained = c.drained := rfl
@[simp] theorem CoreState.advance_matQ : (c.advance).matQ = c.matQ := rfl
@[simp] theorem CoreState.advance_mxOut : (c.advance).mxOut = c.mxOut := rfl
@[simp] theorem CoreState.advance_lastMx : (c.advance).lastMx = c.lastMx := rfl
@[simp] theorem CoreState.advance_orMx : (c.advance).orMx = c.orMx := rfl
@[simp] theorem CoreState.advance_vecQ : (c.advance).vecQ = c.vecQ := rfl
@[simp] theorem CoreState.advance_dmaQ : (c.advance).dmaQ = c.dmaQ := rfl
@[simp] theorem CoreState.advance_dmaNext : (c.advance).dmaNext = c.dmaNext := rfl
@[simp] theorem CoreState.advance_dmaStatus : (c.advance).dmaStatus = c.dmaStatus := rfl
@[simp] theorem CoreState.advance_part : (c.advance).part = c.part := rfl
@[simp] theorem CoreState.advance_lastRdtb : (c.advance).lastRdtb = c.lastRdtb := rfl
@[simp] theorem CoreState.advance_mxHalt : (c.advance).mxHalt = c.mxHalt := rfl
@[simp] theorem CoreState.advance_vxHalt : (c.advance).vxHalt = c.vxHalt := rfl

@[simp] theorem CoreState.addVstat_sregs (e : Nat) : (c.addVstat e).sregs = c.sregs := rfl
@[simp] theorem CoreState.addVstat_preds (e : Nat) : (c.addVstat e).preds = c.preds := rfl
@[simp] theorem CoreState.addVstat_pc (e : Nat) : (c.addVstat e).pc = c.pc := rfl
@[simp] theorem CoreState.addVstat_step (e : Nat) : (c.addVstat e).step = c.step := rfl
@[simp] theorem CoreState.addVstat_srTensor (e : Nat) : (c.addVstat e).srTensor = c.srTensor := rfl
@[simp] theorem CoreState.addVstat_srIndex (e : Nat) : (c.addVstat e).srIndex = c.srIndex := rfl
@[simp] theorem CoreState.addVstat_waitLimit (e : Nat) : (c.addVstat e).waitLimit = c.waitLimit := rfl
@[simp] theorem CoreState.addVstat_vl (e : Nat) : (c.addVstat e).vl = c.vl := rfl
@[simp] theorem CoreState.addVstat_vregs (e : Nat) : (c.addVstat e).vregs = c.vregs := rfl
@[simp] theorem CoreState.addVstat_masks (e : Nat) : (c.addVstat e).masks = c.masks := rfl
@[simp] theorem CoreState.addVstat_summary (e : Nat) : (c.addVstat e).summary = c.summary := rfl
@[simp] theorem CoreState.addVstat_run (e : Nat) : (c.addVstat e).run = c.run := rfl
@[simp] theorem CoreState.addVstat_wait (e : Nat) : (c.addVstat e).wait = c.wait := rfl
@[simp] theorem CoreState.addVstat_acc (e : Nat) : (c.addVstat e).acc = c.acc := rfl
@[simp] theorem CoreState.addVstat_accStatus (e : Nat) : (c.addVstat e).accStatus = c.accStatus := rfl
@[simp] theorem CoreState.addVstat_weights (e : Nat) : (c.addVstat e).weights = c.weights := rfl
@[simp] theorem CoreState.addVstat_drained (e : Nat) : (c.addVstat e).drained = c.drained := rfl
@[simp] theorem CoreState.addVstat_matQ (e : Nat) : (c.addVstat e).matQ = c.matQ := rfl
@[simp] theorem CoreState.addVstat_mxOut (e : Nat) : (c.addVstat e).mxOut = c.mxOut := rfl
@[simp] theorem CoreState.addVstat_lastMx (e : Nat) : (c.addVstat e).lastMx = c.lastMx := rfl
@[simp] theorem CoreState.addVstat_orMx (e : Nat) : (c.addVstat e).orMx = c.orMx := rfl
@[simp] theorem CoreState.addVstat_vecQ (e : Nat) : (c.addVstat e).vecQ = c.vecQ := rfl
@[simp] theorem CoreState.addVstat_dmaQ (e : Nat) : (c.addVstat e).dmaQ = c.dmaQ := rfl
@[simp] theorem CoreState.addVstat_dmaNext (e : Nat) : (c.addVstat e).dmaNext = c.dmaNext := rfl
@[simp] theorem CoreState.addVstat_dmaStatus (e : Nat) : (c.addVstat e).dmaStatus = c.dmaStatus := rfl
@[simp] theorem CoreState.addVstat_part (e : Nat) : (c.addVstat e).part = c.part := rfl
@[simp] theorem CoreState.addVstat_lastRdtb (e : Nat) : (c.addVstat e).lastRdtb = c.lastRdtb := rfl
@[simp] theorem CoreState.addVstat_mxHalt (e : Nat) : (c.addVstat e).mxHalt = c.mxHalt := rfl
@[simp] theorem CoreState.addVstat_vxHalt (e : Nat) : (c.addVstat e).vxHalt = c.vxHalt := rfl

/-! ### Work that a trip stops (R480) -/

@[simp] theorem State.unlessTripped_running {s : State} (f : State → State) (h : s.power.tripped = false) : s.unlessTripped f = f s := by
  simp [State.unlessTripped, h]

@[simp] theorem State.unlessTripped_tripped {s : State} (f : State → State) (h : s.power.tripped = true) : s.unlessTripped f = s := by
  simp [State.unlessTripped, h]

/-! ### Reading back what an update wrote -/

@[simp] theorem State.core_setCore_same (n : Nat) (c : CoreState) : (s.setCore n c).core n = c :=
  tabGet_set_same CoreState.reset s.cores n c

theorem State.core_setCore_other {n k : Nat} (c : CoreState) (h : k ≠ n) : (s.setCore n c).core k = s.core k :=
  tabGet_set_other CoreState.reset s.cores c h

@[simp] theorem State.core_modCore_same (n : Nat) (f : CoreState → CoreState) : (s.modCore n f).core n = f (s.core n) :=
  s.core_setCore_same n _

theorem State.core_modCore_other {n k : Nat} (f : CoreState → CoreState) (h : k ≠ n) : (s.modCore n f).core k = s.core k :=
  s.core_setCore_other _ h

@[simp] theorem State.cluster_setCluster_same (n : Nat) (c : ClusterState) : (s.setCluster n c).cluster n = c :=
  tabGet_set_same ClusterState.reset s.clusters n c

theorem State.cluster_setCluster_other {n k : Nat} (c : ClusterState) (h : k ≠ n) : (s.setCluster n c).cluster k = s.cluster k :=
  tabGet_set_other ClusterState.reset s.clusters c h

@[simp] theorem State.ctx_setCtx_same (n : Nat) (x : CtxState) : (s.setCtx n x).ctx? n = some x := tabFind_insert_same s.ten.ctxs n x

theorem State.ctx_setCtx_other {n k : Nat} (x : CtxState) (h : k ≠ n) : (s.setCtx n x).ctx? k = s.ctx? k :=
  tabFind_insert_other s.ten.ctxs x h

@[simp] theorem State.reg_setReg_same (a : Nat) (v : W64) : (s.setReg a v).reg a = v := tabGet_set_same (regReset a) s.regs a v

theorem State.reg_setReg_other {a b : Nat} (v : W64) (h : b ≠ a) : (s.setReg a v).reg b = s.reg b := by
  simp only [State.reg, State.setReg, tabGet, tabSet]
  split
  · rw [tabFind_erase_other _ h]
  · rw [tabFind_insert_other _ _ h]

@[simp] theorem State.ring_setRing_same (fn i : Nat) (r : RingState) : (s.setRing fn i r).ring fn i = r :=
  tabGet_set_same RingState.reset s.host.rings (8 * fn + i) r

/-! ### Reads of a core -/

@[simp] theorem CoreState.sreg_zero : c.sreg 0 = 0 := rfl

@[simp] theorem CoreState.setSreg_zero (v : W64) : c.setSreg 0 v = c := rfl

theorem CoreState.sreg_setSreg_same (r : R5) (v : W64) (h : r ≠ 0) : (c.setSreg r v).sreg r = v := by
  unfold CoreState.sreg CoreState.setSreg
  rw [if_neg h, if_neg h]
  exact tabGet_set_same 0 c.sregs r.toNat v

theorem CoreState.sreg_setSreg_other {r q : R5} (v : W64) (h : q ≠ r) : (c.setSreg r v).sreg q = c.sreg q := by
  unfold CoreState.sreg CoreState.setSreg
  by_cases hq : q = 0
  · simp [hq]
  · by_cases hr : r = 0
    · simp [hr]
    · simp only [hq, hr, if_false]
      exact tabGet_set_other 0 c.sregs v (fun e => h (BitVec.eq_of_toNat_eq e))

@[simp] theorem CoreState.pc_advance : c.advance.pc = c.pc + 4 := rfl
@[simp] theorem CoreState.sreg_advance (r : R5) : c.advance.sreg r = c.sreg r := rfl
@[simp] theorem CoreState.pred_advance (p : P2) : c.advance.pred p = c.pred p := rfl
@[simp] theorem CoreState.vreg_advance (r : R5) : c.advance.vreg r = c.vreg r := rfl
@[simp] theorem CoreState.mreg_advance (m : M3) : c.advance.mreg m = c.mreg m := rfl
@[simp] theorem CoreState.sreg_setPred (p : P2) (b : Bool) (r : R5) : (c.setPred p b).sreg r = c.sreg r := rfl
@[simp] theorem CoreState.vreg_setVreg_same (r : R5) (v : BitVec 2048) : (c.setVreg r v).vreg r = v := tabGet_set_same 0 c.vregs r.toNat v
@[simp] theorem CoreState.mreg_setMreg_same (m : M3) (v : BitVec 1024) : (c.setMreg m v).mreg m = v := tabGet_set_same 0 c.masks m.toNat v

theorem CoreState.pred_setPred (p q : P2) (b : Bool) : (c.setPred p b).pred q = if q = p then b else c.pred q := by
  have : ∀ (x : BitVec 4) (p q : P2) (b : Bool),
      ((x &&& ~~~(1#4 <<< p.toNat)) ||| ((if b then 1#4 else 0#4) <<< p.toNat)).getLsbD q.toNat = if q = p then b else x.getLsbD q.toNat := by
    decide
  exact this c.preds p q b

end Sys2Proof.Machine
end

