-- ==== Sys2Proof/Laws/Core.lean ====
section
/-!
SUPPORT. What each operation shared by the instructions can do: fetching, reading the local windows, retiring, and ending a context.
-/
namespace Sys2Proof.Machine

/-! ### Checked reads (R144) -/

/-- A clean range reads without an error, and changes nothing. -/
theorem checkSram_clean {s : State} {a n : Nat} (h : s.clean a n = true) : s.checkSram a n = (s, .ok) := by
  unfold State.clean at h
  simp only [Bool.and_eq_true, List.all_eq_true] at h
  obtain ⟨h1, h2⟩ := h
  have e1 : s.damage.filter (fun e => !isDram e.1 && rangesMeet e.1 8 a n) = [] := by
    rw [List.filter_eq_nil_iff]
    intro e he
    have := h1 e he
    revert this
    cases isDram e.1 <;> cases rangesMeet e.1 8 a n <;> simp
  have e2 : s.rowPoison.find? (fun w => rangesMeet (64 * w) 64 a n) = none := by
    rw [List.find?_eq_none]
    intro w hw
    have := h2 w hw
    revert this
    cases rangesMeet (64 * w) 64 a n <;> simp
  simp only [State.checkSram, e1, List.foldl_nil, List.any_nil, e2, Bool.false_eq_true, if_false]

/-- A read of a clean range goes on with the little-endian value of its bytes. -/
theorem withRead_clean {s : State} {a n : Nat} (core : Nat) (k : State → Nat → State) (h : s.clean a n = true) :
    s.withRead core (some a) n k = k s (s.readNat a n) := by
  simp only [State.withRead, checkSram_clean h]

theorem withRead_none (s : State) (core n : Nat) (k : State → Nat → State) : s.withRead core none n k = s.faultIllegal core := rfl

/-! ### One instruction (R125, R126) -/

/-- A core that executes does what its instruction says, if it is legal. -/
theorem coreStep_legal {s : State} {core : Nat} (f : State → State) (h : s.executes core = true) : s.coreStep core true f = f s := by
  simp only [State.executes, State.fetches, Bool.and_eq_true, beq_iff_eq] at h
  obtain ⟨h1, h2, h3⟩ := h
  unfold State.coreStep
  simp only [h1, h2, if_true]
  cases hp : localPhys core (s.core core).pc.toNat 4 with
  | none => simp [hp] at h3
  | some a =>
    simp only [hp] at h3
    simp [withRead_clean _ _ h3]

/-- A core that executes an illegal instruction faults its context. -/
theorem coreStep_illegal {s : State} {core : Nat} (f : State → State) (h : s.executes core = true) :
    s.coreStep core false f = s.faultIllegal core := by
  simp only [State.executes, State.fetches, Bool.and_eq_true, beq_iff_eq] at h
  obtain ⟨h1, h2, h3⟩ := h
  unfold State.coreStep
  simp only [h1, h2, if_true]
  cases hp : localPhys core (s.core core).pc.toNat 4 with
  | none => simp [hp] at h3
  | some a =>
    simp only [hp] at h3
    simp [withRead_clean _ _ h3]

/-- A core that does not run leaves everything as it is. -/
theorem coreStep_stopped {s : State} {core : Nat} (legal : Bool) (f : State → State) (h : s.canRun core = false) :
    s.coreStep core legal f = s := by
  simp [State.coreStep, h]

theorem executes_canRun {s : State} {core : Nat} (h : s.executes core = true) : s.canRun core = true := by
  simp only [State.executes, Bool.and_eq_true] at h
  exact h.1

/-- A running core is in its launch and waits for nothing. -/
theorem canRun_running {s : State} {core : Nat} (h : s.canRun core = true) : (s.core core).run = .running ∧ (s.core core).wait = .none := by
  simp only [State.canRun, Bool.and_eq_true, beq_iff_eq] at h
  exact ⟨h.1.1.1.1, h.1.1.1.2⟩

theorem aluRR_eq {s : State} {core : Core} (rd rs1 rs2 : R5) (f : W64 → W64 → W64) (h : s.executes core = true) :
    s.aluRR core rd rs1 rs2 f = s.stepsOn core (fun c => c.setSreg rd (f ((s.core core).sreg rs1) ((s.core core).sreg rs2))) := by
  unfold State.aluRR
  rw [coreStep_legal _ h]
  rfl

theorem aluR_eq {s : State} {core : Core} (rd rs1 : R5) (f : W64 → W64) (h : s.executes core = true) :
    s.aluR core true rd rs1 f = s.stepsOn core (fun c => c.setSreg rd (f ((s.core core).sreg rs1))) := by
  unfold State.aluR
  rw [coreStep_legal _ h]
  rfl

theorem setPredStep_eq {s : State} {core : Core} (pd : P2) (f : CoreState → Bool) (h : s.executes core = true) :
    s.setPredStep core true pd f = s.stepsOn core (fun c => c.setPred pd (f (s.core core))) := by
  unfold State.setPredStep
  rw [coreStep_legal _ h]
  rfl

end Sys2Proof.Machine
end

