-- ==== Sys2Proof/Tests/Slice0.lean ====
section
/-!
SUPPORT. The model's own tests: ill-formed commands, instruction words, one step of small states, and states that meet the hypotheses of the statements.
Expected values come from the spec's tables and examples.
-/
namespace Sys2Proof.Tests
set_option Elab.async false
open Sys2Proof Sys2Proof.Machine

/-! ### Small states -/

/-- Firmware runs. -/
def up : State := { State.reset with sec := { State.reset.sec with boot := .running } }

/-- An Active context of one cluster, package cluster 0. -/
def ctxA : CtxState where
  lent := false
  phase := .active
  count := 1
  clusters := [0]
  srKey := 7
  saveBase := 0
  replyBase := 0
  map := []
  preempt := none
  resume := none
  stopped := false
  saved := none
  savedRows := false
  replies := []
  log := []
  heldWrites := []
  ending := none
  owed := []
  acctFirst := false
  acctStart := 0
  acctBase := []

/-- A core in its launch at the foot of its scratchpad window. -/
def runner : CoreState := { CoreState.reset with
  run := .running
  pc := 0x8000000000000000 }

/-- Context 1 holds cluster 0, and its core 0 is `c`. -/
def withCore (c : CoreState) : State := { up with
  clusters := [(0, { ClusterState.reset with owner := some (1, 0) })]
  cores := [(0, c)]
  ten := { up.ten with ctxs := [(1, ctxA)] } }

/-- The same with scalar registers set. -/
def withRegs (r : Tab W64) : State := withCore { runner with sregs := r }

/-- A block, record or descriptor of n bytes with some fields set: offset, size and value of each. -/
def blk (n : Nat) (fs : List (Nat × Nat × Nat)) : List Byte := fs.foldl (fun b f => putField b f.1 f.2.1 f.2.2) (zeroBytes n)

/-- A next state of which a test holds. -/
def leads (o : Host.Outcome State Fault Refusal) (p : State → Bool) : Bool :=
  match o with
  | .next t => p t
  | .fault _ => false
  | .refused _ => false


/-! ### Ill-formed commands, one for each check of `Instr.wf` -/

theorem wf_write_of_no_bytes : (Instr.registerWrite 0 0x100 0 1).wf = false := by decide
theorem wf_write_of_nine_bytes : (Instr.registerWrite 0 0x100 9 1).wf = false := by decide
theorem wf_write_past_bar0 : (Instr.registerWrite 0 0x1FFFFFF 2 1).wf = false ∧ (Instr.registerWrite 0 0x1FFFFFF 1 1).wf = true := by decide
theorem wf_write_past_a_vf_bar0 : (Instr.registerWrite 1 0xFFFC 8 1).wf = false ∧ (Instr.registerWrite 1 0xFFF8 8 1).wf = true := by decide
theorem wf_hwm_misaligned : (Instr.highestLowestReset 0x30204 0).wf = false := by decide
theorem wf_hwm_outside : (Instr.highestLowestReset 0x2000000 0).wf = false := by decide
theorem wf_conflict_list : (Instr.conflictClr 0 0 [0x2000000]).wf = false := by decide
theorem wf_fabric_list : (Instr.fabCntClr 0 [0x2000000]).wf = false := by decide
theorem wf_scrub_word : (Instr.patrolScrub 0 (3 * 2 ^ 30) .uncorrectable).wf = false ∧ (Instr.patrolScrub 0 (3 * 2 ^ 30 - 1) .uncorrectable).wf = true := by decide
theorem wf_packet : (Instr.packetForward 0 ⟨0x10, 0, 0, false, false, 0, 0, 0, 0, 0, 0, 0, zeroBytes 2049, 0, false, 0⟩ 0).wf = false := by decide +kernel
theorem wf_energy : (Instr.railEnergyInterval (List.replicate 10 0)).wf = false := by decide
theorem wf_step : (Instr.timebaseStep .quiet).wf = true := by decide
theorem wf_step_bank : (Instr.timebaseStep { StepEnv.quiet with bankTurns := [⟨0, 160, 0⟩] }).wf = false ∧ (Instr.timebaseStep { StepEnv.quiet with bankTurns := [⟨200, 0, 255⟩] }).wf = true := by decide
theorem wf_step_packet : (Instr.timebaseStep { StepEnv.quiet with netIn := [⟨4, none, .cluster 0, .table, 0, none, []⟩] }).wf = false ∧ (Instr.timebaseStep { StepEnv.quiet with netIn := [⟨3, none, .cluster 200, .table, 0, none, []⟩] }).wf = false := by decide
theorem wf_step_router : (Instr.timebaseStep { StepEnv.quiet with netTurns := [.router 200 0] }).wf = false ∧ (Instr.timebaseStep { StepEnv.quiet with netTurns := [.router 0 6] }).wf = false ∧
    (Instr.timebaseStep { StepEnv.quiet with netTurns := [.hop (.input 0 0) 1] }).wf = false := by decide
theorem wf_step_cluster_dma : (Instr.timebaseStep { StepEnv.quiet with cdma := [(200, true)] }).wf = false := by decide
theorem wf_step_vat : (Instr.timebaseStep { StepEnv.quiet with vatUpsets := [(6, 0, 0, true)] }).wf = false := by decide
theorem wf_step_failures : (Instr.timebaseStep { StepEnv.quiet with badCores := [25600] }).wf = false ∧ (Instr.timebaseStep { StepEnv.quiet with badRouters := [200] }).wf = false := by decide
theorem wf_step_fec : (Instr.timebaseStep { StepEnv.quiet with fec := [(20, 0, 0)] }).wf = false := by decide
theorem wf_step_reads : (Instr.timebaseStep { StepEnv.quiet with barReads := [(64, 0, 4)] }).wf = false := by decide
theorem wf_step_config : (Instr.timebaseStep { StepEnv.quiet with cfgWrites := [.d3hot 64] }).wf = false ∧ (Instr.timebaseStep { StepEnv.quiet with cfgWrites := [.maxPayload 3] }).wf = false ∧
    (Instr.timebaseStep { StepEnv.quiet with cfgWrites := [.maxRead 6] }).wf = false := by decide
theorem wf_step_more : (Instr.timebaseStep { StepEnv.quiet with fwFree := [(6, false, 0)] }).wf = false ∧ (Instr.timebaseStep { StepEnv.quiet with cfgWrites := [.numVfs 64] }).wf = false ∧
    (Instr.timebaseStep { StepEnv.quiet with cfgReads := [(64, .cap .maxPayload)] }).wf = false := by decide
theorem wf_step_access : (Instr.timebaseStep { StepEnv.quiet with accesses := [⟨.block 3, 2 ^ 43, 8, false, false⟩] }).wf = false ∧ (Instr.timebaseStep { StepEnv.quiet with accesses := [⟨.block 3, 2 ^ 44, 8, false, false⟩] }).wf = true := by decide
theorem wf_step_core : (Instr.timebaseStep { StepEnv.quiet with busyCores := [25600] }).wf = false := by decide
theorem wf_step_context : (Instr.timebaseStep { StepEnv.quiet with tableBusy := [64] }).wf = false := by decide
theorem wf_thermal : (Instr.thermalControl ⟨[0, 0, 0], 0, List.replicate 12 0, List.replicate 20 0, 0, [0, 0, 0, 0], 0, [true, true, true, true], [[], [], [], []]⟩).wf = false := by decide
theorem wf_thermal_acks : (Instr.thermalControl ⟨[0, 0, 0, 0], 0, List.replicate 12 0, List.replicate 20 0, 0, [0, 0, 0, 0], 0, [true, true, true], [[], [], [], []]⟩).wf = false := by decide
theorem wf_alert : (Instr.vrAlert [0, 0, 0]).wf = false := by decide
theorem wf_credit : (Instr.linkCredit 0 0 0).wf = false ∧ (Instr.linkCredit 0 0 1).wf = true ∧ (Instr.linkCredit 0 1 0).wf = true ∧ (Instr.linkCredit 0 1 4).wf = false := by decide
/-! ### Scalar instructions -/

theorem witness_executes : (withRegs []).executes 0 = true := by decide
theorem witness_jalr_aligned : (((withRegs [(1, 8)]).core 0).sreg 1).toNat % 4 = 0 ∧ ((withRegs [(1, 9)]).core 0).sreg 1 ≠ 0 ∧ ((withRegs [(1, 9)]).core 0).sreg 1 ≠ 1 := by decide
theorem witness_scalar_access : (withRegs [(1, 0x8000000000000008)]).executes 0 = true ∧
    scalarPhys 0 (((withRegs [(1, 0x8000000000000008)]).core 0).sreg 1 + BitVec.signExtend 64 (0 : Imm)).toNat 8 = some (2 ^ 43 + 8) ∧ (withRegs []).clean (2 ^ 43 + 8) 8 = true := by decide
/-- The last doubleword of the scratchpad window, and the first address past it. -/
theorem witness_scalar_edges : scalarPhys 0 0x800000000000FFF8 8 = some (2 ^ 43 + 0xFFF8) ∧ scalarPhys 0 0x8000000000010000 8 = none ∧ scalarPhys 0 0x8000000000000004 8 = none := by decide

theorem test_add_wraps : leads (exec (.add 0 3 1 2) (withRegs [(1, 0xFFFFFFFFFFFFFFFF), (2, 2)])) (fun t => (t.core 0).sreg 3 == 1 && (t.core 0).pc == 0x8000000000000004) = true := by decide
theorem test_add_s0 : leads (exec (.add 0 0 1 2) (withRegs [(1, 5), (2, 2)])) (fun t => (t.core 0).sreg 0 == 0) = true := by decide
theorem test_mulhu : leads (exec (.mulhu 0 3 1 2) (withRegs [(1, 0xFFFFFFFFFFFFFFFF), (2, 0xFFFFFFFFFFFFFFFF)])) (fun t => (t.core 0).sreg 3 == 0xFFFFFFFFFFFFFFFE) = true := by decide
theorem test_sra : leads (exec (.sra 0 3 1 2) (withRegs [(1, 0x8000000000000000), (2, 63)])) (fun t => (t.core 0).sreg 3 == 0xFFFFFFFFFFFFFFFF) = true := by decide
theorem test_divu_by_zero : leads (exec (.divu 0 3 1 2) (withRegs [(1, 9)])) (fun t => (t.core 0).sreg 3 == 0xFFFFFFFFFFFFFFFF) = true := by decide
theorem test_remu_by_zero : leads (exec (.remu 0 3 1 2) (withRegs [(1, 9)])) (fun t => (t.core 0).sreg 3 == 9) = true := by decide
theorem test_min_signed : leads (exec (.min 0 3 1 2) (withRegs [(1, 0xFFFFFFFFFFFFFFFF), (2, 2)])) (fun t => (t.core 0).sreg 3 == 0xFFFFFFFFFFFFFFFF) = true := by decide
theorem test_addi_negative : leads (exec (.addi 0 3 1 0xFFFF) (withRegs [(1, 5)])) (fun t => (t.core 0).sreg 3 == 4) = true := by decide
theorem test_andi_zero_extends : leads (exec (.andi 0 3 1 0xFFFF) (withRegs [(1, 0xFFFFFFFFFFFFFFFF)])) (fun t => (t.core 0).sreg 3 == 0xFFFF) = true := by decide
theorem test_shori : leads (exec (.shori 0 3 0 0x8001) (withRegs [(3, 0x12)])) (fun t => (t.core 0).sreg 3 == 0x128001) = true := by decide
theorem test_cmp_unsigned : leads (exec (.cmp 0 1 4 1 2 0) (withRegs [(1, 1), (2, 0xFFFFFFFFFFFFFFFF)])) (fun t => (t.core 0).pred 1) = true := by decide
theorem test_tstb : leads (exec (.tstb 0 2 1 32 0) (withRegs [(1, 0x100000000)])) (fun t => (t.core 0).pred 2) = true := by decide
theorem test_br_backward : leads (exec (.br 0 0 false (-1)) (withRegs [])) (fun t => (t.core 0).pc == 0x7FFFFFFFFFFFFFFC) = true := by decide
theorem test_jal_links : leads (exec (.jal 0 6) (withRegs [])) (fun t => (t.core 0).sreg 31 == 0x8000000000000004 && (t.core 0).pc == 0x8000000000000018) = true := by decide
theorem test_dbnz_zero : leads (exec (.dbnz 0 1 5) (withRegs [])) (fun t => (t.core 0).sreg 1 == 0 && (t.core 0).pc == 0x8000000000000004) = true := by decide
theorem test_dbnz_last : leads (exec (.dbnz 0 1 5) (withRegs [(1, 1)])) (fun t => (t.core 0).sreg 1 == 0 && (t.core 0).pc == 0x8000000000000004) = true := by decide
theorem test_st_b : leads (exec (.stB 0 2 1 3) (withRegs [(1, 0x8000000000000100), (2, 0x1FE)])) (fun t => t.byteAt (2 ^ 43 + 0x103) == 0xFE && t.byteAt (2 ^ 43 + 0x104) == 0) = true := by decide
theorem test_ld_b_signed : leads (exec (.ldB 0 3 1 0) { withRegs [(1, 0x8000000001000000)] with mem := [(2 ^ 42, 0x80)] }) (fun t => (t.core 0).sreg 3 == 0xFFFFFFFFFFFFFF80) = true := by decide
theorem test_amo_cas_equal : leads (exec (.amoCas 0 3 1 2) { withRegs [(1, 0x8000000000000000), (2, 9), (3, 5)] with mem := [(2 ^ 43, 5)] })
    (fun t => t.readNat (2 ^ 43) 8 == 9 && (t.core 0).sreg 3 == 5) = true := by decide
theorem test_amo_cas_differs : leads (exec (.amoCas 0 3 1 2) { withRegs [(1, 0x8000000000000000), (2, 9), (3, 4)] with mem := [(2 ^ 43, 5)] })
    (fun t => t.readNat (2 ^ 43) 8 == 5 && (t.core 0).sreg 3 == 5) = true := by decide
theorem test_movi_rsvd_is_illegal : leads (exec (.movi 0 3 1 0) (withRegs [])) (fun t => ((t.ctx? 1).map (fun x => (x.phase, x.ending.map (fun e => (e.cls, e.reason, e.detail))))) == some (.ending, some (1, 0, 0))) = true := by decide
theorem test_load_outside_windows : leads (exec (.ldD 0 3 1 0) (withRegs [(1, 0x8000000000010000)])) (fun t => t.ctxPhase? 1 == some .ending) = true := by decide

/-! ### Waits, issue, summary words and system functions -/

theorem witness_wake : (withCore { runner with wait := .mx 3 }).canWake 0 = true := by decide
theorem witness_fence_quiet : ((withRegs []).core 0).dmaQ = [] ∧ ∀ e ∈ (withRegs []).memop.slots, e.2.kind ≠ 0x11 ∧ e.2.kind ≠ 0x12 := by decide
theorem witness_waitw : (withRegs [(1, 0x8000000000000008), (2, 1)]).executes 0 = true ∧ scalarPhys 0 (((withRegs [(1, 0x8000000000000008)]).core 0).sreg 1).toNat 8 = some (2 ^ 43 + 8) ∧
    (withRegs []).clean (2 ^ 43 + 8) 8 = true := by decide
theorem witness_waitw_timeout : (withCore { runner with
      waitLimit := 0
      wait := .word 1 0x8000000000000008 1 0 }).canWake 0 = true ∧ (0 : W64).toNat * 2 ^ 24 ≤ up.time.tb - 0 := by decide
theorem witness_issue : scalarPhys 0 (0x8000000000000040 : W64).toNat 64 = some (2 ^ 43 + 64) ∧ (withRegs []).clean (2 ^ 43 + 64) 64 = true ∧
    (withCore { runner with wait := .issue 1 0x8000000000000040 }).canWake 0 = true := by decide
theorem test_wait_mx_holds : leads (exec (.waitMx 0 0 0) (withCore { runner with matQ := [⟨[], false, 0, none⟩] })) (fun t => (t.core 0).wait == .mx 0 && (t.core 0).pc == 0x8000000000000000) = true := by decide
theorem test_wait_mx_passes : leads (exec (.waitMx 0 0 1) (withCore { runner with matQ := [⟨[], false, 0, none⟩] })) (fun t => (t.core 0).wait == .none && (t.core 0).pc == 0x8000000000000004) = true := by decide
theorem test_waitw_timeout : leads (exec (.waitwTimeout 0) (withCore { runner with
      waitLimit := 0
      preds := 2
      wait := .word 1 0x8000000000000008 1 0 })) (fun t => (t.core 0).pred 1 == false && (t.core 0).pc == 0x8000000000000004) = true := by decide
theorem test_issue_full : leads (exec (.issueMxi 0 1 0) (withCore { runner with
      sregs := [(1, 0x8000000000000040)]
      matQ := List.replicate 8 ⟨[], false, 0, none⟩ })) (fun t => (t.core 0).wait == .issue 0 0x8000000000000040) = true := by decide
theorem witness_sumr : (withCore { runner with summary := [5, 6] }).executes 0 = true ∧ (withCore { runner with vecQ := [.block (0x11 :: zeroBytes 63)] }).executes 0 = true := by decide
theorem test_sumr_pop : leads (exec (.sumrPop 0 7 0) (withCore { runner with summary := [5, 6] })) (fun t => (t.core 0).sreg 7 == 5 && (t.core 0).summary == [6]) = true := by decide
theorem test_sumr_or : leads (exec (.sumrOrMx 0 7 0) (withCore { runner with orMx := 3 })) (fun t => (t.core 0).sreg 7 == 3 && (t.core 0).orMx == 0) = true := by decide
theorem test_sumr_empty_is_illegal : leads (exec (.sumrPop 0 7 0) (withRegs [])) (fun t => t.ctxPhase? 1 == some .ending) = true := by decide
theorem test_csrw_vstat_clears : leads (exec (.csrw 0 1 false 6) (withCore { runner with
      vstat := 7
      sregs := [(1, 2)] })) (fun t => (t.core 0).vstat == 5) = true := by decide
theorem test_yield_goes_on : leads (exec (.yield 0 false) (withRegs [])) (fun t => (t.core 0).pc == 0x8000000000000004 && (t.core 0).run == .running) = true := by decide

/-! ### Vector instructions -/

/-- A vector instruction of the queue. -/
def vi (op : VOp) (ty : Ty) (vl : Nat) : VInstr := ⟨op, 2, 1, 0, 1, 0, 0, 0, ty, 0, 0x8000000000000000, true, vl, 0, 0⟩

/-- Core 0 with one vector instruction queued, v1 and m1 as given. -/
def withVec (v : VInstr) (v1 : BitVec 2048) (m1 : BitVec 1024) : State := withCore { runner with
  vecQ := [.instr v]
  vregs := if v1 = 0 then [] else [(1, v1)]
  masks := if m1 = 0 then [] else [(1, m1)] }

theorem witness_vector_enters : (withRegs []).executes 0 = true ∧ efmtOf (0x8 : Ty).toNat = some (.fp fmtBF16) ∧ efmtOf (0x3 : Ty).toNat = some (.int 8) ∧
    (∀ f g, efmtOf (0x8 : Ty).toNat = some f → efmtOf (0xB : Ty).toNat = some g → 1 < max (efmtWidth f / efmtWidth g) (efmtWidth g / efmtWidth f)) := by
  refine ⟨by decide, by decide, by decide, ?_⟩
  intro f g hf hg
  cases hf
  cases hg
  decide
theorem witness_vector_waits : (withCore { runner with wait := .forward (vi .add 8 4) }).canWake 0 = true := by decide
theorem witness_element_operation : (withVec (vi .add 3 5) 1 2).enginesBegin 0 = true ∧ ((withVec (vi .add 3 5) 1 2).core 0).vecQ = [.instr (vi .add 3 5)] ∧ efmtOf (vi .add 3 5).ty.toNat = some (.int 8) := by decide
theorem witness_mask_push : (∀ r, ((withVec (vi .mpop 3 5) 1 2).core 0).wait ≠ .summary r) ∧ ((withVec (vi .mpop 3 5) 1 2).core 0).summary.length < 8 := by
  refine ⟨fun r h => ?_, by decide⟩
  cases h
theorem witness_reduction : (withVec (vi (.red 7) 8 5) 1 2).enginesBegin 0 = true ∧ efmtOf (vi (.red 7) 8 5).ty.toNat = some (.fp fmtBF16) ∧ (∀ r, ((withVec (vi (.red 7) 8 5) 1 2).core 0).wait ≠ .summary r) ∧
    ((withVec (vi (.red 7) 8 5) 1 2).core 0).summary.length < 8 := by
  refine ⟨by decide, by decide, fun r h => ?_, by decide⟩
  cases h
theorem witness_full_summary : (VItem.instr (vi (.red 0) 8 5)).pushes = true ∧ 8 ≤ (List.replicate 8 (0 : W64)).length := by decide
theorem witness_vector_memory : (8 : Nat) ≤ efmtWidth (.fp fmtBF16) ∧ (vi .ld 8 128).packed = true ∧ (vi .ld 8 128).base.toNat + 128 * 2 ≤ 2 ^ 64 ∧
    localPhys 0 (vi .ld 8 128).base.toNat (128 * 2) = some (2 ^ 43) ∧ (withVec (vi .ld 8 128) 1 2).clean (2 ^ 43) 256 = true ∧ localPhys 0 (vi .ldm 8 1024).base.toNat ((1024 + 7) / 8) = some (2 ^ 43) := by decide
theorem witness_tree : (List.replicate (2 ^ 1) 0 : List Nat).length = 2 ^ 1 := by decide

/-- The spec's reduction example: 256, 1, (7), 1, -256 in BF16 with element 2 masked sum to +0, COUNT 4 (spec/04, after R123). -/
theorem test_vredsum_example : leads (exec (.vectorInstructionComplete 0) (withVec (vi (.red 0) 8 5) 0xC3803F8040E03F804380 0x1B))
    (fun t => (t.core 0).summary == [0x0004080000000000] && ((t.core 0).vreg 2).toNat % 65536 == 0) = true := by decide +kernel
/-- Its word with an empty mask. -/
theorem test_vredsum_empty : leads (exec (.vectorInstructionComplete 0) (withVec (vi (.red 0) 8 5) 0xC3803F8040E03F804380 0)) (fun t => (t.core 0).summary == [0x0000080100000000]) = true := by decide +kernel
theorem test_int8_saturates : leads (exec (.vectorInstructionComplete 0) (withCore { runner with
      vecQ := [.instr { vi .add 3 2 with vs2 := 1, mask := 0 }]
      vregs := [(1, 0x8064)] })) (fun t => ((t.core 0).vreg 2).toNat == 0x807F && (t.core 0).vstat == 1) = true := by decide +kernel
theorem test_tail_is_kept : leads (exec (.vectorInstructionComplete 0) (withCore { runner with
      vecQ := [.instr { vi .mov 3 1 with mask := 0 }]
      vregs := [(1, 0x0102), (2, 0xFFFF)] })) (fun t => ((t.core 0).vreg 2).toNat == 0xFF02) = true := by decide +kernel
theorem test_mandn : leads (exec (.vectorInstructionComplete 0) (withCore { runner with
      vecQ := [.instr { vi .mandn 0 1 with ma := 1, mb := 2, md := 3 }]
      masks := [(1, 6), (2, 2)] })) (fun t => (t.core 0).mreg 3 == 4) = true := by decide +kernel
theorem test_mpop : leads (exec (.vectorInstructionComplete 0) (withCore { runner with
      vecQ := [.instr { vi .mpop 0 3 with ma := 1 }]
      masks := [(1, 0xE)] })) (fun t => ((t.core 0).summary.map (fun w => w.toNat % 2 ^ 32)) == [2]) = true := by decide +kernel
theorem test_setvl : leads (exec (.setvl 0 6 5 0 8) (withRegs [(5, 500)])) (fun t => (t.core 0).vl == 128 && (t.core 0).sreg 6 == 128) = true := by decide
theorem test_vadd_reserved_type : leads (exec (.vadd 0 1 2 3 0 0) (withRegs [])) (fun t => t.ctxPhase? 1 == some .ending) = true := by decide
theorem test_vst_bytes : leads (exec (.vectorInstructionComplete 0) (withCore { runner with
      vecQ := [.instr { vi .st 8 2 with vd := 1, mask := 0 }]
      vregs := [(1, 0x3F804380)] })) (fun t => t.readNat (2 ^ 43) 4 == 0x3F804380 && t.readNat (2 ^ 43 + 4) 4 == 0) = true := by decide +kernel

/-! ### Vector block commands -/

/-- Core 0 with one block command queued. -/
def withBlock (b : List Byte) : State := withCore { runner with vecQ := [.block b] }
/-- VX.QUANT of one row of two BF16 elements to INT8 without a scale; VX.ACOMB of one head of two elements from the partial of stack 0; VX.TOPF of one row of 16 neurons. -/
def quantBlk : List Byte := blk 64 [(0, 1, 0x11), (1, 1, 3), (2, 1, 8), (4, 2, 1), (8, 4, 2), (0x18, 8, 0x8000000000000100), (0x20, 8, 0x8000000000000200), (0x28, 8, 0x8000000000000280), (0x30, 8, 0x8000000000000300)]
def acombBlk : List Byte := blk 64 [(0, 1, 0x12), (2, 2, 1), (4, 2, 1), (6, 2, 2), (0x10, 8, 0x8000000000000100), (0x18, 8, 0x8000000000000200), (0x24, 1, 8)]
def topfBlk : List Byte := blk 64 [(0, 1, 0x13), (4, 4, 16), (8, 4, 0x3F800000), (0x0C, 2, 1), (0x10, 8, 0x8000000000000100), (0x20, 8, 0x8000000000000200)]

theorem witness_block_queued : (withBlock quantBlk).enginesBegin 0 = true ∧ ((withBlock quantBlk).core 0).vecQ = [.block quantBlk] := by decide +kernel
theorem witness_quant : quantLegal 0 quantBlk = true ∧ (quantCmd quantBlk).rows = 1 ∧ (quantCmd quantBlk).cols ≤ schemeLen (quantCmd quantBlk).scheme ∧ (quantCmd quantBlk).amaxEn = false ∧
    (quantCmd quantBlk).cols * (quantCmd quantBlk).outWidth % 8 = 0 ∧ localPhys 0 (quantCmd quantBlk).inPtr 4 = some (2 ^ 43 + 0x100) ∧ localPhys 0 (quantCmd quantBlk).outPtr 2 = some (2 ^ 43 + 0x200) ∧
    localPhys 0 (quantCmd quantBlk).scalePtr 0 = some (2 ^ 43 + 0x280) ∧ schemeBytes (quantCmd quantBlk).scheme = 0 ∧ (withBlock quantBlk).clean (2 ^ 43 + 0x100) 4 = true ∧
    efmtOf (quantCmd quantBlk).inFmt = some (.fp fmtBF16) := by decide +kernel
theorem witness_acomb : acombLegal 0 acombBlk = true ∧ (acombCmd acombBlk).heads = 1 ∧ (acombCmd acombBlk).writeMl = false ∧ (acombCmd acombBlk).empty = 0 ∧
    localPhys 0 (acombCmd acombBlk).out 4 = some (2 ^ 43 + 0x200) ∧ (acombCmd acombBlk).stackTemps = [0] ∧ localPhys 0 ((acombCmd acombBlk).partAddr 0 0) 24 = some (2 ^ 43 + 0x100) ∧
    efmtOf (acombCmd acombBlk).outFmt = some (.fp fmtBF16) := by decide +kernel
theorem witness_topf : topfLegal 0 topfBlk = true ∧ localPhys 0 (fieldN topfBlk 0x20 8) 2 = some (2 ^ 43 + 0x200) ∧ localPhys 0 (fieldN topfBlk 0x10 8) 64 = some (2 ^ 43 + 0x100) := by decide +kernel
theorem witness_illegal_blocks : quantLegal 0 (putField quantBlk 4 2 0) = false ∧ acombLegal 0 (putField acombBlk 4 2 0) = false ∧ topfLegal 0 (putField topfBlk 4 4 0) = false := by decide +kernel
theorem test_reserved_block_opcode : leads (exec (.vxQuant 0) (withBlock (blk 64 [(0, 1, 0x7F)]))) (fun t => ((t.ctx? 1).map (fun x => x.ending.map (fun e => (e.cls, e.detail)))) == some (some (2, 0x7F))) = true := by decide +kernel
/-- 1.0 and -3.0 in BF16 become the INT8 codes 1 and -3. -/
theorem test_quant_int8 : leads (exec (.vxQuant 0) { withBlock quantBlk with mem := [(2 ^ 43 + 0x100, 0x80), (2 ^ 43 + 0x101, 0x3F), (2 ^ 43 + 0x102, 0x40), (2 ^ 43 + 0x103, 0xC0)] })
    (fun t => t.readNat (2 ^ 43 + 0x200) 2 == 0xFD01) = true := by decide +kernel
/-- With no partial present the row is zero and the summary word says EMPTY. -/
theorem test_acomb_empty : leads (exec (.vxAcomb 0) (withBlock (putField acombBlk 2 2 0))) (fun t => t.readNat (2 ^ 43 + 0x200) 4 == 0 && ((t.core 0).vecQ.map VItem.pushes) == [true]) = true := by decide +kernel

/-! ### The matrix engine -/

/-- Core 0 with one matrix command queued. -/
def withMx (b : List Byte) : State := withCore { runner with matQ := [⟨b, false, 0, none⟩] }
def clearBlk : List Byte := blk 64 [(0, 1, 4), (1, 1, 0xF)]
def addBlk : List Byte := blk 64 [(0, 1, 6), (1, 1, 4), (4, 2, 16), (8, 4, 128), (0x18, 8, 0x8000000000000000)]
def readBlk : List Byte := blk 64 [(0, 1, 3), (2, 1, 8), (4, 2, 1), (6, 2, 0xFFFF), (0x0C, 4, 0x3F800000), (0x10, 4, 0x3F800000), (0x18, 8, 0x8000000000000100)]
def passBlk : List Byte := blk 64 [(0, 1, 1), (1, 1, 0x34), (2, 1, 0x88), (4, 2, 1), (6, 2, 1), (0x0C, 4, 64), (0x10, 8, 0x8000000000000100)]
def groupBlk : List Byte := blk 64 [(0, 1, 2), (4, 2, 1), (8, 2, 1), (0x10, 8, 0x8000000000000100), (0x20, 4, 0)]
def entryBlk : List Byte := blk 96 [(0, 4, 1), (4, 4, 1), (8, 4, 1), (0x0C, 4, 0x888), (0x10, 8, 0x8000000000001000), (0x20, 8, 0x8000000000002000), (0x28, 8, 0x8000000000003000)]
def mergeBlk : List Byte := putField groupBlk 1 1 2
def splitEntry : List Byte := blk 96 [(0, 4, 1), (4, 4, 1), (8, 4, 17), (0x0C, 4, 0x40888), (0x10, 8, 0x8000000000001000), (0x20, 8, 0x8000000000002000), (0x28, 8, 0x8000000000003000), (0x38, 8, 0x8000000000004000), (0x50, 4, 256)]
def weights8 : WeightSet := { WeightSet.none with loaded := true, wfmt := 8, cells := zeroBytes 512 }

theorem witness_matrix_queued : (withMx clearBlk).enginesBegin 0 = true ∧ ((withMx clearBlk).core 0).matQ = [⟨clearBlk, false, 0, none⟩] ∧ fieldN clearBlk 1 1 < 16 ∧ fieldZero clearBlk 2 62 = true := by decide +kernel
theorem witness_addacc : fieldN addBlk 1 1 < 8 ∧ fieldZero addBlk 2 2 = true ∧ fieldZero addBlk 6 2 = true ∧ fieldZero addBlk 0x0C 12 = true ∧ fieldZero addBlk 0x20 32 = true ∧ fieldN addBlk 4 2 = 16 ∧
    ∀ i < 16, localPhys 0 (fieldN addBlk 0x18 8 + i * fieldN addBlk 8 4) 128 = some (2 ^ 43 + 128 * i) ∧ (withMx addBlk).clean (2 ^ 43 + 128 * i) 128 = true := by decide +kernel
theorem witness_loadacc : fieldN (putField addBlk 1 1 3) 1 1 < 4 := by decide +kernel
theorem witness_read : fieldN readBlk 1 1 < 16 ∧ fieldN readBlk 2 1 < 16 ∧ fieldN readBlk 3 1 < 8 ∧ fieldN readBlk 3 1 % 4 + 1 ≤ 2 ∧ fieldN readBlk 4 2 = 1 ∧ fieldN readBlk 0x20 8 < 2 ^ 48 ∧
    fieldZero readBlk 0x3A 6 = true ∧ fieldN readBlk 0x30 8 = 0 ∧ localPhys 0 (fieldN readBlk 0x18 8) (outSize 0 * 16) = some (2 ^ 43 + 0x100) := by decide +kernel
theorem witness_pass : fieldN passBlk 1 1 < 64 ∧ bitN (fieldN passBlk 1 1) 4 = true ∧ fieldN passBlk 3 1 = 0 ∧ fieldZero passBlk 0x28 24 = true ∧ pairLegal 8 8 0 = true ∧ fieldZero passBlk 8 4 = true ∧
    1 ≤ kPass 8 ∧ weights8.loaded = true ∧ weights8.wfmt = 8 ∧ weights8.scheme = 0 ∧ efmtOf (fieldN passBlk 2 1 / 16) = some (.fp fmtBF16) ∧
    localPhys 0 (fieldN passBlk 0x10 8) 2 = some (2 ^ 43 + 0x100) := by decide +kernel
theorem witness_group : fieldZero groupBlk 2 2 = true ∧ fieldN groupBlk 4 2 = 1 ∧ fieldN groupBlk 6 2 = 0 ∧ fieldN groupBlk 8 2 = 1 ∧ fieldZero groupBlk 0x0A 2 = true ∧ fieldZero groupBlk 0x0C 4 = true ∧
    fieldN groupBlk 0x10 8 % 32 = 0 ∧ fieldZero groupBlk 0x24 4 = true ∧ fieldZero groupBlk 0x28 8 = true ∧ fieldZero groupBlk 0x30 16 = true ∧ localPhys 0 (fieldN groupBlk 0x10 8) 96 = some (2 ^ 43 + 0x100) ∧
    groupLegal 0 entryBlk = true ∧ (groupEntry 0 entryBlk).m = 1 ∧ (groupEntry 0 entryBlk).k = 1 ∧ (groupEntry 0 entryBlk).wfmt = 8 ∧ (groupEntry 0 entryBlk).afmt = 8 ∧ (groupEntry 0 entryBlk).scheme = 0 ∧
    (groupEntry 0 entryBlk).outfmt = 0 ∧ (groupEntry 0 entryBlk).ieee = true ∧ (groupEntry 0 entryBlk).split = false ∧ localPhys 0 (groupEntry 0 entryBlk).c 4 = some (2 ^ 43 + 0x3000) ∧
    localPhys 0 (groupEntry 0 entryBlk).a 2 = some (2 ^ 43 + 0x1000) ∧ localPhys 0 (groupEntry 0 entryBlk).wdir 64 = some (2 ^ 43 + 0x2000) := by decide +kernel
theorem witness_merge : groupLegal 0 splitEntry = true ∧ (groupEntry 0 splitEntry).split = true ∧ (groupEntry 0 splitEntry).splitNnz = 256 ∧ (groupEntry 0 splitEntry).ieee = true ∧
    (groupEntry 0 splitEntry).k = 17 ∧ localPhys 0 (groupEntry 0 splitEntry).wdir 128 = some (2 ^ 43 + 0x2000) ∧ localPhys 0 (groupEntry 0 splitEntry).seg 16384 = some (2 ^ 43 + 0x4000) := by decide +kernel
theorem test_mx_clear : leads (exec (.mxClear 0) (withCore { runner with
      matQ := [⟨clearBlk, false, 0, none⟩]
      acc := [(0, ⟨1, 0, false⟩)]
      accStatus := [(0, 1)] })) (fun t => (t.core 0).acc == [] && (t.core 0).accStatus == []) = true := by decide +kernel
/-- BF16 2.0 times 3.0 with CLEAR: pair (0, 0) is 6.0. -/
theorem test_mx_pass : leads (exec (.mxPass 0) { withCore { runner with
      matQ := [⟨passBlk, false, 0, none⟩]
      weights := { weights8 with cells := [0x40, 0x40] ++ zeroBytes 510 } } with mem := [(2 ^ 43 + 0x101, 0x40)] }) (fun t => ((t.core 0).pair 0 0 0) == ⟨0x40C00000, 0, false⟩) = true := by decide +kernel
theorem test_mx_complete : leads (exec (.mxCommandComplete 0) (withCore { runner with
      matQ := [⟨clearBlk, true, 4, none⟩]
      orMx := 1 })) (fun t => (t.core 0).matQ == [] && (t.core 0).lastMx == 4 && (t.core 0).orMx == 5) = true := by decide +kernel

/-! ### DMA -/

/-- Core 0 with one DMA command queued. -/
def withDma (b : List Byte) : State := withCore { runner with dmaQ := [⟨b, false, 0, []⟩] }
def copyBlk : List Byte := blk 64 [(0, 1, 0x21), (4, 4, 2048), (8, 8, 0x8000000000000000), (0x10, 8, 0x8000000001000000)]
def fillBlk : List Byte := blk 64 [(0, 1, 0x23), (4, 4, 3), (8, 8, 0x0807060504030201), (0x10, 8, 0x8000000000000006)]
def casBlk : List Byte := blk 64 [(0, 1, 0x22), (1, 1, 0x0E), (8, 8, 9), (0x10, 8, 0x8000000000000000), (0x18, 8, 0x8000000000000100), (0x20, 8, 5)]
/-- The same command with its one request sent. -/
def withSent (b : List Byte) (n : Nat) (m : Tab Byte) : State := { withCore { runner with dmaQ := [⟨b, true, n, [⟨0, 0, n, .sent, true⟩]⟩] } with mem := m }

theorem witness_dma_begins : (withDma copyBlk).enginesBegin 0 = true ∧ (withDma copyBlk).outstanding 0 < 384 ∧ dmaFields 0 copyBlk = true ∧ (withDma copyBlk).dmaTargets copyBlk = true ∧ fieldN copyBlk 4 4 ≤ 2048 ∧
    (withDma copyBlk).side (fieldN copyBlk 8 8) = .here 0x8000000000000000 ∧ (withDma copyBlk).side (fieldN copyBlk 0x10 8) = .here 0x8000000001000000 ∧ pieceGrid (fieldN copyBlk 8 8) = none ∧
    pieceGrid (fieldN copyBlk 0x10 8) = none := by decide +kernel
theorem witness_fill_and_atomic_begin : dmaFields 0 fillBlk = true ∧ (withDma fillBlk).dmaTargets fillBlk = true ∧ dmaFields 0 casBlk = true ∧ (withDma casBlk).dmaTargets casBlk = true := by decide +kernel
theorem witness_copy_lands : (withSent copyBlk 2048 []).enginesRun 0 = true ∧ (withSent copyBlk 2048 []).coreCtx 0 = some 1 ∧ localPhys 0 (fieldN copyBlk 0x10 8) 2048 = some (2 ^ 42) ∧
    localPhys 0 (fieldN copyBlk 8 8) 2048 = some (2 ^ 43) ∧ (withSent copyBlk 2048 []).clean (2 ^ 43) 2048 = true := by decide +kernel
theorem witness_atomic_lands : localPhys 0 (fieldN casBlk 0x18 8) 8 = some (2 ^ 43 + 0x100) ∧ localPhys 0 (fieldN casBlk 0x10 8) 8 = some (2 ^ 43) ∧ (2 ^ 43 + 8 ≤ 2 ^ 43 + 0x100) ∧
    (withSent casBlk 1 []).clean (2 ^ 43) 8 = true ∧ fieldN casBlk 1 1 % 8 ≤ 6 := by decide +kernel
theorem test_fill_is_aligned : leads (exec (.dmaRequestComplete 0 0) (withSent fillBlk 3 [])) (fun t => t.readPhys (2 ^ 43 + 5) 5 == [0, 7, 8, 1, 0] && (t.core 0).dmaQ == []) = true := by decide +kernel
theorem test_atomic_cas : leads (exec (.dmaRequestComplete 0 0) (withSent casBlk 1 [(2 ^ 43, 5)])) (fun t => t.readNat (2 ^ 43) 8 == 9 && t.readNat (2 ^ 43 + 0x100) 8 == 5) = true := by decide +kernel
theorem test_copy_sends : leads (exec (.dmaCopy 0) (withDma copyBlk)) (fun t => (t.core 0).dmaQ == [⟨copyBlk, true, 2048, [⟨0, 0, 2048, .sent, true⟩]⟩]) = true := by decide +kernel

/-! ### Setup registers -/

theorem witness_register_write : up.barOpen 0 = true ∧ up.sec.boot = .running := by decide
/-- The ends of the ranges that the clauses name. -/
theorem witness_register_limits : (60 : Nat) < 128 ∧ (105 : Nat) < 128 ∧ (59 : Nat) < 128 ∧ (106 : Nat) < 128 ∧ (1 : Nat) < 2 ^ 16 ∧ (60000 : Nat) < 2 ^ 16 ∧ (60001 : Nat) < 2 ^ 16 ∧ (1000 : Nat) < 2 ^ 20 ∧
    (600000 : Nat) < 2 ^ 20 ∧ (3600000000000 : Nat) % 1000000 = 0 ∧ (65536 : Nat) < 2 ^ 17 ∧ (65537 : Nat) < 2 ^ 17 := by decide
theorem witness_ring_size : up.sqEnabled 0 0 = false ∧ 65536 = 2 ^ (6 + 10) ∧ 64 = 2 ^ (6 + 0) ∧ { up with regs := [(0x100, 0x101)] }.sqEnabled 0 0 = true := by decide
theorem witness_bad_access : up.readBar 0 (0x7000 / 8 * 8) = none ∧ (6 % 4 ≠ 0) := by decide
theorem witness_recovery : State.reset.sec.boot ≠ .running ∧ recoveryReg 0 (0x20 / 8 * 8) = false := by decide
theorem witness_recovery_open : { up with sec := { up.sec with boot := .recovery } }.barOpen 0 = true := by decide
theorem witness_clear : up.pf0Open = true ∧ up.tracked 0x80038 = some 32768 := by decide
theorem witness_ring_enable : up.reg 0x100 = 0 ∧ { up with regs := [(0x108, 0x1000)] }.reg 0x108 ≠ 0 := by decide
theorem witness_pool_write : up.vats.held = [] ∧ up.vats.waiting = [] ∧ (up.setRegN (poolReg 0 .low).1 (4095 &&& (poolReg 0 .low).2)).poolsLegal = true := by decide +kernel
theorem witness_ports : up.canTrain 0 = true ∧ up.fab.pos = none ∧ up.lcState ≠ 1 ∧ (up.port 0).phase = .disabled := by decide
theorem test_cap_limits : leads (exec (.registerWrite 0 0x30008 8 106) up) (fun t => t.reg 0x30008 == 95 && t.reg 0x20 == 0x8000000100030008) = true := by decide +kernel
theorem test_cap_stored : leads (exec (.registerWrite 0 0x30008 8 105) up) (fun t => t.reg 0x30008 == 105 && t.reg 0x20 == 0) = true := by decide +kernel
theorem test_misaligned_access_is_counted : leads (exec (.registerWrite 0 0x30009 8 70) up) (fun t => t.reg 0x28 == 1 && t.reg 0x30008 == 95) = true := by decide +kernel
theorem test_quota_limit : leads (exec (.vatQuotaWrite 1 0 0 1048577) up) (fun t => t.reg 0x41080 == 0 && t.reg 0x20 == 0x8000000100041080) = true := by decide +kernel

/-! ### A context with memory, a function and a ring -/

/-- A map entry: the first 64 frames of stack 0, all permissions. -/
def mapAll : BitVec 128 := BitVec.ofNat 128 (64 * 2 ^ 64 + 0x1F * 2 ^ 88)
def ctxM : CtxState := { ctxA with map := [(0, mapAll)] }

/-- Context and function 1, its ring 0 enabled with 64 slots at 0x100000, no wipe running. -/
def host : State := { up with
  clusters := [(0, { ClusterState.reset with owner := some (1, 0) })]
  ten := { up.ten with ctxs := [(1, ctxM)] }
  press := { up.press with wiping := [], ready := true }
  host := { up.host with numVfs := 7, vfEnable := true }
  regs := [(0x41010, 16), (0x41018, 100), (0x41028, 16), (0x2000100, 0x101), (0x2000210, 0x100000)] }

/-- The same with a descriptor at the head of the ring. -/
def withDesc (b : List Byte) : State := { host with host := { host.host with rings := [(8, { RingState.reset with tail := 1, readTo := 1, fetched := [(0, b)] })] } }

theorem witness_head : (withDesc (blk 64 [(0, 1, 1)])).headDesc 1 0 = some (blk 64 [(0, 1, 1)]) ∧ (withDesc []).canRecord 1 0 = true ∧ (withDesc []).sound = true := by decide +kernel
theorem test_nop_completes : leads (exec (.nop 1 0) (withDesc (blk 64 [(0, 1, 1), (4, 4, 77)]))) (fun t => (t.ring 1 0).head == 1 && (t.ring 1 0).cqTail == 1) = true := by decide +kernel

/-! ### The Presses -/

/-- One command queued at Press 0. -/
def withPress (b : List Byte) (ran : Bool) : State := { host with press := { host.press with queues := [(0, [⟨1, b, ran⟩])] } }
def attnBlk : List Byte := blk 128 [(0, 1, 0x31), (3, 1, 1), (6, 1, 1), (8, 2, 16), (0x0C, 4, 1), (0x28, 4, 0), (0x2C, 4, 80), (0x30, 8, 0x20000), (0x38, 8, 0x10000), (0x40, 8, 0x30000)]
def packBlk : List Byte := blk 64 [(0, 1, 0x32), (1, 1, 8), (4, 4, 1), (8, 8, 0x10000), (0x10, 8, 0x30000), (0x18, 8, 0x40000), (0x20, 8, 4096), (0x28, 8, 0x50000)]

theorem witness_attention : (withPress attnBlk false).sound = true ∧ (withPress attnBlk false).ctx? 1 = some ctxM ∧ attnFields attnBlk = true ∧ (withPress attnBlk false).pressQueue 0 = [⟨1, attnBlk, false⟩] ∧
    (withPress attnBlk false).packageAccess 1 0x20000 16 false = .pieces [(0x20000, 0x20000, 16)] ∧ (withPress attnBlk false).packageAccess 1 0x10000 80 true = .pieces [(0x10000, 0x10000, 80)] ∧
    (attnCmd attnBlk).masked = false := by decide +kernel
theorem witness_attention_done : (withPress attnBlk true).packageAccess 1 (attnCmd attnBlk).done 8 true = .pieces [(0x30000, 0x30000, 8)] := by decide +kernel
theorem witness_scrub : memWf up.mem = true ∧ up.sound = true ∧ 32 * (3 * 2 ^ 30 - 1) < 3 * 2 ^ 35 := by decide +kernel
/-- A remap of frame 5 to frame 6 of stack 0 whose copy runs. -/
def remapping : State := { host with press := { host.press with remaps := [(0, [⟨5, some 6, false⟩])] } }
theorem witness_remap : (remapping.remapsOf 0).find? (fun r => r.repl.isSome && !r.ready) = some ⟨5, some 6, false⟩ ∧ (6 : Nat) < 1572864 := by decide +kernel
theorem witness_tile : (tileCmd packBlk).op = 0x32 ∧ (tileCmd packBlk).count = 1 ∧ (withPress packBlk false).inStack 0 0x40000 1 = true ∧
    (withPress packBlk false).ownStack 0 1 0x10000 64 false = some [(0x10000, 0x10000, 64)] ∧ (withPress packBlk false).ownStack 0 1 0 512 false = some [(0, 0, 512)] ∧
    (withPress packBlk false).ownStack 0 1 0x30000 64 true = some [(0x30000, 0x30000, 64)] ∧ (withPress packBlk false).packageAccess 1 0x50000 16 true = .pieces [(0x50000, 0x50000, 16)] := by decide +kernel
/-- The output of that tile starts where OUT_DATA says and has a flat place of its own. -/
theorem witness_tile_out : let out := (packTile true 8 0 (zeroBytes 512)).1
    (withPress packBlk false).ownStack 0 1 0x40000 out.length true = some [(0x40000, 0x40000, out.length)] ∧ out.length ≤ 4096 ∧
    ∀ i ∈ [(0x10000, 64), (0, 512)], ∀ o ∈ [(0x40000, out.length), (0x30000, 64)], i.1 + i.2 ≤ o.1 ∨ o.1 + o.2 ≤ i.1 := by decide +kernel
theorem test_attention_done : leads (exec (.attentionDone 0) { withPress attnBlk true with mem := [(0x30000, 0xFF)] }) (fun t => t.readNat 0x30000 8 == 0x100 && t.pressQueue 0 == []) = true := by decide +kernel
theorem test_scrub_poisons : leads (exec (.patrolScrub 0 7 .uncorrectable) host) (fun t => t.dramPoison == [7] && t.reg 0x90280 == 1) = true := by decide +kernel


/-! ### Sequences -/

/-- Slot 3 of context 1 with some state, one page at ledger entry 9. -/
def slotV (st : Nat) : Slot := { Slot.free with
  st := st
  ctx := 1
  maxLen := 100
  length := 16
  chain := [9]
  placeDiv := 1
  tp := 16
  advance := 16
  group := 1
  admitSeq := 1 }
def withSlot (v : Slot) (b : List Byte) : State := { withDesc b with seq := { up.seq with slots := tabSet Slot.free [] 3 v } }
def admitBlk : List Byte := blk 64 [(0, 1, 0x40), (8, 2, 3), (0x0C, 2, 16), (0x0E, 2, 1), (0x10, 2, 16), (0x12, 2, 1), (0x14, 4, 20), (0x18, 4, 100)]
def resumeBlk : List Byte := blk 64 [(0, 1, 0x40), (1, 1, 1), (8, 2, 3)]
def retireBlk : List Byte := blk 64 [(0, 1, 0x41), (8, 2, 3)]
def modifyBlk : List Byte := blk 64 [(0, 1, 0x42), (1, 1, 2), (8, 2, 3)]
def stepBlk : List Byte := blk 64 [(0, 1, 0x43), (2, 2, 8), (8, 4, 5), (0x0C, 2, 1), (0x10, 8, 0x8000000000000000), (0x18, 8, 0x10000)]

theorem witness_admit : (withDesc admitBlk).slotIn 1 3 = true ∧ admitFields admitBlk = true ∧ (withDesc admitBlk).slot 3 = Slot.free := by decide +kernel
theorem witness_slot_range : (withDesc admitBlk).slotIn 1 15 = true ∧ (withDesc admitBlk).slotIn 1 16 = false ∧ (withDesc admitBlk).slotIn 1 0 = true := by decide +kernel
theorem witness_resume : resumeFields resumeBlk = true ∧ ((withSlot (slotV 3) resumeBlk).slot 3).st = 3 ∧ ((withSlot (slotV 3) resumeBlk).slot 3).inQueue = false := by decide +kernel
theorem witness_resume_released : ((withSlot { slotV 3 with released := true, chain := [], length := 0 } resumeBlk).slot 3).released = true ∧ 0 ≤ (slotV 3).maxLen := by decide +kernel
theorem witness_retire_queued : (withSlot (slotV 1) retireBlk).headDesc 1 0 = some retireBlk ∧ ((withSlot (slotV 1) retireBlk).slot 3).st = 1 := by decide +kernel
theorem witness_retire_running : ((withSlot (slotV 2) retireBlk).slot 3).st = 2 ∧ (slotV 2).leave = false ∧ fieldZero retireBlk 1 3 = true ∧ fieldZero retireBlk 0x0A 54 = true := by decide +kernel
theorem witness_modify : (withSlot (slotV 2) modifyBlk).headDesc 1 0 = some modifyBlk ∧ fieldN modifyBlk 1 1 < 128 ∧ fieldZero modifyBlk 2 2 = true ∧ fieldZero modifyBlk 0x0F 49 = true := by decide +kernel
theorem witness_step : (withDesc stepBlk).headDesc 1 0 = some stepBlk ∧ (withDesc stepBlk).stepFields 1 stepBlk = true ∧ (withDesc stepBlk).seq.boundary ≠ some 1 := by decide +kernel
theorem test_retire_a_queued_slot : leads (exec (.seqRetire 1 0) (withSlot (slotV 1) retireBlk)) (fun t => t.slot 3 == Slot.free && (t.ring 1 0).cqTail == 1) = true := by decide +kernel
theorem test_admit_a_running_slot_is_busy : leads (exec (.seqAdmit 1 0) (withSlot (slotV 2) admitBlk)) (fun t => t.slot 3 == slotV 2 && (t.ring 1 0).cqTail == 1) = true := by decide +kernel

/-- A step of context 1 is due. -/
def stepReq : StepReq := ⟨⟨1, 0, 0x43, 0⟩, stepBlk, 0⟩
def due (v : Slot) : State := { host with
  seq := { up.seq with slots := tabSet Slot.free [] 3 v, ctxs := [(1, { SeqCtx.reset with steps := [stepReq] })] } }

theorem witness_boundary : tabWf Slot.free (due (slotV 2)).seq.slots = true ∧ (due (slotV 2)).press.free.length = 12 ∧ (due (slotV 2)).due 1 = true ∧ (due (slotV 2)).pressesQuiet 1 = true ∧
    (∀ k < 64, k ≠ 1 → (due (slotV 2)).due k = true → (due (slotV 2)).stepOrder 1 < (due (slotV 2)).stepOrder k) ∧ fieldN stepBlk 0x28 8 = 0 ∧
    (due (slotV 2)).running 1 = [3] ∧ (due (slotV 2)).packageAccess 1 0x10000 16 true = .pieces [(0x10000, 0x10000, 16)] := by decide +kernel
theorem witness_boundary_passes : (slotV 2).maxLen < ({ slotV 2 with length := 96 }).length + (slotV 2).advance ∧ ¬(slotV 2).maxLen < ({ slotV 2 with length := 84 }).length + (slotV 2).advance := by decide
theorem test_boundary_grows : leads (exec (.stepBoundary 1) { due { slotV 2 with advance := 0 } with mem := [(0x10008, 9)] })
    (fun t => t.seq.batch == 1 && (t.slot 3).st == 2 && t.readNat 0x10000 2 == 3 && t.readNat 0x10008 4 == 16 && t.readNat 0x1000C 4 == 16) = true := by decide +kernel
theorem test_boundary_ends_a_full_sequence : leads (exec (.stepBoundary 1) (due { slotV 2 with length := 96 })) (fun t => t.seq.batch == 0 && (t.slot 3).st == 4) = true := by decide +kernel

/-- A boundary of context 1 is to end. -/
def ending (v : Slot) (b : List Byte) : State := { host with
  seq := { up.seq with slots := tabSet Slot.free [] 3 v, boundary := some 1, batch := 1, ctxs := [(1, { SeqCtx.reset with inStep := some { stepReq with bytes := b } })] } }

theorem witness_boundary_end : (ending (slotV 4) stepBlk).seq.boundary = some 1 ∧ (ending (slotV 4) stepBlk).ctx? 1 = some ctxM ∧ ctxM.phase = .active ∧ ctxM.clusters.Nodup ∧
    (ending (slotV 4) stepBlk).press.failed = none ∧ (ending (slotV 4) stepBlk).whl.epochs = [.free, .free, .free, .free] ∧ tabWf CoreState.reset (ending (slotV 4) stepBlk).cores = true ∧
    ((ending (slotV 4) stepBlk).backlogOf 1).length < 65536 ∧ (∀ k ∈ ctxM.clusters.take (fieldN stepBlk 0x0C 2), ((ending (slotV 4) stepBlk).cluster k).wiping = false) ∧ stepBlk.length = 64 := by decide +kernel
theorem witness_boundary_only : fieldN (putField stepBlk 1 1 1) 1 1 % 2 = 1 ∧ fieldN stepBlk 1 1 % 2 = 0 := by decide
theorem test_boundary_only_completes : leads (exec .boundaryComplete (ending (slotV 4) (putField stepBlk 1 1 1))) (fun t => t.slot 3 == Slot.free && t.seq.boundary == none && (t.ring 1 0).cqTail == 1) = true := by decide +kernel

/-- A launch whose last running core is core 0. -/
def launched : State := { withCore runner with seq := { up.seq with ctxs := [(1, { SeqCtx.reset with inStep := some stepReq, launched := true })] } }

theorem witness_trap : launched.executes 0 = true ∧ launched.coreCtx 0 = some 1 ∧ launched.ctx? 1 = some ctxA ∧ tabWf CoreState.reset launched.cores = true ∧ (launched.seqCtx 1).launched = true ∧
    (launched.seqCtx 1).inStep ≠ none ∧ launched.cores.any (fun e => e.1 != 0 && ctxA.clusters.contains (coreCluster e.1) && (e.2.run == .running || e.2.run == .stopped)) = false := by decide +kernel
theorem witness_trap_backlogs : ∀ f, (launched.backlogOf f).length < 65535 := fun f => (by decide : (0 : Nat) < 65535)
theorem witness_trap_others : let s := { launched with cores := [(0, runner), (1, runner)] }
    s.cores.any (fun e => e.1 != 0 && ctxA.clusters.contains (coreCluster e.1) && (e.2.run == .running || e.2.run == .stopped)) = true ∧ tabWf CoreState.reset s.cores = true := by decide +kernel
theorem test_trap_marks_the_step : leads (exec (.trap 0 false 7) { launched with cores := [(0, runner), (1, runner)] }) (fun t => (t.seqCtx 1).trapped && (t.core 0).run == .trapped && (t.core 1).run == .running) = true := by decide +kernel

/-- Core 0's FILL of 16 bytes of sequence 3's state, and its COPY from there. -/
def seqFill : List Byte := blk 64 [(0, 1, 0x23), (4, 4, 16), (8, 8, 0x55), (0x10, 8, 0x4003000000000000)]
def seqCopy : List Byte := blk 64 [(0, 1, 0x21), (4, 4, 16), (8, 8, 0x4003000000000000), (0x10, 8, 0x8000000000000000)]
def seqUse (b : List Byte) (bd : Option Nat) : State := { withCore { runner with dmaQ := [⟨b, true, 16, [⟨0, 0, 16, .sent, true⟩]⟩] } with
  seq := { up.seq with slots := [(3, slotV 2)], boundary := bd }
  press := { up.press with words := [(9, BitVec.ofNat 64 (2 ^ 63 + 3 * 2 ^ 25 + 2 * 2 ^ 21 + 7))] } }

theorem witness_sequence_fill : (seqUse seqFill none).sound = true ∧ (seqUse seqFill none).enginesRun 0 = true ∧ (seqUse seqFill none).coreCtx 0 = some 1 ∧
    (seqUse seqFill none).side (fieldN seqFill 0x10 8) = .seq 3 0 0 ∧ (seqUse seqFill none).press.failed = none ∧ 9 ∉ (seqUse seqFill none).press.badPrimary ∧ ledgerValid ((seqUse seqFill none).ledgerWord 9) = true ∧ ledgerOwner ((seqUse seqFill none).ledgerWord 9) = 3 ∧
    ((seqUse seqFill none).ledgerWord 9).toNat / 2 ^ 21 % 16 = 2 ∧ (∀ k ∈ (seqUse seqFill none).memop.slots, k.2.owner ≠ .dma 0 0) := by decide +kernel
theorem witness_sequence_copy : (seqUse seqCopy none).side (fieldN seqCopy 8 8) = .seq 3 0 0 ∧ ∃ d, (seqUse seqCopy none).side (fieldN seqCopy 0x10 8) = .here d := ⟨by decide +kernel, _, rfl⟩
theorem witness_sequence_waits : (seqUse seqFill (some 1)).seq.boundary = some 1 ∧ (0 : Nat) + 65536 ≤ 65536 := by decide +kernel
theorem test_sequence_fill : leads (exec (.seqStateAccess 0 0) (seqUse seqFill none)) (fun t => t.readNat (2 * 2 ^ 37 + 7 * 65536) 1 == 0x55 && (t.core 0).dmaQ.all (fun d => d.reqs.all (fun r => r.st == .done))) = true := by decide +kernel

/-! ### The Dealer -/

/-- A state with some bytes of memory written. -/
def wr (s : State) (l : List (Nat × List Byte)) : State := l.foldl (fun s e => s.writePhys e.1 e.2) s

/-- This package stands at row 0, column 0 of chassis 0. -/
def placed (s : State) : State := { s with fab := { s.fab with pos := some (0, 0, 0) } }

def trickBlk (flags : Nat) : List Byte := blk 128 [(0, 1, 0x51), (1, 1, flags), (2, 1, 8), (4, 4, 9), (8, 4, 1), (0x0C, 4, 2), (0x10, 4, 0x3F800000), (0x14, 4, 16), (0x1C, 4, 16), (0x20, 4, 1),
  (0x24, 4, 2), (0x28, 8, 0x20000), (0x30, 8, 0x24000), (0x38, 8, 0x25000), (0x40, 8, 0x26000), (0x48, 8, 0x27000), (0x50, 8, 0x21000), (0x58, 8, 0x28000), (0x60, 8, 0x28008), (0x68, 8, 0x28040)]
def layerBlk : List Byte := blk 64 [(1, 1, 8), (2, 1, 1), (4, 4, 1), (8, 2, 1), (0x14, 4, 0x3F800000), (0x18, 4, 0x3F800000), (0x20, 8, 0x22000)]
/-- A trick at the window of context 1, alone in its member table, with one expert. -/
def tricking (flags : Nat) : State := placed { wr host [(0x20000, layerBlk), (0x21000, leBytes 4 0x8000), (0x22000, blk 64 [(0, 8, 0x23000)])] with
  deal := { up.deal with window := [⟨1, 0, 0, trickBlk flags⟩] } }

theorem witness_trick : (tricking 0).sound = true ∧ (tricking 0).windowCmd 1 opTrick = some ⟨1, 0, 0, trickBlk 0⟩ ∧ (tricking 0).ctx? 1 = some ctxM ∧ ctxM.savedRows = false ∧ ctxM.heldWrites = [] ∧
    ctxM.clusters.length = ctxM.count ∧ (tricking 0).inFlight 1 < 16 ∧ trickFields (trickBlk 0) = true ∧ (tricking 0).trick? 1 9 = none ∧ (tricking 0).readable 1 0x20000 64 = true ∧
    (tricking 0).view 1 0x20000 64 = layerBlk ∧ layerFields layerBlk 0x24000 2 = true ∧ (tricking 0).dirInRange 1 (layerRec layerBlk) = true ∧ (tricking 0).readable 1 0x21000 4 = true ∧
    (tricking 0).view 1 0x21000 4 = leBytes 4 0x8000 ∧ (tricking 0).isSelf 0 = true := by decide +kernel
theorem witness_trick_gate : (layerRec layerBlk).tileRefs = [0x22000] ∧ (tricking 0).readable 1 0x22000 64 = true ∧ fieldN ((tricking 0).view 1 0x22000 64) 0 8 = 0x23000 ∧
    fieldN ((tricking 0).view 1 0x22000 64) 0x12 1 % 2 = 0 ∧ fieldN ((tricking 0).view 1 0x22000 64) 0x10 2 = 0 ∧ (tricking 0).readable 1 0x23000 512 = true ∧
    (tricking 0).readable 1 0x24000 2 = true ∧ (tricking 0).readable 1 0x25000 16 = true ∧ (tricking 0).readable 1 0x26000 256 = true ∧
    (tricking 0).packageAccess 1 0x26000 256 true = .pieces [(0x26000, 0x26000, 256)] := by decide +kernel
theorem witness_replay : (trickCmd (trickBlk 8)).replay = true ∧ trickFields (trickBlk 8) = true ∧ (trickCmd (trickBlk 0)).replay = false ∧ 0 < (trickCmd (trickBlk 0)).t := by decide +kernel
/-- A token without a weight gets its one expert with probability 1 and K 1. -/
theorem test_trick_deals : leads (exec (.dealTrick 1) (tricking 0)) (fun t => t.deal.window == [] && t.inFlight 1 == 1 && (t.trick? 1 9).any (fun k => k.hands.map (fun h => h.cards.map (fun x => x.map (fun y => (y.expert, y.weight)))) == [[some (0, 0x3F800000)]])) = true := by decide +kernel

def layer2 : Layer := layerRec (putField (putField layerBlk 2 1 2) 4 4 3)
theorem witness_hand : layer2.groupEn = false ∧ [0x3F800000, 0x40000000, 0x3F800000].length = layer2.e ∧ layer2.norm = false := by decide +kernel
/-- The larger of three logits first, then the lower number of the equal two. -/
theorem test_hand_order : ((layer2.dealHand [0, 0, 0] [0x3F800000, 0x40000000, 0x3F800000]).cards.map (fun c => c.map (·.expert))) = [some 1, some 0] := by decide +kernel
/-- A NaN logit leaves its expert out. -/
theorem test_hand_nan : (layer2.dealHand [0, 0, 0] [0x7FC00000, 0x40000000, 0x7FC00000]).nan = true := by decide +kernel

/-- A piece of a row of trick 9 for this package: token 0, card 0, sub-trick 1, slot 2, from package 5 context 2. -/
def rowPkt (ret : Nat) : Packet where
  typ := 0x30
  vc := 4
  phase := 0
  mcast := false
  retx := false
  src := 5
  dst := 0
  seq := 0
  srcBoot := 0
  sctx := 2
  dctx := 1
  opfield := opField [(0x10, 4, 9), (0x14, 4, ret * 2 ^ 26), (0x18, 2, 5), (0x1A, 1, 2), (0x1E, 2, 2)]
  payload := [1, 2]
  final := 0

/-- Trick 9 of context 1, with two members. -/
def trickT : Trick where
  ctx := 1
  id := 9
  live := true
  order := 0
  cmd := trickBlk 0
  layer := layerBlk
  members := [(0, 1), (5, 2)]
  hands := []
  rows := []
  notices := []
  back := []
  records := []
  table := []
  admits := []
  refused := []
  arrived := 0
  sent := 0
  spilled := 0
  phaseC := false
  cap1 := false
  cap2 := false
  phaseE := false
  returned := false
  waitFrom := none
  stallFrom := none
  waited := 0
def trickBox (k : Trick) (l : List Packet) : State := placed { host with regs := tabInsert host.regs 0x41080 4, deal := { up.deal with tricks := [k] }, fab := { up.fab with inbox := l } }
def vatR : VatHold := ⟨⟨0, false, 0⟩, 1, 0, rowVatTag (rowTag (rowPkt 0))⟩
def rowR : StagedRow := ⟨5, 2, 0, 0, 1, 2, [(2, [3, 4])], vatR⟩

theorem witness_row : (trickBox trickT [rowPkt 0]).isSelf (rowPkt 0).final.toNat = true ∧ (trickBox trickT [rowPkt 0]).trick? 1 (rowTag (rowPkt 0)).id = some trickT ∧ trickT.noticed nkCount 1 = none ∧
    (rowTag (rowPkt 0)).ret = false ∧ (rowPkt 0).dctx.toNat = 1 := by decide +kernel
theorem witness_row_joins : let g := rowTag (rowPkt 0)
    rowR.src = g.orig ∧ rowR.sctx = g.octx ∧ rowR.token = g.token ∧ rowR.card = g.card ∧ rowR.sub = g.sub ∧ rowR.vat.vat.ovf = false ∧
    max ((trickCmd trickT.cmd).payData + (trickCmd trickT.cmd).payScale) (rowOffset (rowPkt 0) + (rowPkt 0).payload.length) ≤ vatSize rowR.vat.vat.k := by decide +kernel
theorem witness_row_staged : (trickBox trickT [rowPkt 0]).vatFor 1 0 (rowVatTag (rowTag (rowPkt 0))) = none ∧ (trickBox trickT [rowPkt 0]).vatAllowed 1 0 (fitClass 16) = true ∧
    ((trickBox trickT [rowPkt 0]).pool (fitClass 16)).sram.top = some 0 ∧ (trickBox trickT [rowPkt 0]).vats.pools.length = 6 ∧ (trickBox trickT [rowPkt 0]).vats.hurt = [] ∧
    (trickBox trickT [rowPkt 0]).vats.waiting = [] ∧ (trickBox trickT [rowPkt 0]).sec.home = none ∧ (trickCmd trickT.cmd).payData + (trickCmd trickT.cmd).payScale = 16 := by decide +kernel
def trickC : Trick := { trickT with cap1 := true, phaseE := true }
theorem witness_row_returns : (rowTag (rowPkt 1)).ret = true ∧ trickC.noticed nkCombine 1 = none ∧ (rowTag (rowPkt 1)).token < (trickCmd trickC.cmd).t ∧ rowOffset (rowPkt 1) + 2 ≤ (trickCmd trickC.cmd).outBytes ∧
    (trickBox trickC [rowPkt 1]).packageAccess 1 0x27000 2 true = .pieces [(0x27000, 0x27000, 2)] := by decide +kernel
def noticeP : Packet := { rowPkt 0 with typ := 0x32, opfield := opField [(0x10, 4, 9), (0x18, 2, 1)], payload := [] }
theorem witness_notice : (trickBox trickT [noticeP]).trick? 1 (BitVec.ofNat 32 (pktOp noticeP 0x10 4)) = some trickT ∧ pktOp noticeP 0x14 1 % 4 = 0 ∧ pktOp noticeP 0x16 2 = 0 ∧ pktOp noticeP 0x18 2 = 1 ∧
    (∃ m ∈ trickT.members, m ≠ (noticeP.src.toNat, noticeP.sctx.toNat)) ∧ trickT.notices = [] := by decide +kernel
def returnBlk : List Byte := blk 64 [(0, 1, 0x52), (4, 4, 9)]
def returning : State := placed { host with deal := { up.deal with tricks := [trickC], window := [⟨1, 0, 0, returnBlk⟩] } }
theorem witness_return : returning.windowCmd 1 opReturn = some ⟨1, 0, 0, returnBlk⟩ ∧ returnFields returnBlk = true ∧ returning.trick? 1 9 = some trickC ∧ trickC.placed = [] := by decide +kernel
def bundleP : Packet := { rowPkt 0 with typ := 0x31, opfield := opField [(0x10, 2, 1)], payload := bundlePiece (rowPkt 0) }
theorem witness_bundle : pktOp bundleP 0x10 2 = [rowPkt 0].length ∧ bundleP.payload = [rowPkt 0].flatMap bundlePiece ∧ (rowPkt 0).payload.length ≤ 2048 := by decide +kernel
def stalled : State := { trickBox { trickT with stallFrom := some 0 } [] with time := { up.time with tb := 100000000000 * 2 ^ 24 } }
theorem witness_stall : ({ trickT with stallFrom := some 0 } : Trick).barrierMet = false ∧ stalled.trick? 1 9 = some { trickT with stallFrom := some 0 } ∧ (stalled.reg 0xB0000).toNat * 1000000 < stalled.now - 0 := by decide +kernel
theorem test_row_is_staged : leads (exec .trickRow (trickBox trickT [rowPkt 0])) (fun t => t.vats.held == [vatR] && t.fab.inbox == []) = true := by decide +kernel
theorem test_returned_row_lands : leads (exec .trickRow (trickBox trickC [rowPkt 1])) (fun t => t.readNat 0x27000 2 == 0x0201) = true := by decide +kernel

def dirBlk : List Byte := blk 64 [(0, 1, 0x58), (8, 4, 15), (0x0C, 4, 1), (0x10, 8, 0x20000)]
theorem witness_dirset : (withDesc dirBlk).headDesc 1 0 = some dirBlk ∧ (withDesc dirBlk).dirsetFields 1 dirBlk = true ∧ (withDesc dirBlk).readable 1 0x20000 16 = true ∧
    (withDesc dirBlk).deal.dirsets = [] ∧ (withDesc dirBlk).inFlight 1 = 0 := by decide +kernel
theorem witness_dirset_waits : 0 < { withDesc dirBlk with deal := { up.deal with tricks := [trickT] } }.inFlight 1 := by decide +kernel
theorem witness_dirset_range : (withDesc dirBlk).dirsetFields 1 (putField dirBlk 8 4 16) = false := by decide +kernel
theorem test_dirset_applies : leads (exec (.dealDirset 1 0) (wr (withDesc dirBlk) [(0x20000, List.replicate 16 0xFF)])) (fun t => t.dirEntry 15 == BitVec.ofNat 128 (2 ^ 111 - 1) && t.dirEntry 14 == 0) = true := by decide +kernel

/-! ### The fabric -/

/-- Package 0 with port 4 Up toward package 5, with credits, and port 0 Up toward package 1. -/
def portU (g : Nat) : PortState := { PortState.reset with
  phase := .up
  lanes := 8
  peer := some g
  credits := [640, 15, 640, 15, 640, 15, 640, 15] }
def linked : State := { placed host with
  time := { up.time with tb := 10000000 * 2 ^ 24 }
  fab := { up.fab with pos := some (0, 0, 0), ports := [(0, portU 1), (4, portU 5)] } }
def withPeer (p : PeerState) (l : List Packet) : State := { linked with fab := { linked.fab with peers := [(5, p)], inbox := l } }
/-- A packet of package 5, context 2, for context 1 here. -/
def pktIn (typ : Byte) (vc : BitVec 3) (seq : W32) (op : List (Nat × Nat × Nat)) (b : List Byte) : Packet := { rowPkt 0 with typ := typ, vc := vc, seq := seq, opfield := opField op, payload := b }
def rdReqP (seq : W32) : Packet := pktIn 0x10 0 seq [(0x10, 8, 0x10000), (0x18, 4, 3), (0x1C, 2, 8)] []
def farPkt : Packet := { rdReqP 7 with dst := 1, final := 1 }

theorem witness_packet : linked.portUp 4 = true ∧ linked.takesIn 4 (rdReqP 0) = true ∧ linked.takesIn 4 farPkt = true ∧ linked.streamsRise = true ∧ linked.fab.inBufs = [] ∧ linked.fab.pos ≠ none ∧ (rdReqP 0).mcast = false ∧ (rdReqP 0).dst.toNat = linked.self ∧ (rdReqP 0).src.toNat ≠ linked.self ∧
    seqClass (rdReqP 0).typ.toNat = some ((rdReqP 0).vc.toNat / 2) ∧ (linked.peer 5).boot.all (fun b => b == (rdReqP 0).srcBoot.toNat) = true := by decide +kernel
theorem witness_packet_next : ((rdReqP 0).seq - ((linked.peer 5).rxOf 0).expected).toNat = 0 ∧ ((linked.peer 5).rxOf 0).early = [] := by decide +kernel
theorem witness_packet_early : ((rdReqP 1).seq - ((linked.peer 5).rxOf 0).expected).toNat = 1 ∧ ((rdReqP 255).seq - ((linked.peer 5).rxOf 0).expected).toNat < 256 ∧
    linked.reorderUsed + pktBytes (rdReqP 1) ≤ 2 ^ 24 := by decide +kernel
theorem witness_packet_duplicate : 2 ^ 31 ≤ ((rdReqP 0xFFFFFFFF).seq - ((linked.peer 5).rxOf 0).expected).toNat ∧ 2 ^ 31 ≤ ((rdReqP 0x80000000).seq - ((linked.peer 5).rxOf 0).expected).toNat ∧
    linked.sec.home = none := by decide +kernel
theorem witness_packet_forward : endsHere farPkt = false ∧ linked.route farPkt (linked.port 4).peer = .port 0 { farPkt with phase := 1 } false ∧ (linked.port 0).phase = .up ∧ (linked.port 0).queue farPkt.vc.toNat = [] ∧ (linked.port 0).hasRoom farPkt = true := by decide +kernel

/-- One write to package 5, unacknowledged and held in a request slot. -/
def wrSent : SentPkt := ⟨{ pktIn 0x11 0 0 [(0x10, 8, 0)] [1] with src := 0, dst := 5, final := 5 }, 0, 0, true, some 0, false⟩
def slotW (kind : Nat) (acked : Option Nat) : ReqSlot := ⟨0, 1, .dma 0 0, 5, kind, 0x8000000000000000, 8, some 0, acked⟩
def sendingTo (l : List Packet) : State := { withPeer { PeerState.reset with tx := [(0, { TxStream.reset with unacked := [wrSent], nextSeq := 1 })] } l with
  memop := { up.memop with slots := [(0, slotW 0x11 none)] } }
def ackP : Packet := pktIn 0x01 2 0 [(0x10, 4, 1), (0x14, 1, 0)] []

theorem witness_ack : (sendingTo [ackP]).fab.inbox = [ackP] ∧ ((sendingTo [ackP]).peer 5).dead = false ∧ (∀ e ∈ (sendingTo [ackP]).fab.peers, ∀ x ∈ e.2.tx, x.2.waiting = []) ∧
    ((sendingTo [ackP]).peer 5).tx.length = 1 ∧ ackCovers (BitVec.ofNat 32 (pktOp ackP 0x10 4)) (pktOp ackP 0x18 8) wrSent.pkt.seq = true := by decide +kernel
/-- An ACK covers what is before NEXT_SEQ and what a HELD bit names. -/
theorem witness_ack_limits : ackCovers 1 0 1 = false ∧ ackCovers 1 1 2 = true ∧ ackCovers 1 (2 ^ 63) 65 = true ∧ ackCovers 1 (2 ^ 63) 66 = false := by decide +kernel
theorem test_ack_ends_the_write : leads (exec .ack (sendingTo [ackP])) (fun t => ((t.peer 5).txOf 0).unacked == [] && t.memop.slots == []) = true := by decide +kernel
theorem witness_ack_send : ((withPeer { PeerState.reset with rx := [(0, { RxStream.reset with expected := 1, unAcked := 1, since := some 0 })] } []).peer 5).rxOf 0 ≠ RxStream.reset ∧
    ((linked.peer 5).rxOf 0).unAcked = 0 := by decide +kernel
theorem witness_ack_route : let m := linked.mkPacket 0x01 1 5 0 0 [(0x10, 4, 1), (0x14, 1, 0), (0x18, 8, 0)] []
    linked.route m none = .port 4 m false ∧ (linked.port 4).hasRoom m = true ∧ (linked.peer 5).dead = false := by decide +kernel
theorem witness_retransmit : (((sendingTo []).peer 5).txOf (pktClassNum .request)).unacked = [wrSent] ∧ wrSent.sent = true ∧ 50000 ≤ (sendingTo []).now - wrSent.last ∧ wrSent.pkt.mcast = false ∧
    (sendingTo []).route { wrSent.pkt with retx := true } none = .port 4 { wrSent.pkt with retx := true } false := by decide +kernel
theorem witness_dead : ((sendingTo []).peer 5).dead = false ∧ (∃ e ∈ ((sendingTo []).peer 5).tx, ∃ u ∈ e.2.unacked, 4000000 ≤ (sendingTo []).now - u.first) ∧
    (sendingTo []).ctx? 1 = some ctxM := by decide +kernel
theorem test_dead_target_ends_its_requester : leads (exec (.deadTarget 5) (sendingTo [])) (fun t => (t.peer 5).dead && t.memop.slots == [] && (t.ctx? 1).any (fun x => x.phase == .ending)) = true := by decide +kernel

/-! ### Ports -/

theorem witness_training : ({ linked with fab := { linked.fab with ports := [(4, { portU 5 with phase := .training })] } }.port 4).phase = .training ∧ linked.expectedPeer 4 = some 5 ∧
    linked.expectedPeer 4 ≠ some 6 := by decide +kernel
theorem witness_port_down : (linked.port 4).phase = .up ∧ (linked.port 5).phase ≠ .up := by decide +kernel
theorem witness_retrain : let s := { linked with time := { up.time with tb := 100000000 * 2 ^ 24 }, fab := { linked.fab with ports := [(4, { portU 5 with phase := .down })] } }
    (s.port 4).phase = .down ∧ 100000000 ≤ s.now - (s.port 4).since ∧ 4 ∉ s.power.hotPorts ∧ s.power.lasersOff = false ∧ s.time.clockLost = false := by decide +kernel
theorem witness_credit : (linked.port 4).credits.length = 8 ∧ (linked.port 4).queue 0 = [] ∧ ((portU 5).setQueue 0 [⟨wrSent.pkt, true, false⟩]).queue 0 = [⟨wrSent.pkt, true, false⟩] ∧
    (pktBytes wrSent.pkt + 63) / 64 ≤ min 640 (640 + 0) := by decide +kernel
theorem witness_credit_escape : ({ portU 5 with credits := [640, 0, 640, 0, 640, 0, 640, 0] }.credits.getD 1 0).testBit 3 = false := by decide
def linkP : Packet := { pktIn 0x02 6 0 [] (List.replicate 20 2) with dctx := 0 }
theorem witness_link_state : (withPeer .reset [linkP]).fab.inbox = [linkP] ∧ linkP.mcast = false := by decide +kernel
theorem witness_link_state_send : 1000000 ≤ linked.now - linked.fab.lastLink ∧ linked.portUp 4 = true ∧ (linked.port 4).queue 6 = [] ∧
    (linked.port 4).hasRoom (linked.mkPacket 0x02 3 (64 * 0 + linePeer 0 0 4) 0 0 [] linked.linkBytes) = true ∧ 10000000 ≤ linked.now - linked.fab.lastGport := by decide +kernel
theorem witness_link_state_quiet : let s := { linked with fab := { linked.fab with lastLink := 10000000 } }
    s.fab.linkDirty = false ∧ s.now - s.fab.lastLink < 1000000 := by decide +kernel
theorem witness_silent : ((withPeer { PeerState.reset with linkAt := some 0 } []).peer 5).linkAt = some 0 ∧ 3000000 ≤ (withPeer .reset []).now - 0 := by decide +kernel
theorem test_link_state_is_sent : leads (exec (.linkStateSend false) linked) (fun t => t.fab.wire.map (fun e => e.1) == [0, 4] && t.fab.lastLink == 10000000) = true := by decide +kernel

/-! ### Memory operations -/

/-- A request of package 5 has arrived, and context 1 names that package's context 2 as its peer. -/
def asked (l : List Packet) : State := { withPeer .reset l with
  regs := tabInsert host.regs (offMemPeerPtr 1) 0x8000
  memop := { up.memop with peerTab := [(1, [0, 0, 0, 0, 0, 0x82])] } }
def wrReqP : Packet := pktIn 0x11 0 0 [(0x10, 8, 0x10000), (0x18, 4, 3)] [7, 8]
def fillReqP : Packet := pktIn 0x12 0 0 [(0x10, 8, 0x10000), (0x18, 4, 3), (0x1C, 2, 4)] [1, 2, 3, 4, 5, 6, 7, 8]
def atReqP : Packet := pktIn 0x13 0 0 [(0x10, 8, 0x10000), (0x18, 4, 3), (0x1C, 1, 8)] (leBytes 8 5 ++ zeroBytes 8)

theorem witness_read_request : (asked [rdReqP 0]).sound = true ∧ (asked [rdReqP 0]).sec.home = none ∧ (asked [rdReqP 0]).ctxTakes 1 = true ∧ reqShape (rdReqP 0) = true ∧
    (asked [rdReqP 0]).canKeep [rdReqP 0] 8 = true ∧ reqLen (rdReqP 0) = 8 ∧
    (asked [rdReqP 0]).streamsRise = true ∧ (asked [rdReqP 0]).meetsUnheld [(0x10000, 0x10000, 8)] = false ∧ (rdReqP 0).src.toNat ≠ (asked [rdReqP 0]).self := by decide +kernel
theorem witness_checks : (asked []).reqCheck (rdReqP 0) = .ok [(0x10000, 0x10000, 8)] ∧ (asked []).reqCheck wrReqP = .ok [(0x10000, 0x10000, 2)] ∧ (asked []).reqCheck fillReqP = .ok [(0x10000, 0x10000, 4)] ∧
    (asked []).reqCheck atReqP = .ok [(0x10000, 0x10000, reqLen atReqP)] := ⟨rfl, rfl, rfl, rfl⟩
theorem witness_request_forms : reqShape wrReqP = true ∧ reqShape fillReqP = true ∧ reqShape atReqP = true ∧ ((asked []).peer 5).dead = false ∧ (((asked []).peer 5).txOf 1).waiting = [] ∧
    (((asked []).peer 5).txOf 1).unacked.length < 256 ∧ (asked []).storeUsed + 2084 ≤ 2 ^ 29 := by decide +kernel
theorem test_write_request : leads (exec .wrReq (asked [wrReqP])) (fun t => t.readNat 0x10000 2 == 0x0807 && ((t.peer 5).rxOf 0).unAcked == 1) = true := by decide +kernel
theorem test_fill_request : leads (exec .fillReq (asked [fillReqP])) (fun t => t.readNat 0x10000 8 == 0x04030201) = true := by decide +kernel
theorem test_atomic_request : leads (exec .atReq (wr (asked [atReqP]) [(0x10000, leBytes 8 40)])) (fun t => t.readNat 0x10000 8 == 45 && (((t.peer 5).txOf 1).unacked.map (fun u => (u.pkt.typ, u.pkt.payload))) == [(0x21, leBytes 8 40)]) = true := by decide +kernel
def rdReq6 : Packet := { rdReqP 0 with src := 6 }
def batched : State := { asked [rdReqP 0, rdReq6] with memop := { up.memop with peerTab := [(1, [0, 0, 0, 0, 0, 0x82, 0x82])] } }
theorem witness_batch : batched.batch = [rdReqP 0, rdReq6] ∧ batched.canKeep [rdReqP 0, rdReq6] (replyLen (rdReqP 0)) = true ∧ batched.meetsUnheld [(0x10000, 0x10000, 8)] = false := by decide +kernel
theorem witness_batch_pieces : batched.reqPieces (rdReqP 0) = .ok [(0x10000, 0x10000, 8)] := rfl

/-- Core 0 has a request out to package 5. -/
def replied (kind : Nat) (acked : Option Nat) (p : Packet) : State := { withPeer .reset [p] with
  cores := [(0, { runner with dmaQ := [⟨blk 64 [(0, 1, 0x21), (4, 4, 8)], true, 8, [⟨0, 0, 8, .remote, true⟩]⟩] })]
  memop := { up.memop with slots := [(0, slotW kind acked)] } }
def rdReplyP : Packet := pktIn 0x20 2 0 [(0x10, 4, 0), (0x14, 1, 0)] [1, 2, 3, 4, 5, 6, 7, 8]
def atReplyP : Packet := { rdReplyP with typ := 0x21 }
def statusP (n : Nat) : Packet := { rdReplyP with typ := 0x22, opfield := opField [(0x10, 4, 0), (0x14, 1, n)], payload := [] }
theorem witness_read_reply : (replied 0x10 none rdReplyP).replySlot rdReplyP [0x10] = some (0, slotW 0x10 none) ∧ (replied 0x10 none rdReplyP).ctx? 1 = some ctxM ∧ (replied 0x10 none rdReplyP).coreCtx 0 = some 1 ∧
    (replied 0x10 none rdReplyP).side 0x8000000000000000 = .here 0x8000000000000000 ∧ (replied 0x20 none rdReplyP).replySlot rdReplyP [0x10] = none := by decide +kernel
theorem witness_read_reply_lands : ∃ f a, (replied 0x10 none rdReplyP).localAccess 0 1 0x8000000000000000 8 true = .pieces [(f, a, 8)] := ⟨_, _, rfl⟩
theorem witness_atomic_reply : (replied 0x13 none atReplyP).replySlot atReplyP [0x13] = some (0, slotW 0x13 none) ∧ 8 ≤ atReplyP.payload.length ∧ (localPhys 0 0x8000000000000000 8).isSome = true := by decide +kernel
theorem witness_write_status : (replied 0x11 none (statusP 4)).replySlot (statusP 4) [0x11, 0x12] = some (0, slotW 0x11 none) ∧ pktOp (statusP 4) 0x14 1 = 4 ∧ pktOp (statusP 1) 0x14 1 = 1 := by decide +kernel
theorem witness_reply_timeout : tabFind (replied 0x10 (some 0) rdReplyP).memop.slots 0 = some (slotW 0x10 (some 0)) ∧ 4000000 ≤ (replied 0x10 (some 0) rdReplyP).now - 0 := by decide +kernel
theorem test_read_reply : leads (exec .rdReply (replied 0x10 none rdReplyP)) (fun t => t.memop.slots == [] && (localPhys 0 0x8000000000000000 8).any (fun a => t.readNat a 8 == 0x0807060504030201)) = true := by decide +kernel

/-! ### Collectives -/

/-- A collective descriptor: operation, members, root, bytes; chunks of 4 KiB, FP32. -/
def collBlk (op n root bytes aux : Nat) : List Byte := blk 64 [(0, 1, 0x60), (1, 1, op), (2, 1, 9), (3, 1, 12), (8, 4, 6), (0x0C, 2, n), (0x0E, 2, root), (0x10, 8, bytes), (0x18, 8, 0x20000),
  (0x20, 8, 0x30000), (0x28, 8, 0x21000), (0x30, 8, aux)]
def auxBlk : List Byte := blk 64 [(0x18, 8, 0x23000), (0x20, 8, 5)]
def colls0 : State := { linked with regs := tabInsert (tabInsert host.regs (offVatQuota 1 1 0) 8) (offVatQuota 1 1 2) 8 }
/-- A launch waits for the counter at 0x23000 to reach 5. -/
def launching : State := wr { colls0 with host := (withDesc (collBlk 2 1 0 8 0x22000)).host } [(0x21000, leBytes 4 0x8000), (0x22000, auxBlk)]

theorem witness_coll_launch : launching.sound = true ∧ launching.headDesc 1 0 = some (collBlk 2 1 0 8 0x22000) ∧ collFields (collBlk 2 1 0 8 0x22000) = true ∧ launching.coll? 1 6 = none ∧
    launching.nativeOf 1 0x21000 4 false = true ∧ launching.nativeOf 1 0x22000 64 false = true ∧ launching.collRank 1 [(0, 1)] = some 0 ∧ launching.view 1 0x21000 4 = leBytes 4 0x8000 ∧
    launching.view 1 0x22000 64 = auxBlk ∧ launching.auxFields 1 (collCmd (collBlk 2 1 0 8 0x22000)) auxBlk = true ∧ launching.collBuffers 1 (collCmd (collBlk 2 1 0 8 0x22000)) 0 = true ∧
    (launching.readable 1 0x21000 4 && launching.readable 1 0x22000 64 && launching.readable 1 (auxWait auxBlk) 8) = true ∧ auxWait auxBlk ≠ 0 ∧ leNat (launching.view 1 (auxWait auxBlk) 8) < auxVal auxBlk := by decide +kernel

/-- A collective in flight. -/
def collOf (b aux : List Byte) (ms : List (Nat × Nat)) : Coll where
  ctx := 1
  id := 6
  desc := ⟨1, 0, 0x60, 0⟩
  bytes := b
  aux := aux
  members := ms
  rank := 0
  order := 0
  started := true
  paused := false
  pausedAt := 0
  haltAt := none
  pausedBy := []
  lastStep := 0
  granted := 0
  used := 0
  pos := 0
  turn := 0
  acc := none
  accZero := true
  ins := []
  credits := []
  sent := []
  redo := []
  heldOut := []
  released := []
  releases := []
  written := []
  headroom := 0
  zeroChunks := 0
  retries := 0
def flying (x : Coll) (l : List Packet) : State := { colls0 with
  coll := { up.coll with colls := [x] }
  fab := { linked.fab with inbox := l } }

def collS : Coll := { collOf (collBlk 2 1 0 8 0x22000) auxBlk [(0, 1)] with started := false }
theorem witness_coll_start : (flying collS []).coll? 1 6 = some collS ∧ (flying collS []).readable 1 (auxWait collS.aux) 8 = true ∧ leNat ((flying collS []).view 1 (auxWait collS.aux) 8) < auxVal collS.aux ∧
    auxVal collS.aux ≤ leNat ((wr (flying collS []) [(0x23000, leBytes 8 5)]).view 1 (auxWait collS.aux) 8) := by decide +kernel
theorem witness_coll_alone : collS.cmd.op = 2 ∧ collS.cmd.n = 1 ∧ collS.cmd.bytes ≤ collS.cmd.chunk ∧ collS.cmd.clash 0 = false ∧ (flying collS []).vats.hurt = [] ∧ (flying collS []).readable 1 collS.cmd.inp 8 = true ∧
    (flying collS []).packageAccess 1 collS.cmd.out 8 true = .pieces [(0x30000, 0x30000, 8)] ∧ collS.cmd.bytes % collElem collS.cmd.fmt = 0 ∧ (flying collS []).vatFor 1 1 (chunkVat collS 0 0) = none ∧
    (flying collS []).vatAllowed 1 1 (fitClass collS.cmd.chunk) = true ∧ ((flying collS []).pool (fitClass collS.cmd.chunk)).sram.top = some 0 := by decide +kernel
theorem test_coll_start_alone : leads (exec (.collStart 1 6) (wr (flying collS []) [(0x23000, leBytes 8 5), (0x20000, leBytes 8 0x400000003F800000)])) (fun t => t.coll.colls == [] && t.readNat 0x30000 8 == 0x400000003F800000) = true := by decide +kernel

/-- The owner of chunk 0 of a reduce-scatter of two holds its own contribution of 1,024 elements, and the first piece of rank 1's. -/
def collR (b0 : List Byte) (crc : W32) : Coll := { collOf (collBlk 0 2 0 4100 0) (zeroBytes 64) [(0, 1), (5, 2)] with
  turn := 1
  granted := 1
  acc := some (zeroBytes 4096)
  ins := [⟨0, 0, 1, 0, [(0, b0)], none, crc, false, false⟩] }
def collP (typ : Byte) (k rank kind last attempt piece crc : Nat) (b : List Byte) : Packet :=
  pktIn typ 4 0 [(0x10, 4, 6), (0x14, 4, k), (0x18, 2, rank), (0x1A, 1, kind + 4 * last + 8 * attempt), (0x1B, 1, piece), (0x1C, 4, crc)] b
def turnVat (r i : Nat) : VatHold := ⟨⟨1, false, i⟩, 1, 1, ⟨1, 6, 0, r⟩⟩
def owning (x : Coll) (l : List Packet) : State := { flying x l with vats := { up.vats with held := [turnVat 0 0, turnVat 1 1] } }

theorem witness_coll_owner : let x := collR (zeroBytes 2048) 0
    x.cmd.op = 0 ∧ x.cmd.clash 0 = false ∧ (owning x []).isSelf 5 = false ∧ x.cmd.count 0 = 1 ∧ x.cmd.count 1 ≠ 0 ∧ x.cmd.len 0 = 4096 ∧ 4096 % collElem x.cmd.fmt = 0 ∧ (owning x []).vatFor 1 1 (chunkVat x 0 0) = some (turnVat 0 0) ∧
    (owning x []).vatFor 1 1 (chunkVat x 0 1) = some (turnVat 1 1) ∧ (owning x []).packageAccess 1 x.cmd.out 4096 true = .pieces [(0x30000, 0x30000, 4096)] ∧ x.peerOf 1 = (5, 2) := by decide +kernel
/-- The last piece of rank 1's chunk, and its marker. -/
theorem witness_coll_pieces : let p := collP 0x40 0 1 0 1 0 1 (crc32c (zeroBytes 2048 ++ zeroBytes 2048)).toNat (zeroBytes 2048)
    pieceRef p = ⟨0, 1, 0, true, 0, 1, crc32c (zeroBytes 2048 ++ p.payload)⟩ ∧ (owning (collR (zeroBytes 2048) (pieceRef p).crc) [p]).pieceWanted (collR (zeroBytes 2048) (pieceRef p).crc) p = true := by decide +kernel
theorem witness_coll_marker : let p := collP 0x41 0 1 0 1 0 0 0 []
    let x := { collR [] 0 with ins := [] }
    (pieceRef p).chunk = 0 ∧ (pieceRef p).rank = 1 ∧ (pieceRef p).kind = 0 ∧ (owning x [p]).pieceWanted x p = true ∧ (owning x [p]).coll? 1 6 = some x := by decide +kernel
theorem test_coll_marker : leads (exec .collZero (owning { collR [] 0 with ins := [] } [collP 0x41 0 1 0 1 0 0 0 []])) (fun t => (t.coll? 1 6).any (fun y => y.pos == 1 && y.written == [0] && y.used == 1)) = true := by decide +kernel
/-- 1.0 + 2.0 = 3.0 in FP32, and a saturated INT32 sum. -/
theorem test_coll_add : (collAdd 9 false 0x3F800000 0x40000000).1 = 0x40400000 ∧ collAdd 0xB true 0x7FFFFFFF 1 = (0x7FFFFFFF, 1) ∧ collAdd 0xB false 0x7FFFFFFF 1 = (0x80000000, 0) := by decide +kernel

/-- A broadcast of two chunks from rank 1: the second has 8 bytes. -/
def collB : Coll := collOf (collBlk 3 2 1 4104 0) (zeroBytes 64) [(0, 1), (5, 2)]
def copyP (crc : Nat) : Packet := collP 0x40 1 1 2 1 0 0 crc [1, 2, 3, 4, 5, 6, 7, 8]
theorem witness_coll_copy : collB.cmd.op = 3 ∧ collB.cmd.clash collB.rank = false ∧ (∃ j < collB.cmd.nc, j ≠ 1 ∧ j ∉ collB.written) ∧ (flying collB []).isSelf (copyP 7).src.toNat = false ∧ collB.cmd.root = 1 ∧ collB.cmd.nc = 2 ∧ collB.cmd.len 1 = 8 ∧ pieceRef (copyP 7) = ⟨1, 1, 2, true, 0, 0, 7⟩ ∧ collB.peerOf 1 = ((copyP 7).src.toNat, (copyP 7).sctx.toNat) ∧
    BitVec.ofNat 32 (pktOp (copyP 7) 0x10 4) = collB.id ∧ pktOp (copyP 7) 0x18 2 % 2 ^ 15 = 1 ∧
    (flying collB [copyP 7]).packageAccess 1 (collB.cmd.out + 1 * collB.cmd.chunk) 8 true = .pieces [(0x31000, 0x31000, 8)] := by decide +kernel
theorem witness_coll_copy_crc : (pieceRef (copyP (crc32c (copyP 0).payload).toNat)).crc = crc32c (copyP 0).payload ∧ crc32c (copyP 0).payload ≠ (pieceRef (copyP 7)).crc := by decide +kernel
/-- The check value of CRC-32C over the digits 1 to 9. -/
theorem test_crc32c : crc32c [0x31, 0x32, 0x33, 0x34, 0x35, 0x36, 0x37, 0x38, 0x39] = 0xE3069283 := by decide +kernel
theorem test_coll_copy_bad : leads (exec .collData (flying collB [copyP 7])) (fun t => (t.coll? 1 6).any (fun y => y.retries == 1 && y.written == []) && t.readNat 0x31000 1 == 1) = true := by decide +kernel

/-- A reduce to rank 1. -/
def collD : Coll := { collOf (collBlk 4 2 1 8 0) (zeroBytes 64) [(0, 1), (5, 2)] with sent := [⟨0, 0, 1, 0⟩] }
theorem witness_coll_credit : let p := collP 0x42 0 1 0 0 0 0 0 []
    collD.cmd.op = 4 ∧ collD.cmd.root = 1 ∧ pktOp p 0x14 4 = 0 ∧ 0 < collD.cmd.nc ∧ pktOp p 0x18 2 % 2 ^ 15 = collD.cmd.root ∧ auxUsed collD.aux = 0 ∧ (flying collD [p]).readable 1 (collD.cmd.inp + 0 * collD.cmd.chunk) (collD.cmd.len 0) = true := by decide +kernel
theorem witness_coll_nack : let p := collP 0x43 0 1 0 0 0 0 0 []
    (pieceRef p).kind = 0 ∧ (pieceRef p).chunk = 0 ∧ (pieceRef p).attempt = 0 ∧ (flying collD [p]).readable 1 (collD.cmd.src 0 0 0) (collD.cmd.len 0) = true ∧ 1 ≤ collD.cmd.len 0 := by decide +kernel
theorem witness_coll_nack_third : (pieceRef (collP 0x43 0 1 0 0 3 0 0 [])).attempt = 3 := by decide
def ctrlP (k : Nat) : Packet := pktIn 0x44 4 0 [(0x10, 4, 6), (0x14, 1, k), (0x18, 2, 1)] []
theorem witness_coll_ctrl : pktOp (ctrlP 0) 0x14 1 = 0 ∧ pktOp (ctrlP 3) 0x14 1 = 3 ∧ pktOp (ctrlP 3) 0x18 2 % 2 ^ 15 = collD.cmd.root ∧ collD.peerOf 1 = ((ctrlP 3).src.toNat, (ctrlP 3).sctx.toNat) ∧ collD.cmd.n = 2 ∧
    auxDone collD.aux = 0 ∧ (flying collD [ctrlP 3]).isSelf (ctrlP 3).src.toNat = false := by decide +kernel
theorem witness_coll_resume : { collD with pausedBy := [1], haltAt := some 5 }.pausedBy = [1] := by decide +kernel
def abortBlk : List Byte := blk 64 [(0, 1, 0x61), (8, 4, 6)]
theorem witness_coll_abort : { flying collD [] with host := (withDesc abortBlk).host }.headDesc 1 0 = some abortBlk ∧ fieldZero abortBlk 1 3 = true ∧ fieldZero abortBlk 0x0C 52 = true := by decide +kernel
theorem witness_coll_watchdog : let s := { flying collD [] with time := { up.time with tb := 200000000000 * 2 ^ 24 } }
    (s.reg 0xB0008).toNat * 1000000 < s.now - collD.lastStep := by decide +kernel
theorem witness_coll_deadline : (flying { collD with paused := true } []).coll.colls = [{ collD with paused := true }] ∧ 1000000 ≤ (flying collD []).now - collD.pausedAt := by decide +kernel
theorem test_coll_release_completes : leads (exec .collCtrlRelease (flying collD [ctrlP 3])) (fun t => t.coll.colls == [] && t.coll.ended == [(1, 6)] && (t.ring 1 0).cqTail == 1) = true := by decide +kernel

/-! ### Weights -/

/-- A number as 32 bytes, most significant first. -/
def be32 (n : Nat) : List Byte := (leBytes 32 n).reverse
/-- The public key of the private key 1, and its signature with the nonce 1. -/
def testKey : List Byte := be32 gx256 ++ be32 gy256
def sign (m : List Byte) : List Byte := be32 (gx256 % n256) ++ be32 ((beNat (sha256 m) + gx256 % n256) % n256)
theorem test_ecdsa : ecdsaVerify testKey [1, 2, 3] (sign [1, 2, 3]) = true ∧ ecdsaVerify testKey [1, 2, 4] (sign [1, 2, 3]) = false := by decide +kernel
/-- The digest of the three bytes a, b, c as FIPS 180-4 gives it. -/
theorem test_sha256 : beNat (sha256 [0x61, 0x62, 0x63]) = 0xBA7816BF8F01CFEA414140DE5DAE2223B00361A396177A9CB410FF61F20015AD := by decide +kernel

def piece : List Byte := [1, 2, 3, 4]
def manBody : List Byte := blk 64 [(0, 2, 1), (4, 4, 1), (8, 8, 4)] ++ (blk 32 [(0, 2, 3), (0x10, 8, 4)] ++ sha256 piece)
def manifest : List Byte := manBody ++ sign manBody
def loadBlk : List Byte := blk 64 [(0, 1, 0x70), (1, 1, 2), (2, 1, 7), (0x0A, 2, 3), (0x10, 8, 0x20000), (0x18, 8, 0x100000)]
def loading : State := wr { colls0 with
  host := (withDesc loadBlk).host
  sec := { up.sec with rind := { up.sec.rind with ctxKeys := [(8, testKey)] } } } [(0x20000, manifest)]

theorem witness_manifest : loading.view 1 0x20000 192 = manifest ∧ loading.readable 1 0x20000 192 = true ∧ loading.readable 1 0x20000 64 = true ∧ fieldN manifest 2 1 = 0 ∧
    fieldN (loading.view 1 0x20000 64) 4 4 = 1 := by decide +kernel
theorem witness_manifest_verifies : loading.manVerifies 1 manifest = true := by decide +kernel
theorem witness_load : loading.headDesc 1 0 = some loadBlk ∧ loading.loadFields 1 loadBlk = true ∧ loading.loadKindFields 1 0 loadBlk = true ∧ loading.sec.rindWiped = false ∧ loading.sec.rindBusy = false ∧ loading.whl.epochs.length = 4 ∧
    mapAllows ctxM.map (fun _ => true) 0x100000 65536 = true ∧ (loading.flatPieces 0x100000 65536).isSome = true ∧ loading.loadRefusal 1 0 loadBlk 0x100000 4 = none ∧
    fieldN loadBlk 1 1 = 2 ∧ fieldN loadBlk 0x0C 2 = 0 ∧ (∃ w ∈ manWheels manifest 1, w.part = 3 ∨ w.part = 0xFFFF) := by decide +kernel

def wheelW (d : List Byte) : Wheel := ⟨3, 0, 4, d, [], false, 0, [], 0, none, false⟩
def loadL (d : List Byte) : Load where
  ctx := 1
  desc := ⟨1, 0, 0x70, 0⟩
  mode := 2
  kind := 0
  target := 7
  phase := .loading
  manId := 99
  modelTag := 5
  base := 0x100000
  bytes := 4
  wheels := [wheelW d]
  myPart := 3
  holders := []
  hostAddr := 0
  donePtr := 0
  idleMs := 1
  pulling := false
  pulls := []
  nextPull := 1
  lastMcast := 0
  lastWrite := 0
  gotEnd := false
  pulled := 0
def withLoad (l : Load) (ps : List Packet) : State := { colls0 with
  regs := tabInsert (tabInsert colls0.regs 0x41048 0x30000) (offVatQuota 1 2 (fitClass 2048)) 64
  time := { up.time with tb := 200000000000 * 2 ^ 24 }
  whl := { up.whl with epochs := [⟨7, 2, 1, true, 0, none, []⟩, .free, .free, .free], loads := [(0, l)], nextLoad := 1 }
  fab := { linked.fab with inbox := ps } }
def whlP (typ : Byte) (src : BitVec 15) (b : List Byte) : Packet := { pktIn typ 4 0 [(0x10, 8, 99), (0x18, 2, 0), (0x1C, 4, 0)] b with src := src }

theorem witness_wheel : (loadL []).owns (wheelW []) = true ∧ whlManifest (whlP 0x52 8 piece) = 99 ∧ whlWheel (whlP 0x52 8 piece) = 0 ∧ whlPiece (whlP 0x52 8 piece) = 0 ∧
    (withLoad (loadL []) []).regionPieces (loadL []) 0 4 = [(0x100000, 0x100000, 4)] ∧ (withLoad (loadL []) []).epochIdx 7 = some 0 ∧ (withLoad (loadL []) []).reg 0xB0140 = 0 ∧
    ((withLoad (loadL []) []).reg 0x41048).toNat = 0x30000 ∧ (withLoad (loadL []) []).flatPieces (0x30000 + 16 * 7) 16 = some [(0x30070, 0x30070, 16)] ∧ rangesMeet 0x100000 4 0x30070 16 = false ∧ (withLoad (loadL []) []).vatsQuiet = true := by decide +kernel
theorem witness_wheel_digest : sha256 piece = (wheelW (sha256 piece)).digest ∧ sha256 piece ≠ (wheelW []).digest := by decide +kernel
theorem witness_wheel_mcast : (withLoad (loadL []) [whlP 0x52 8 piece]).fromRow 8 = false ∧
    (withLoad (loadL []) []).loadsFor 1 99 (fun k => k.mode == 2 && k.phase != .failed) = [(0, loadL [])] := by decide +kernel
def pullQ : Pull := ⟨0, 0, 0, [0], true, 0⟩
def loadP : Load := { loadL [] with mode := 0, pulling := true, pulls := [(0, pullQ)], holders := [(5, 2), (6, 2)] }
theorem witness_wheel_pulled : (withLoad loadP []).loadsFor 1 99 (fun k => k.phase == .loading && (k.wants 0 0 4 || k.pulls.any (fun q => q.2.wheel == 0 && q.2.pieces.contains 0))) = [(0, loadP)] ∧
    (∀ h ∈ loadP.holders, (withLoad loadP []).isSelf h.1 = false) := by decide +kernel
theorem witness_wheel_unknown : (withLoad { loadL [] with manId := 98 } []).loadFor 1 99 (fun k => k.mode == 2 && k.phase != .failed) = none := by decide +kernel
theorem witness_wheel_relay : let s := withLoad (loadL []) [whlP 0x52 5 (zeroBytes 5)]
    s.fromRow 5 = true ∧ s.vats.hurt = [] ∧ s.loadsFor 1 99 (fun k => k.mode == 2 && k.phase != .failed) = [(0, loadL [])] ∧ (loadL []).wants 0 0 5 = false ∧ s.vatFor 1 2 ⟨2, 0, 0, 2 ^ 32⟩ = none ∧
    s.vatAllowed 1 2 (fitClass 2048) = true ∧ (s.pool (fitClass 2048)).sram.top = some 0 ∧ s.storeUsed + 14 * 2084 ≤ 2 ^ 29 := by decide +kernel
theorem witness_wheel_column : ∀ g ∈ columnOthers 0 0 0, (withLoad (loadL []) []).streamRoom g 2 := by
  unfold State.streamRoom
  decide +kernel
theorem witness_wheel_end : (withLoad (loadL []) []).fromRow 8 = false ∧ (withLoad (loadL []) []).loadsFor 1 99 (fun k => k.mode == 2 && (k.phase == .loading || k.phase == .waiting)) = [(0, loadL [])] := by decide +kernel
theorem witness_load_times : let s := withLoad (loadL []) []
    (loadL []).idleMs * 1000000 ≤ s.now - (loadL []).lastMcast ∧ (s.reg 0xB0010).toNat * 1000000 ≤ s.now - (loadL []).lastWrite ∧ s.load? 0 = some (loadL []) := by decide +kernel
theorem witness_load_round : let l := { loadP with wheels := [{ wheelW [] with roundAt := some 0 }] }
    l.wheels[0]? = some { wheelW [] with roundAt := some 0 } ∧ l.holders ≠ [] ∧ 1000000 ≤ (withLoad l []).now - 0 := by decide +kernel
theorem witness_pull_moves : loadP.pulls = [(0, pullQ)] ∧ (∀ y ∈ loadP.wheels, y.roundAt = none) ∧ loadP.wheels[0]? = some (wheelW []) ∧ (setAdd (wheelW []).refused 0).length < loadP.holders.length ∧
    10000000 ≤ (withLoad loadP []).now - pullQ.last ∧ loadP.holders[0]?.map (·.1) = some (whlP 0x54 5 []).src.toNat ∧ firstRun pullQ.pieces 63 = pullQ.pieces ∧ pullQ.first = whlPiece (whlP 0x54 5 []) ∧
    (withLoad loadP []).loadFor 1 99 (fun k => k.phase == .loading) = some (0, loadP) := by decide +kernel
theorem witness_pull_vats : ({ withLoad loadP [] with vats := { up.vats with held := [⟨⟨1, false, 0⟩, 1, 2, wheelTag 0 0 0⟩] } }.vatFor 1 2 (wheelTag 0 0 0)).isSome = true := by decide +kernel
theorem witness_pull_round : { loadP with holders := [(5, 2)] }.holders.length ≤ (setAdd (wheelW []).refused 0).length := by decide
theorem test_wheel_lands : leads (exec .whlMcast (withLoad (loadL (sha256 piece)) [whlP 0x52 8 piece])) (fun t => (t.epochEntry 0).st == 3 && t.readNat 0x100000 4 == 0x04030201 && t.readNat 0x30070 16 == 5 * 2 ^ 96 + 2 ^ 64 + 0x100000) = true := by decide +kernel

def epochBlk (op n : Nat) : List Byte := blk 64 [(0, 1, op), (2, 1, n)]
/-- Epoch 7 of context 1 is Ready, with a descriptor at the head of its ring. -/
def ready7 (b : List Byte) : State := { withLoad { loadL [] with phase := .resident } [] with
  host := (withDesc b).host
  regs := (0x100, 1) :: colls0.regs
  whl := { up.whl with epochs := [⟨7, 3, 1, true, 0, none, []⟩, .free, .free, .free], loads := [(0, { loadL [] with phase := .resident })], nextLoad := 1, admission := [] } }
theorem witness_declare : (ready7 (epochBlk 0x71 7)).headDesc 1 0 = some (epochBlk 0x71 7) ∧ tabWf 0 (ready7 (epochBlk 0x71 7)).whl.admission = true ∧ fieldZero (epochBlk 0x71 7) 8 56 = true ∧
    (ready7 []).epochIdx 7 = some 0 ∧ ((ready7 []).epochEntry 0).st = 3 ∧ ((ready7 []).epochEntry 0).owner = 1 ∧ (ready7 []).epochIdx 8 = none := by decide +kernel
theorem witness_declare_record : (ready7 (epochBlk 0x71 8)).canRecord 1 0 = true := by decide +kernel
/-- The reference the context leaves was the last of a Retiring epoch. -/
theorem witness_declare_frees : let s := { ready7 [] with whl := { (ready7 []).whl with epochs := [⟨7, 3, 1, true, 0, none, []⟩, ⟨6, 4, 1, false, 1, none, []⟩, .free, .free], admission := [(1, 6)] } }
    s.admissionOf 1 = 6 ∧ s.epochIdx 6 = some 1 ∧ (s.epochEntry 1).st = 4 ∧ s.epochUsers 6 = 1 := by decide +kernel
theorem witness_declare_shared : ({ ready7 [] with regs := [(0xB0140, 4)] }.shareAtFetch ⟨2, 0, 0x71, 0⟩ 0).testBit 2 = true := by decide +kernel
theorem witness_release : (ready7 (epochBlk 0x72 7)).load? 0 = some { loadL [] with phase := .resident } ∧ (ready7 []).epochUsers 7 = 0 ∧ fieldZero (epochBlk 0x72 7) 0x0A 54 = true ∧
    (∀ e ∈ (ready7 []).whl.epochs, e.draining ≠ some 0) ∧ 0 < { ready7 [] with whl := { (ready7 []).whl with admission := [(1, 7)] } }.epochUsers 7 := by decide +kernel
theorem witness_release_loading : ((withLoad (loadL []) []).epochEntry 0).st = 2 ∧ ((withLoad (loadL []) []).epochEntry 0).loadRef = true := by decide +kernel
theorem witness_release_adapter : ({ ready7 [] with whl := { (ready7 []).whl with adapters := [(5, ⟨2, 1, true, 3⟩)] } }.adapter 5) = ⟨2, 1, true, 3⟩ ∧ (∀ e ∈ (ready7 []).whl.epochs, e.draining = none) := by decide +kernel
theorem witness_release_nothing : ((ready7 []).adapter 5).st = 0 ∧ (∀ l ∈ { ready7 [] with whl := up.whl }.whl.loads, l.2.ctx ≠ 1) := by decide +kernel
theorem test_declare_not_ready : leads (exec (.epochDeclare 1 0) (ready7 (epochBlk 0x71 8))) (fun t => t.admissionOf 1 == 0 && (t.ring 1 0).head == 1 && (t.ring 1 0).cqTail == 1) = true := by decide +kernel

def pullP : Packet := { whlP 0x50 5 [] with opfield := opField [(0x10, 8, 99), (0x18, 2, 0), (0x1A, 2, 1), (0x1C, 4, 0)] }
/-- A holder of wheel 0 whose peer table names package 5's context 2. -/
def holding (l : Load) : State := { withLoad l [pullP] with
  regs := tabInsert colls0.regs (offMemPeerPtr 1) 0x8000
  memop := { up.memop with peerTab := [(1, [0, 0, 0, 0, 0, 0x82])] } }
def loadH : Load := { loadL [] with wheels := [{ wheelW [] with held := true, got := [0] }], phase := .resident }
theorem witness_pull : (holding loadH).whl.loads.filter (fun k => k.2.ctx == 1 && k.2.manId == 99 && (k.2.phase == .loading || k.2.phase == .resident)) = [(0, loadH)] ∧ (holding loadH).meetsUnheld [(0x100000, 0x100000, pieceLen (wheelW []) 0)] = false ∧ (holding loadH).peerCtx 1 5 = some 2 ∧
    pktOp pullP 0x1A 2 = 1 ∧ whlPiece pullP < pieceCount (wheelW []) ∧ (holding loadH).regionPieces loadH (0 + 2048 * 0) (pieceLen (wheelW []) 0) = [(0x100000, 0x100000, pieceLen (wheelW []) 0)] := by decide +kernel
theorem witness_pull_refused : (withLoad loadH []).peerCtx 1 5 ≠ some 2 ∧ (wheelW []).held = false ∧ { loadH with wheels := [] }.wheels[0]? = none ∧
    up.whl.loads = [] := by decide +kernel
theorem witness_pull_stream : (holding loadH).streamRoom 5 2 := by
  unfold State.streamRoom
  decide +kernel
theorem test_pull_is_served : leads (exec .whlPull (wr (holding loadH) [(0x100000, piece)])) (fun t => ((t.peer 5).txOf 2).unacked.map (fun u => (u.pkt.typ, u.pkt.payload)) == [(0x51, piece)]) = true := by decide +kernel

/-! ### The host interface -/

def nopBlk : List Byte := blk 64 [(0, 1, 1), (4, 4, 77)]
theorem witness_sq_tail : host.hears 1 = true ∧ host.sqEnabled 1 0 = true ∧ host.fnStopped 1 = false ∧ host.readRoom (64 * 16) = true ∧ 0 < (host.reg 0x2000208).toNat := by decide +kernel
/-- The ring of 64 slots takes a tail at most 64 past its head. -/
theorem witness_sq_tail_limits : (64 - (host.ring 1 0).tail).toNat ≤ ((host.ring 1 0).head + BitVec.ofNat 32 (host.reg 0x2000208).toNat - (host.ring 1 0).tail).toNat ∧
    ¬(65 - (host.ring 1 0).tail).toNat ≤ ((host.ring 1 0).head + BitVec.ofNat 32 (host.reg 0x2000208).toNat - (host.ring 1 0).tail).toNat ∧ (64 : W32) ≠ (host.ring 1 0).readTo := by decide +kernel
theorem witness_sq_disabled : host.sqEnabled 1 1 = false ∧ host.hears 1 = true := by decide +kernel
theorem test_sq_tail_reads : leads (exec (.sqTail 1 0 3) host) (fun t => t.host.pcieOut == [.read 1 0 192 0]) = true := by decide +kernel
theorem test_sq_tail_too_far : leads (exec (.sqTail 1 0 65) host) (fun t => (t.ctx? 1).any (fun x => x.phase == .ending)) = true := by decide +kernel
def reading (u : ReadUse) : State := { host with host := { host.host with reads := [(0, ⟨1, u⟩)], nextRead := 1 } }
theorem witness_descriptors : tabFind (reading (.descriptors 0 0 1)).host.reads 0 = some ⟨1, .descriptors 0 0 1⟩ ∧ 1 ∉ host.host.resetting := by decide +kernel
theorem test_descriptors_land : leads (exec (.hostReadCompletion 0 (.data nopBlk)) (reading (.descriptors 0 0 1))) (fun t => (t.ring 1 0).fetched == [(0, nopBlk)]) = true := by decide +kernel
def barrierBlk (x : Nat) : List Byte := blk 64 [(0, 1, 0x11), (9, 1, x)]
theorem witness_nop : (withDesc nopBlk).headDesc 1 0 = some nopBlk ∧ (fieldZero nopBlk 1 3 && fieldZero nopBlk 8 56) = true ∧ ((withDesc nopBlk).backlogOf 1).length < 65536 ∧ (withDesc nopBlk).canRecord 1 0 = true := by decide +kernel
theorem witness_barrier : (withDesc (barrierBlk 0)).headDesc 1 0 = some (barrierBlk 0) ∧ ((withDesc (barrierBlk 0)).ring 1 0).open_ = 0 ∧ (fieldZero (barrierBlk 0) 1 3 && fieldZero (barrierBlk 0) 8 56) = true := by decide +kernel
theorem witness_barrier_waits : ({ host with host := { host.host with rings := [(8, { RingState.reset with tail := 2, readTo := 2, head := 1, open_ := 1, fetched := [(1, barrierBlk 0)] })] } }.headDesc 1 0) = some (barrierBlk 0) := by decide +kernel
theorem witness_nop_bad : (fieldZero (putField nopBlk 9 1 1) 1 3 && fieldZero (putField nopBlk 9 1 1) 8 56) = false := by decide +kernel
/-- A full completion ring with one record waiting. -/
def waitingRec : State := { host with host := { host.host with rings := [(8, { RingState.reset with cqTail := 64 })], backlog := [(1, [(0, zeroBytes 32)])] } }
theorem witness_cq_head : waitingRec.hears 1 = true ∧ waitingRec.cqEnabled 1 0 = true ∧ ((1 : W32) - (waitingRec.ring 1 0).cqHead).toNat ≤ ((waitingRec.ring 1 0).cqTail - (waitingRec.ring 1 0).cqHead).toNat ∧
    waitingRec.backlogOf 1 = [(0, zeroBytes 32)] ∧ ((waitingRec.ring 1 0).cqTail - 1).toNat < (waitingRec.reg 0x2000218).toNat := by decide +kernel
theorem test_cq_head_drains : leads (exec (.cqHead 1 0 1) waitingRec) (fun t => t.backlogOf 1 == [] && (t.ring 1 0).cqTail == 65) = true := by decide +kernel
/-- PF0's first ring pair and its event ring are enabled. -/
def pf (b : List Byte) : State := { host with
  regs := (0x100, 0x10101) :: host.regs
  host := { host.host with rings := [(0, { RingState.reset with tail := 1, readTo := 1, fetched := [(0, b)] })] } }
theorem witness_evq : (pf []).hears 0 = true ∧ (pf []).evqEnabled = true ∧ (pf []).host.evBacklog = [] ∧ ((0 : W32) - (pf []).host.evq.cqHead).toNat ≤ ((pf []).host.evq.cqTail - (pf []).host.evq.cqHead).toNat ∧
    ¬((1 : W32) - (pf []).host.evq.cqHead).toNat ≤ ((pf []).host.evq.cqTail - (pf []).host.evq.cqHead).toNat := by decide +kernel
def moderated : State := { host with
  time := { up.time with tb := 5000 * 2 ^ 24 }
  regs := host.regs ++ [(0x2000220, 0x102), (0x2000228, 5 * 65536 + 3)]
  host := { host.host with rings := [(8, { RingState.reset with modCount := 1, modFirst := some 0 })], msix := [(66, ⟨0, 0, false⟩)] } }
theorem witness_moderation : (moderated.ring 1 0).modFirst = some 0 ∧ (moderated.reg 0x2000220).toNat.testBit 8 = true ∧ (moderated.reg 0x2000228).toNat / 2 ^ 16 % 2 ^ 10 * 1000 ≤ moderated.now - 0 ∧
    (moderated.reg 0x2000228).toNat / 2 ^ 16 % 2 ^ 10 ≠ 0 := by decide +kernel
theorem test_moderation_fires : leads (exec (.cqModTimer 1 0) moderated) (fun t => t.host.pcieOut == [.msix 1 2]) = true := by decide +kernel

def hostCopyBlk (dir : Nat) : List Byte := blk 64 [(0, 1, 0x10), (1, 1, dir), (4, 4, 7), (8, 8, 4), (0x10, 8, 0x5000), (0x18, 8, 0x20000)]
def copying (b : List Byte) : State := { withDesc b with regs := tabInsert host.regs (offVatQuota 1 3 0) 4 }
theorem witness_host_copy : (copying (hostCopyBlk 1)).sound = true ∧ (copying (hostCopyBlk 1)).canRecord 1 0 = true ∧ (copying (hostCopyBlk 1)).headDesc 1 0 = some (hostCopyBlk 1) ∧ (copying (hostCopyBlk 1)).copyFields 1 (hostCopyBlk 1) = true ∧
    (copying (hostCopyBlk 0)).copyFields 1 (hostCopyBlk 0) = true ∧ (copying (hostCopyBlk 1)).flatPieces 0x20000 4 = some [(0x20000, 0x20000, 4)] ∧ (copying []).vatFor 1 3 ⟨3, 0, 0, 0⟩ = none ∧
    (copying []).vatAllowed 1 3 (fitClass 4) = true ∧ (copying []).vats.hurt = [] ∧ (copying []).readRoom 4 = true ∧ (copying []).meetsUnheld [(0x20000, 0x20000, 4)] = false ∧ ((copying []).pool (fitClass 4)).sram.top = some 0 ∧ (copying []).vats.pools.length = 6 := by decide +kernel
def copyK : HostCopyState := ⟨⟨1, 0, 0x10, 7⟩, false, 4, 0x5000, 0x20000, 4, 0⟩
def landing : State := { reading (.copy 0 0 4) with host := { (reading (.copy 0 0 4)).host with copies := [(0, copyK)], nextCopy := 1 } }
theorem witness_host_copy_lands : landing.vatsQuiet = true ∧ copyK.nextOff = 4 ∧ tabFind landing.host.reads 0 = some ⟨1, .copy 0 0 4⟩ ∧ tabFind landing.host.copies 0 = some copyK ∧ landing.canRecord 1 0 = true ∧ landing.flatPieces 0x20000 4 = some [(0x20000, 0x20000, 4)] := by decide +kernel
theorem witness_host_copy_alone : ∀ r ∈ landing.host.reads, ∀ o m, r.2.use = .copy 0 o m → r.1 = 0 := by
  intro r h _ _ _
  have : r = (0, ⟨1, .copy 0 0 4⟩) := List.mem_singleton.mp h
  rw [this]
theorem test_copy_lands : leads (exec (.hostReadCompletion 0 (.data [1, 2, 3, 4])) landing) (fun t => t.readNat 0x20000 4 == 0x04030201 && t.host.copies == [] && (t.ring 1 0).cqTail == 1) = true := by decide +kernel
theorem test_copy_aborts : leads (exec (.hostReadCompletion 0 .abort) landing) (fun t => t.host.copies == [] && (t.ring 1 0).cqTail == 1) = true := by decide +kernel

theorem witness_reset : host.fnExists 1 = true ∧ 1 ∉ host.host.resetting ∧ host.host.copies = [] ∧ 0 ∉ host.host.resetting ∧ { host with host := { host.host with vfEnable := false } }.host.vfEnable = false := by decide +kernel
theorem witness_reset_done : let s := { host with host := { host.host with resetting := [1] }, ten := up.ten }
    1 ∈ s.host.resetting ∧ s.ctx? 1 = none ∧ s.ten.ctxs = [] := by decide +kernel
theorem test_reset_ends_the_context : leads (exec (.functionLevelReset 1) host) (fun t => t.host.resetting == [1] && (t.ctx? 1).any (fun x => x.phase == .ending)) = true := by decide +kernel
theorem test_reset_done_registers : leads (exec (.functionResetDone 1) { host with host := { host.host with resetting := [1] }, ten := up.ten }) (fun t => t.reg 0x2000100 == 0 && t.host.resetting == []) = true := by decide +kernel

/-! ### Tenant contexts -/

def createBlk (n save rep : Nat) : List Byte := blk 64 [(0, 1, 0x80), (2, 1, 2), (8, 2, n), (0x10, 8, 99), (0x18, 8, save), (0x20, 8, rep)]
def createS : State := { pf (createBlk 2 0x20000000 0x30000000) with
  time := { up.time with acquired := true }
  sec := { up.sec with fuses := { up.sec.fuses with lcBits := 7 } } }
theorem witness_create : createS.headDesc 0 0 = some (createBlk 2 0x20000000 0x30000000) ∧ createS.canRecord 0 0 = true ∧ tabWf CoreState.reset createS.cores = true ∧ createS.time.acquired = true ∧
    createFields (createBlk 2 0x20000000 0x30000000) = true ∧ createS.ctx? 2 = none ∧ createS.lcAllows 2 = true ∧ createS.fnExists 2 = true ∧ 2 ≤ createS.freeClusters.length ∧
    createS.areaFree 0x20000000 (2 ^ 20 + 2 * 2 ^ 24) = true ∧ createS.areaFree 0x30000000 (196 * 2 ^ 20) = true ∧ rangesMeet 0x20000000 (2 ^ 20 + 2 * 2 ^ 24) 0x30000000 (196 * 2 ^ 20) = false := by decide +kernel
theorem test_create : leads (exec (.ctxCreate 0 0) createS) (fun t => (t.ctx? 2).any (fun x => x.clusters == [1, 2] && x.count == 2 && x.srKey == 99) && (t.cluster 2).wiping && (t.cluster 2).owner == some (2, 1)) = true := by decide +kernel
theorem test_create_areas_meet : leads (exec (.ctxCreate 0 0) { createS with host := (pf (createBlk 2 0x20000000 0x20000000)).host }) (fun t => (t.ctx? 2).isNone && (t.ring 0 0).head == 1) = true := by decide +kernel
theorem witness_wipe_done : host.ctx? 1 = some ctxM := by decide +kernel
def mapBlk : List Byte := blk 64 [(0, 1, 0x81), (2, 1, 1), (8, 1, 5), (0x10, 8, 0x40000000), (0x18, 4, 0x1F000001)]
theorem witness_map : (pf mapBlk).headDesc 0 0 = some mapBlk ∧ fieldZero mapBlk 9 7 = true ∧ fieldZero mapBlk 0x20 32 = true ∧ (BitVec.ofNat 128 (fieldN mapBlk 0x10 16)).toNat / 2 ^ 95 % 2 ^ 33 = 0 ∧
    mapFrames (BitVec.ofNat 128 (fieldN mapBlk 0x10 16)) = 1 ∧ mapBase (BitVec.ofNat 128 (fieldN mapBlk 0x10 16)) % 65536 = 0 ∧
    (pf mapBlk).mapConflict 1 ctxM (BitVec.ofNat 128 (fieldN mapBlk 0x10 16)) = false := by decide +kernel
def keyBlk (k : Nat) : List Byte := blk 64 [(0, 1, 0x86), (2, 1, 1), (8, 1, k)]
theorem witness_keyset : (pf (keyBlk 4)).headDesc 0 0 = some (keyBlk 4) ∧ fieldZero (keyBlk 4) 0x18 40 = true ∧ (pf (keyBlk 4)).sec.rindWiped = false ∧ (pf (keyBlk 4)).sec.rindBusy = false ∧
    fieldZero (zeroBytes 64) 32 32 = true ∧ fieldN (keyBlk 3) 8 1 = 3 ∧ testKey.length = 64 := by decide +kernel
theorem witness_keyset_key : (ecKey testKey).isSome = true := by decide +kernel
theorem test_keyset_bad_point : leads (exec (.ctxKeyset 0 0 (.data (zeroBytes 64))) (pf (keyBlk 3))) (fun t => t.sec.rind.ctxKeys == [] && (t.ring 0 0).cqTail == 1) = true := by decide +kernel

def destroyBlk : List Byte := blk 64 [(0, 1, 0x84), (2, 1, 1)]
theorem witness_destroy : (pf destroyBlk).headDesc 0 0 = some destroyBlk ∧ fieldZero destroyBlk 8 56 = true ∧ (pf destroyBlk).ctx? 1 = some ctxM ∧ ctxM.phase ≠ .ending := by decide +kernel
/-- A context whose teardown has begun. -/
def ctxE : CtxState := { ctxM with phase := .ending, ending := some ⟨2, 0, 7, 9, 0, 0, false⟩ }
def tearing : State := { pf [] with ten := { up.ten with ctxs := [(1, ctxE)] } }
theorem witness_drain : tearing.ctx? 1 = some ctxE ∧ tearing.drainOpen 1 = false ∧ tearing.evqEnabled = true ∧ tearing.evqRoom = true ∧ tearing.host.resetting = [] ∧ tearing.sec.home = none ∧ ctxE.owed = [] ∧
    tearing.seq.slots = [] ∧ tearing.whl.epochs = [.free, .free, .free, .free] ∧ tearing.vats.held = [] ∧ tearing.press.marks = [] := by decide +kernel
theorem witness_drain_unfailed : ∀ k, (tearing.cluster k).failCtx ≠ some 1
  | 0 => by decide +kernel
  | n + 1 => by
    show (tabGet ClusterState.reset tearing.clusters (n + 1)).failCtx ≠ some 1
    simp [tabGet, tabFind, tearing, pf, host, ClusterState.reset]
theorem witness_drain_waits : ({ tearing with memop := { up.memop with slots := [(0, slotW 0x10 none)] } }.memop.slots.any (fun q => q.2.ctx == 1 && (q.2.kind == 0x10 || q.2.kind == 0x13))) = true := by decide +kernel
theorem test_drain_ends : leads (exec (.teardownDrainEnd 1) tearing) (fun t => t.ten.ctxs == [] && (t.cluster 0).owner == none && t.host.evq.cqTail == 1 && (t.reg 0x2000010).toNat == 0x21) = true := by decide +kernel

def onlyBlk (op : Nat) : List Byte := blk 64 [(0, 1, op), (2, 1, 1)]
theorem witness_preempt : (pf (onlyBlk 0x82)).headDesc 0 0 = some (onlyBlk 0x82) ∧ ctxOnly (onlyBlk 0x82) = true ∧ ctxM.phase = .active ∧ tabWf memDefault (pf []).mem = true ∧ ctxM.clusters.Nodup ∧
    (∀ k ∈ ctxM.clusters, k < 200) := by decide +kernel
def phased (x : CtxState) : State := { pf (onlyBlk 0x83) with ten := { up.ten with ctxs := [(1, x)] } }
theorem witness_resume_ctx : (phased { ctxM with phase := .suspended, clusters := [] }).headDesc 0 0 = some (onlyBlk 0x83) ∧ ctxM.count ≤ (phased ctxM).freeClusters.length := by decide +kernel
theorem witness_cores_stopped : (phased { ctxM with phase := .stopping }).sound = true ∧ ((phased ctxM).flatPieces ctxM.saveBase.toNat (2 ^ 20 + ctxM.count * 2 ^ 24)).isSome = true := by decide +kernel
def savedV : SavedState := ⟨[(5, { CoreState.reset with run := .stopped })], [(2 ^ 42 + 9, 7)]⟩
def dP : DescRef := ⟨0, 0, 0x82, 3⟩
theorem witness_preempt_complete : let x := { ctxM with phase := .stopping, stopped := true, saved := some savedV, preempt := some dP }
    (phased x).ctx? 1 = some x ∧ (phased x).drainOpen 1 = false ∧ (phased x).canRecord 0 0 = true := by decide +kernel
theorem witness_resume_complete : let x := { ctxM with phase := .resuming, saved := some savedV, resume := some dP }
    (phased x).ctx? 1 = some x ∧ (phased x).canRecord 0 0 = true ∧ tabWf memDefault savedV.mem = true ∧ tabWf CoreState.reset savedV.cores = true ∧
    (∀ e ∈ savedV.mem, 2 ^ 42 ≤ e.1 ∧ clusterOfPhys e.1 < x.clusters.length) ∧ (∀ e ∈ savedV.cores, e.1 < 128 * x.clusters.length) ∧ x.replies = [] ∧ x.log = [] ∧ x.heldWrites = [] := by decide +kernel
theorem witness_resume_verifies : let x := { ctxM with phase := .resuming, saved := some savedV, resume := some dP }
    (phased x).sound = true ∧ (phased x).tagsVerify 1 x = true ∧ ((phased x).seqCtx 1).held = none := by decide +kernel
/-- A context with a KEEP_KEY whose save area holds no tags does not resume. -/
def untagged : State := let s := phased { ctxM with phase := .resuming, clusters := [3], saved := some savedV, resume := some dP }
  { s with sec := { s.sec with rind := { s.sec.rind with ctxKeys := [(12, zeroBytes 32)] } } }
theorem witness_resume_bad_tag : tabGet [] untagged.sec.rind.ctxKeys (8 * 1 + 4) = zeroBytes 32 ∧ untagged.damage = [] := by decide +kernel
/-- The first word of the save area at 0 is poisoned. -/
theorem witness_resume_poison : let s := { phased { ctxM with phase := .resuming } with dramPoison := [0] }
    s.damage = [] ∧ ∃ w ∈ s.dramPoison, ∃ p ∈ (s.flatPieces 0 (2 ^ 20 + 1 * 2 ^ 24)).getD [], rangesMeet (32 * w) 32 p.2.1 p.2.2 = true := by decide +kernel
theorem test_resume_restores : leads (exec (.resumeComplete 1 true) (phased { ctxM with phase := .resuming, clusters := [3], saved := some savedV, resume := some dP })) (fun t =>
    (t.core (128 * 3 + 5)).run == .running && t.byteAt (2 ^ 42 + 3 * 2 ^ 22 + 9) == 7 && (t.ctx? 1).any (fun x => x.phase == .active)) = true := by decide +kernel

def reclaimBlk : List Byte := blk 64 [(0, 1, 0x85), (8, 8, 2)]
def ctxL : CtxState := { ctxM with lent := true }
def reclaimS : State := { pf reclaimBlk with ten := { up.ten with ctxs := [(1, ctxL)] } }
theorem witness_reclaim : reclaimS.headDesc 0 0 = some reclaimBlk ∧ reclaimFields reclaimBlk = true ∧ fieldN reclaimBlk 8 8 = 2 ^ 1 ∧ fieldN reclaimBlk 0x18 4 = 0 ∧ reclaimS.keepers [1] = [] ∧ reclaimS.coll.colls = [] := by decide +kernel
def mapKeep : BitVec 128 := BitVec.ofNat 128 (1 * 2 ^ 64 + 0x1F * 2 ^ 88 + 2 ^ 93)
def ctxK : CtxState := { ctxL with phase := .reclaiming, stopped := true, map := [(0, mapKeep)] }
def keepR : KeepRegion := ⟨1, 0, true, 0x9000, 0, [], false, false⟩
def keeping : State := { pf [] with ten := { up.ten with ctxs := [(1, ctxK)], reclaim := [⟨0, dP, [1], [keepR], 0, 0, false⟩], nextReclaim := 1 } }
theorem witness_reclaim_copies : keeping.ctx? 1 = some ctxK ∧ keeping.drainOpen 1 = false ∧ keeping.sound = true ∧ mapFrames mapKeep = 1 ∧ keeping.flatPieces (mapBase mapKeep) 65536 = some [(0, 0, 65536)] ∧
    tabGet [] keeping.sec.rind.ctxKeys 12 = [] ∧ keeping.memop.slots = [] ∧ 19500000000 ≤ { keeping with time := { up.time with tb := 19500000000 * 2 ^ 24 } }.now - 0 := by decide +kernel
theorem test_reclaim_deadline : leads (exec .reclaimDeadline { keeping with time := { up.time with tb := 19500000000 * 2 ^ 24 } }) (fun t => (t.ctx? 1).any (fun x => x.phase == .ending)) = true := by decide +kernel

def accounted : State := { pf [] with
  regs := [(0x100, 0x10101), (0xB0028, 1), (0xB0030, 0x7000), (0xB0038, 4)]
  ten := { up.ten with ctxs := [(1, ctxL)], edges := [(0, 1000, [(1, [])])] }
  power := { up.power with railTime := 1000 } }
theorem witness_account : (accounted.reg 0xB0028).toNat.testBit 0 = true ∧ 0 < (accounted.reg 0xB0038).toNat ∧ accounted.evqEnabled = true ∧ accounted.evqRoom = true ∧ 0 ∉ accounted.host.resetting := by decide +kernel
theorem test_account_record : leads (exec .acctWindowEnd accounted) (fun t => (t.reg 0xB0040).toNat == 1 && t.host.pcieOut.length ≥ 2 && t.ten.edges == []) = true := by decide +kernel
theorem witness_energy : { pf [] with time := { up.time with tb := 10000 * 2 ^ 24 } }.now - (pf []).power.railTime = 10000 ∧ (pf []).now - (pf []).power.railTime < 10000 ∧ accounted.power.railTime = 1000 := by decide +kernel
theorem test_energy : leads (exec (.railEnergyInterval [100]) { accounted with time := { up.time with tb := 11000 * 2 ^ 24 }, ten := { accounted.ten with engSteps := [(4, 3)] } }) (fun t => (t.reg 0x30300).toNat == 100 && (t.reg 0x41528).toNat == 100) = true := by decide +kernel

/-! ### Reset, boot and security -/

theorem witness_reset_running : up.sec.boot = .running ∧ up.power.tripped = false ∧ (10000 : Nat) ≤ 10000 ∧ ({ up with sec := { up.sec with boot := .recovery } }.sec.boot = .recovery) := by decide
theorem witness_pkg_reset : host.hears 0 = true ∧ (0x7A3C51E9 : W64).toNat % 2 ^ 32 = 0x7A3C51E9 ∧ (0xFFFFFFFF7A3C51E9 : W64).toNat % 2 ^ 32 = 0x7A3C51E9 := by decide +kernel
def heldS (steps : Nat) (ok lost : Bool) : State := { up with
  sec := { up.sec with boot := .held }
  time := { up.time with clockLost := lost }
  power := { up.power with held := steps, railsOk := ok } }
theorem witness_hold_over : (heldS 7813 true true).sec.boot = .held ∧ (heldS 7813 true true).power.sysRstN = true ∧ (heldS 7813 true true).power.railsOk = true ∧ (heldS 7813 true true).power.browned = false ∧
    (heldS 7813 true true).power.held = 7813 ∧ (heldS 7812 true false).power.held < 7813 ∧ (heldS 7813 false false).power.railsOk = false := by decide
theorem test_release : leads (exec .packageResetRelease (heldS 7813 true true)) (fun t => t.sec.boot == .wiping && (t.reg 0x30000).toNat.testBit 3) = true ∧
    leads (exec .packageResetRelease (heldS 7812 true false)) (fun t => t.sec.boot == .held) = true := by decide +kernel
/-- A rail that leaves its limits starts the count again. -/
theorem test_hold_counts : leads (exec (.timebaseStep .quiet) (heldS 5 true false)) (fun t => t.power.held == 6) = true ∧
    leads (exec (.timebaseStep { StepEnv.quiet with rails := some (false, false) }) (heldS 5 true false)) (fun t => t.power.held == 0 && t.power.browned) = true := by decide +kernel
theorem test_wrong_key : leads (exec (.pkgReset 0x7A3C51E8) host) (fun t => t == host) = true := by decide +kernel
theorem test_right_key : leads (exec (.pkgReset 0x7A3C51E9) host) (fun t => t.sec.boot == .held && t.regs == [] && t.ten.ctxs == []) = true := by decide +kernel

/-- The least image, of 4 KiB, signed with the test key. -/
def imgBody : List Byte := blk 64 [(0, 4, 0x57464B54), (4, 2, 1), (6, 1, 3), (8, 4, 4096), (0x10, 8, 21)] ++ (testKey ++ zeroBytes 3904)
def img : List Byte := imgBody ++ (be32 (gx256 % n256) ++ be32 0x898712cf9a8afb9d5527cfdca376f1aad813f3208855f385d4d536e16822eb71)
def vendor : State := { State.reset with sec := { State.reset.sec with fuses := { State.reset.sec.fuses with vendorHash := sha256 testKey, lcBits := 7 }, flash := { State.reset.sec.flash with image := img } } }
theorem witness_image : vendor.imageOk img = true := by decide +kernel
theorem witness_image_whole : vendor.sec.flash.torn = false ∧ vendor.net.badDies = [] ∧ vendor.sec.flashing = none := by decide
theorem witness_image_bad : vendor.imageOk [] = false ∧ vendor.sec.boot = .wiping ∧ vendor.lcState ≠ 0 ∧ vendor.sec.flash.mark = none ∧ vendor.press.wiping ≠ [] := by decide +kernel
theorem test_boot_torn : leads (exec .tableSramWipeDone { vendor with sec := { vendor.sec with flash := { vendor.sec.flash with torn := true } } }) (fun t => t.sec.boot == .recovery) = true := by decide +kernel
theorem test_boot_without_image : leads (exec .tableSramWipeDone { vendor with sec := { vendor.sec with flash := State.reset.sec.flash } }) (fun t => t.sec.boot == .recovery && t.sec.rindBusy && t.sec.flash.bootCount == 1) = true := by decide +kernel
def marked (w : List Nat) : State := { vendor with press := { vendor.press with wiping := w }, sec := { vendor.sec with flash := { vendor.sec.flash with mark := some ⟨0xF, []⟩ } } }
theorem witness_mark : (marked [3]).sec.flash.mark = some ⟨0xF, []⟩ ∧ (marked [3]).press.wiping ≠ [] ∧ (marked []).press.wiping = [] ∧ { vendor with sec := { vendor.sec with fuses := { vendor.sec.fuses with lcDecom := true } } }.lcState = 0 := by decide +kernel
theorem test_mark_blows_fuses : leads (exec .tableSramWipeDone (marked [])) (fun t => t.sec.boot == .held && t.sec.fuses.lcBits == 0xF && t.sec.flash.mark == none) = true := by decide +kernel
theorem witness_press_wiped : 3 ∈ (marked [3]).press.wiping ∧ (marked [3]).sec.boot ≠ .held ∧ (marked [3]).life.live.stackBytes.length = 12 ∧ [3].filter (· != 3) = ([] : List Nat) ∧ [3, 4].filter (· != 3) ≠ ([] : List Nat) ∧
    up.sec.transition = none := by decide +kernel
/-- Recovery waits for a push of 4,096 bytes at 0x5000. -/
def pushed : State := { vendor with regs := [(0x708, 0x5000), (0x710, 4096)], sec := { vendor.sec with boot := .recovery, bootCode := 3 } }
theorem witness_push : pushed.sec.boot = .recovery ∧ (1 : W64).toNat.testBit 0 = true ∧ pushed.host.push = none ∧ pushed.host.reads = [] ∧ pushed.host.resetting = [] ∧ 0 < (pushed.reg 0x710).toNat ∧ pushed.power.tripped = false := by decide +kernel
theorem test_push_reads : leads (exec (.rcvGo 1 4096) pushed) (fun t => t.host.pcieOut == (List.range 8).map (fun i => .read 0 (0x5000 + 512 * i) 512 0) && t.sec.bootCode == 3) = true := by decide +kernel
/-- The image's one part is on its way. -/
def pushing : State := { pushed with host := { pushed.host with push := some ⟨4096, 4096, 4096, []⟩, reads := [(0, ⟨0, .image 0 4096⟩)], nextRead := 1 } }
theorem witness_push_part : pushing.host.push = some ⟨4096, 4096, 4096, []⟩ ∧ tabFind pushing.host.reads 0 = some ⟨0, .image 0 4096⟩ ∧ (tabInsert ([] : Tab (List Byte)) 0 ([1] : List Byte)).length = ceilDiv 4096 4096 := by decide +kernel
theorem test_push_arrives : leads (exec (.hostReadCompletion 0 (.data [1, 2])) pushing) (fun t => t.sec.bootCode == 4 && t.sec.checking == some [1, 2]) = true := by decide +kernel
theorem witness_push_check : let s := { pushed with sec := { pushed.sec with bootCode := 4, checking := some [1, 2] } }
    s.sec.checking = some [1, 2] ∧ s.host.push = none ∧ s.host.rings = [] ∧ s.host.copies = [] ∧ s.whl.loads = [] ∧ s.coll.colls = [] ∧ s.ten.reclaim = [] ∧ s.sec.flashing = none ∧ s.net.badDies = [] := by decide +kernel
theorem test_push_fails : leads (exec (.timebaseStep .quiet) { pushed with sec := { pushed.sec with bootCode := 4, checking := some [1, 2] } }) (fun t => t.sec.bootCode == 3 && (t.reg 0x720).toNat == 0x150) = true := by decide +kernel
def flashBlk : List Byte := blk 64 [(0, 1, 0x12), (8, 8, 4096)]
theorem witness_flash : (pf flashBlk).headDesc 0 0 = some flashBlk ∧ fieldZero flashBlk 1 3 = true ∧ fieldZero flashBlk 0x18 40 = true ∧ (pf flashBlk).canRecord 0 0 = true ∧ (pf flashBlk).imageOk [] = false ∧ (pf flashBlk).sec.flashing = none ∧
    (pf flashBlk).readRoom (min 4096 (pf flashBlk).host.link.maxRead) = true := by decide +kernel
/-- An image that verifies is being written to flash. -/
def flashS (ok : Bool) : State := { pf [] with sec := { (pf []).sec with flashing := some ⟨⟨0, 0, 0x12, 0⟩, [1], ok⟩, flash := { (pf []).sec.flash with torn := true } } }
theorem witness_flashing : (flashS true).sec.flashing = some ⟨⟨0, 0, 0x12, 0⟩, [1], true⟩ ∧ (flashS true).sec.checking = none ∧ (flashS true).sec.boot = .running ∧ (flashS true).canRecord 0 0 = true ∧
    { pf flashBlk with sec := (flashS true).sec }.headDesc 0 0 = some flashBlk := by decide +kernel
theorem test_flash_ends : leads (exec (.timebaseStep .quiet) (flashS true)) (fun t => t.sec.flash.image == [1] && !t.sec.flash.torn && t.sec.flashing == none) = true ∧
    leads (exec (.timebaseStep .quiet) (flashS false)) (fun t => t.sec.flash.torn) = true := by decide +kernel
/-- An unlock attempt in state Returned, with a credential signed by the test key. -/
def unlocking (s : W64) : State := { up with sec := { up.sec with
  fuses := { up.sec.fuses with lcBits := 0xF, debugHash := sha256 testKey }
  rindBusy := true
  challenge := List.replicate 32 7
  unlock := some ⟨testKey, s, List.replicate 32 7, sign (leBytes 8 s.toNat ++ List.replicate 32 7)⟩ } }
theorem witness_unlock : (unlocking 0).lcState = 0xF ∧ (unlocking 0).sec.serial = 0 ∧ sha256 testKey = (unlocking 0).sec.fuses.debugHash ∧ (List.replicate 32 (7 : Byte)).length = 32 := by decide +kernel
theorem witness_unlock_signed : ecdsaVerify testKey (leBytes 8 0 ++ List.replicate 32 7) (sign (leBytes 8 0 ++ List.replicate 32 7)) = true := by decide +kernel
theorem test_unlock : leads (exec .rindWipeDone (unlocking 0)) (fun t => t.sec.debugOpen && t.sec.unlock == none) = true := by decide +kernel
theorem test_unlock_of_another_part : leads (exec .rindWipeDone (unlocking 1)) (fun t => !t.sec.debugOpen && t.sec.unlock == none) = true := by decide +kernel
theorem test_rind_wiped : leads (exec .rindWipeDone { up with sec := { up.sec with rindBusy := true } }) (fun t => t.sec.rindWiped && !t.sec.rindBusy && !t.power.alertN) = true := by decide +kernel

def attestBlk (op : Nat) : List Byte := blk 64 [(0, 1, op), (4, 4, 7)]
def lifeS (op lc : Nat) : State := { pf (attestBlk op) with sec := { up.sec with rind := { up.sec.rind with identity := some [] }, fuses := { up.sec.fuses with lcBits := BitVec.ofNat 4 lc, debugHash := sha256 testKey } } }
theorem witness_attest : (lifeS 0x88 7).headDesc 0 0 = some (attestBlk 0x88) ∧ (lifeS 0x88 7).canRecord 0 0 = true ∧ fieldZero (attestBlk 0x88) 0x20 32 = true ∧ fieldZero (attestBlk 0x88) 8 8 = true ∧
    (lifeS 0x88 7).sec.rind.identity.isSome = true ∧ (zeroBytes 32).length = 32 ∧ (lifeS 0x88 7).readRoom 32 = true ∧ (lifeS 0x89 3).readRoom 64 = true := by decide +kernel
theorem witness_deploy : (lifeS 0x89 3).headDesc 0 0 = some (attestBlk 0x89) ∧ (lifeS 0x89 3).lcState = 3 ∧ (lifeS 0x89 3).sec.transition = none ∧ (lifeS 0x89 3).sec.flash.mark = none ∧ testKey.length = 64 := by decide +kernel
theorem test_deploy : leads (exec (.lcDeploy 0 0 (.data testKey)) (lifeS 0x89 3)) (fun t => t.host.noAccept && t.sec.transition.isSome && t.sec.fuses.lcBits == 3) = true := by decide +kernel
def relayed : List Byte := blk 32 [(0, 1, 0x60), (2, 2, 0), (6, 2, 5)]
theorem witness_relay : (fieldN relayed 1 1).testBit 5 = false ∧ { linked with host := (pf (attestBlk 0x8A)).host, regs := (pf []).regs }.headDesc 0 0 = some (attestBlk 0x8A) ∧ relayOk relayed = true ∧ fieldN relayed 6 2 % 2 ^ 15 = 5 := by decide +kernel
theorem witness_relay_stream : linked.streamRoom 5 3 := by
  unfold State.streamRoom
  decide +kernel
theorem witness_provision : { lifeS 0 1 with ten := up.ten }.lcState = 1 ∧ (lifeS 0 1).sec.transition = none ∧ { lifeS 0 1 with ten := up.ten }.ten.ctxs = [] ∧ sha256 testKey = (lifeS 0 1).sec.fuses.debugHash := by decide +kernel
theorem witness_factory_signed : ecdsaVerify testKey [1, 2] (sign [1, 2]) = true := by decide +kernel
theorem test_provision_refused : leads (exec (.provision ⟨[], [1, 2], sign [1, 2]⟩ []) { lifeS 0 1 with ten := up.ten }) (fun t => t.sec.transition == none) = true := by decide +kernel

/-! ### Management -/

def cmdBody (code nonce : Nat) (b : List Byte) : List Byte := blk 32 [(0, 2, code), (4, 1, 2), (8, 4, 0), (0x0C, 2, b.length), (0x10, 8, nonce)] ++ b
def signedCmd (code nonce : Nat) (b : List Byte) : List Byte := cmdBody code nonce b ++ sign (cmdBody code nonce b)
def cmdP (p : List Byte) : Packet := pktIn 0x60 6 0 [] p
/-- A Deployed package with a management key in slot 2. -/
def managed (l : List Packet) : State := { withPeer .reset l with sec := { up.sec with
  fuses := { up.sec.fuses with lcBits := 7 }
  rind := { up.sec.rind with mgmtKeys := [(2, testKey)], nonces := [(2, ⟨some 100, [100]⟩)], identity := some [], romMeas := zeroBytes 32, fwMeas := zeroBytes 32 } } }
def homeCmd : List Byte := signedCmd 3 200 [9, 0]
theorem witness_mgmt : tabFind (managed []).sec.rind.mgmtKeys (mgKey homeCmd) = some testKey ∧ mgBoot homeCmd = (managed []).sec.flash.bootCount ∧ (tabGet NonceWindow.empty (managed []).sec.rind.nonces (mgKey homeCmd)).high = some 100 ∧
    100 < mgNonce homeCmd + 1024 ∧ mgNonce homeCmd ∉ [100] ∧ (managed []).mgValid homeCmd = true := by decide +kernel
theorem witness_mgmt_signed : mgSigned testKey homeCmd = true := by decide +kernel
theorem witness_mgmt_refused : (managed []).mgCheck (putField homeCmd 4 1 3) = some 0xA3 ∧ mgKey (putField homeCmd 4 1 3) ∉ (managed []).sec.rind.mgmtKeys.map (·.1) := by decide +kernel
theorem witness_mgmt_stream : (managed []).streamRoom 5 3 := by
  unfold State.streamRoom
  decide +kernel
theorem witness_rind_wiped : { managed [] with sec := { (managed []).sec with rindWiped := true } }.sec.rindWiped = true := by decide
theorem test_mgmt_accepts : leads (exec .mgmtCmd (managed [cmdP homeCmd])) (fun t => t.sec.accepted == [⟨5, homeCmd⟩] && t.fab.inbox == []) = true := by decide +kernel
theorem test_mgmt_replay : leads (exec .mgmtCmd (managed [cmdP (signedCmd 3 100 [9, 0])])) (fun t => t.sec.accepted == []) = true := by decide +kernel

/-- A command waits to be done. -/
def toDo (code : Nat) (b : List Byte) : State := { managed [] with sec := { (managed []).sec with accepted := [⟨5, cmdBody code 200 b⟩] } }
theorem witness_to_do : (toDo 3 [9, 0]).sec.accepted = [⟨5, cmdBody 3 200 [9, 0]⟩] ∧ (toDo 3 []).sec.home = none ∧ (toDo 3 []).fab.unrouted = [] ∧ mgCode (cmdBody 3 200 [9, 0]) = 3 ∧ (toDo 1 []).sec.rind.romMeas.length = 32 ∧
    (toDo 1 []).sec.rind.fwMeas.length = 32 ∧ (toDo 1 []).life.live.bytes.length ≤ 1944 := by decide +kernel
theorem witness_gwset : ∀ e ∈ (toDo 0x11 []).fab.peers, ∀ k ∈ e.2.tx, ∀ u ∈ k.2.unacked, u.sent = true := by decide +kernel
theorem witness_retrain_bits : (leNat (mgBody (cmdBody 0x10 200 [0x10, 0, 0]))).testBit 4 = true ∧ ((toDo 0x10 [0x10, 0, 0]).port 4).phase = .up ∧ (toDo 0x10 []).canTrain 4 = true := by decide +kernel
theorem witness_job : (leNat (mgBody (cmdBody 0x20 200 [2, 0, 0, 0, 0, 0, 0, 0]))).testBit 1 = true ∧ (toDo 0x20 []).ctx? 1 = some ctxM := by decide +kernel
theorem witness_advance : mgForce (putField (cmdBody 0x40 200 [0xF]) 2 2 1) = true ∧ (toDo 0x40 []).sec.transition = none := by decide +kernel
theorem witness_time_set : (toDo 0x31 (leBytes 8 20000000)).now < fieldN (mgBody (cmdBody 0x31 200 (leBytes 8 20000000))) 0 8 ∧ fieldN (mgBody (cmdBody 0x31 200 (leBytes 8 5))) 0 8 ≤ (toDo 0x31 []).now := by decide +kernel
theorem test_home : leads (exec .mgmtHome (toDo 3 [9, 0])) (fun t => t.sec.home == some 9) = true := by decide +kernel
theorem test_retrain : leads (exec .fabRetrain (toDo 0x10 [0x10, 0, 0])) (fun t => (t.port 4).phase == .training && (t.port 0).phase == .up) = true := by decide +kernel
theorem test_job_teardown : leads (exec .jobTeardown (toDo 0x20 [2, 0, 0, 0, 0, 0, 0, 0])) (fun t => (t.ctx? 1).any (fun x => x.ending.any (fun e => e.reason == 5))) = true := by decide +kernel
theorem test_revive : leads (exec .fabRevive { toDo 0x12 [6, 0] with fab := { linked.fab with peers := [(6, { PeerState.reset with dead := true })] } }) (fun t => !(t.peer 6).dead) = true := by decide +kernel

/-! ### Time and the ledger -/

theorem witness_tick_stops : { up with time := { up.time with clockLost := true } }.ticks = false ∧ up.ticks = true ∧ (199 : Nat) < 200 := by decide +kernel
/-- Ten steps of 6.4 ns are 64 ns (R452): 10 · 0x06666666 in units of 2^-24 ns is just short of it. -/
theorem test_tick : (10 * 0x06666666) / 2 ^ 24 = 63 ∧ 10 * 0x06666667 / 2 ^ 24 = 64 := by decide
theorem witness_tick_second : { up with life := { up.life with secTick := 156249999 } }.life.secTick + 1 = 156250000 := by decide
theorem witness_idle : up.ticks = true ∧ up.sec.checking = none ∧ up.sec.flashing = none ∧ up.whl.loads = [] ∧ up.host.copies = [] ∧ up.coll.colls = [] ∧ up.ten.reclaim = [] ∧ up.host.rings = [] ∧ up.host.push = none := by decide +kernel
/-- A reply for cluster 9 stands at input 0 of router 0, and the next router's input holds so many. -/
def ninth : NetPkt := ⟨1, none, .cluster 0, .cluster 9, 0, none, []⟩
def routing (n : Nat) : State := { up with net := { up.net with queues := [(1, [ninth])] ++ (match n with | 0 => [] | k + 1 => [(4 * netKey (.input 1 3) + 1, ninth :: List.replicate k ninth)]) } }
theorem witness_router_turn : (routing 0).net.queue (.input 0 0) 1 = [ninth] ∧ netOut 0 ninth.dst = 1 ∧ netHop (.input 0 0) ninth.dst = some (.input 1 3) ∧ (routing 0).sec.boot ≠ .held ∧ (routing 0).power.tripped = false ∧
    (routing 0).net.full (.input 1 3) 1 = false ∧ (∀ j < 6, ∀ k < 4, (j, k) ≠ (0, 1) → (routing 0).net.queue (.input 0 j) k = []) := by decide +kernel
theorem test_router_passes : leads (exec (.timebaseStep { StepEnv.quiet with netTurns := [.router 0 1] }) (routing 0)) (fun t => t.net.queue (.input 0 0) 1 == [] && t.net.queue (.input 1 3) 1 == [ninth]) = true := by decide +kernel
/-- A buffer that holds one more than its depth is full, whatever the depth is. -/
theorem witness_buffer_full : (routing (Config.netDepth (4 * netKey (.input 1 3) + 1) + 1)).net.full (.input 1 3) 1 = true := by
  simp [routing, NetState.full, NetState.queue, tabGet, tabFind, netKey, up, State.reset, NetState.reset]
/-- A cluster port that is closed to replies. -/
theorem witness_closed_port : netHop (.input 0 0) (.cluster 0) = some (.inward 0) ∧ { up with clusters := [(0, { ClusterState.reset with portClosed := true })] }.linkShut 0 1 = true ∧
    { up with clusters := [(0, { ClusterState.reset with portClosed := true })] }.linkShut 0 3 = false ∧ up.retired 0 = false := by decide +kernel
/-- Masters 3 and 5 have asked bank 0 of unit 2 of cluster 4 for a read. -/
def asks : BankState := { BankState.reset with asked := [⟨3, 7, false, false⟩, ⟨5, 7, false, false⟩] }
def banked : State := { up with net := { up.net with banks := [(bankKey ⟨4, 2, 0⟩, asks)] } }
theorem witness_bank_turn : banked.ticks = true ∧ banked.power.diesHalted = false ∧ banked.retired 4 = false ∧ (3 + 10 - asks.rdPtr) % 10 < (5 + 10 - asks.rdPtr) % 10 ∧ asks.rdPtr < 10 ∧
    asks.hold = none ∧ asks.waiting = [] ∧ banked.net.banks = [(bankKey ⟨4, 2, 0⟩, asks)] := by decide +kernel
/-- The first master is served; the other counts an event and a step of waiting. -/
theorem test_bank_turn : leads (exec (.timebaseStep { StepEnv.quiet with bankTurns := [⟨4, 2, 0⟩] }) banked) (fun t => (tabGet .reset t.net.banks (bankKey ⟨4, 2, 0⟩)).rdPtr == 4 && (t.reg (0x410400 + 8 * 25)).toNat == 1 &&
    (t.reg (0x410E00 + 8 * 25)).toNat == 1 && (t.reg (0x410400 + 8 * 23)).toNat == 0) = true := by decide +kernel
def timed (l : List Packet) : State := { withPeer .reset l with time := { up.time with tb := 10000000 * 2 ^ 24, configured := true, master := 5, exch := 3, asked := true } }
theorem witness_exchange : (timed []).exchanges = true ∧ (timed []).time.lastExch = none := by decide +kernel
theorem witness_exchange_route : let m := (timed []).mkPacket 0x63 3 5 0 0 [(0x10, 8, (timed []).now), (0x18, 4, 4)] []
    (timed []).route m none = .port 4 m false ∧ ((timed []).peer 5).dead = false ∧ ((timed []).port 4).hasRoom m = true ∧ ((timed []).port 4).queue m.vc.toNat = [] := by decide +kernel
theorem witness_time_req : (withPeer .reset [pktIn 0x63 6 0 [(0x10, 8, 1)] []]).fab.inbox = [pktIn 0x63 6 0 [(0x10, 8, 1)] []] ∧ (timed []).isSelf 5 = false := by decide +kernel
/-- The port stamps t3 as the answer leaves, and t2 is the stamp of the request's arrival (R453). -/
theorem test_answer_stamps : leads (exec (.timeReq 1 2) (withPeer .reset [{ pktIn 0x63 6 0 [(0x10, 8, 1)] [] with arrived := 9 }])) (fun t => t.fab.wire.map (fun w => w.pkt.payload) == [leBytes 8 9 ++ leBytes 8 10000000]) = true := by decide +kernel
/-- A response: sent at 10,000,000, received and sent there at t, back at 10,000,010. -/
def respP (t flags : Nat) : Packet := { pktIn 0x64 6 0 [(0x10, 8, 10000000), (0x18, 4, 3), (0x1C, 2, flags)] (leBytes 8 t ++ leBytes 8 t) with arrived := 10000010 }
theorem witness_time_resp : (timed [respP 20000000 1]).fab.inbox = [respP 20000000 1] ∧ pktOp (respP 20000000 1) 0x18 4 = (timed []).time.exch.toNat ∧ (respP 20000000 1).payload.length = 16 ∧ (timed []).time.asked = true ∧
    (pktOp (respP 20000000 1) 0x1C 2).testBit 0 = true ∧ (pktOp (respP 20000000 0) 0x1C 2).testBit 0 = false ∧ (timed []).time.acquired = false := by decide +kernel
theorem test_first_exchange_steps : leads (exec (.timeResp 0) (timed [respP 20000000 1])) (fun t => t.now == 19999995 && t.time.acquired && !t.time.locked) = true := by decide +kernel
theorem test_acquired_slews : leads (exec (.timeResp 0) { timed [respP 10000005 1] with time := { (timed []).time with acquired := true, lockRun := 7 } }) (fun t => t.now == 10000000 && t.time.lockRun == 8 && t.time.locked) = true := by decide +kernel
theorem witness_holdover : { timed [] with time := { (timed []).time with tb := 5000000000 * 2 ^ 24 } }.now - 0 = 5000000000 ∧ (timed []).now < 5000000000 := by decide +kernel
theorem witness_tb_set : host.now < (5 : W64).toNat ∧ host.time.setUsed = false ∧ host.time.configured = false := by decide +kernel
theorem test_tb_set : leads (exec (.tbSet 5) host) (fun t => t.now == 5 && t.time.acquired && t.time.setUsed) = true := by decide +kernel

def lateS : State := { up with time := { up.time with tb := 595000000000 * 2 ^ 24 } }
theorem witness_save : lateS.life.snapshot = none ∧ lateS.sec.transition = none ∧ lateS.power.powerDown = false ∧ 595000000000 ≤ lateS.now - lateS.life.lastStart ∧ up.now - up.life.lastStart < 595000000000 := by decide +kernel
theorem witness_save_down : { lateS with power := { lateS.power with powerDown := true } }.life.saved = false := by decide
theorem witness_save_transition : let s := { lateS with sec := { lateS.sec with transition := some ⟨0xF, []⟩ } }
    s.ten.ctxs = [] ∧ s.sec.flash.mark = none ∧ { s with ten := { up.ten with ctxs := [(1, ctxA)] } }.ten.ctxs ≠ [] := by decide +kernel
theorem witness_save_done : let s := { lateS with life := { lateS.life with snapshot := some LifeLedger.zero }, sec := { lateS.sec with transition := some ⟨0xF, []⟩, flash := { lateS.sec.flash with mark := some ⟨0xF, []⟩ } } }
    s.life.snapshot = some LifeLedger.zero ∧ s.sec.transition = some ⟨0xF, []⟩ ∧ s.sec.flash.mark = some ⟨0xF, []⟩ := by decide
theorem test_save_begins : leads (exec .ledgerSave lateS) (fun t => t.life.live.saveSeq == 1 && t.life.snapshot.isSome && (!t.sec.flash.copyA.valid || !t.sec.flash.copyB.valid)) = true := by decide +kernel

/-! ### Package and power -/

def warm (die : W16) (set : Nat) (ack : Bool) : ThermalEnv where
  dies := [die, 0, 0, 0]
  table := 0
  stackTemps := List.replicate 12 0
  optics := List.replicate 20 0
  powerW := 1000
  thermalSet := [set, 160, 160, 160]
  capSet := 160
  acks := [ack, ack, ack, ack]
  vouts := [[0x0A66], [0x0A66], [], [0x0A66, 0x0A66]]
def loopS : State := { up with time := { up.time with tb := 100000 * 2 ^ 24 } }
theorem witness_thermal : 100000 ≤ loopS.now - loopS.power.thermTime ∧ up.now - up.power.thermTime < 100000 ∧ tabHas loopS.power.vr 0 = false ∧ stepsOf (loopS.reg 0x30040).toNat ≠ 110 := by decide +kernel
/-- A reading at THROTTLE_T throttles, and one a sixteenth of a degree below does not. -/
theorem test_throttle : leads (exec (.thermalControl (warm (95 * 16) 160 true)) loopS) (fun t => (t.reg 0x30000).toNat.testBit 0) = true ∧
    leads (exec (.thermalControl (warm (95 * 16 - 1) 160 true)) loopS) (fun t => !(t.reg 0x30000).toNat.testBit 0) = true := by decide +kernel
/-- A set point goes down by at most 20 mV in a loop. -/
theorem test_set_point_steps : leads (exec (.thermalControl (warm 0 110 true)) loopS) (fun t => (t.reg 0x30040).toNat == (stepsOf (loopS.reg 0x30040).toNat - 4) * 5 * 4096 / 1000) = true := by decide +kernel
/-- Of two writes the second is not acknowledged: the die stands 20 mV lower, and the second set point waits for a retry. -/
theorem test_second_write_fails : leads (exec (.thermalControl { warm 0 110 false with acks := [false, true, true, true], vouts := [[0x0A66, 0x0A14], [], [], []] }) loopS) (fun t =>
    (t.reg 0x30040).toNat == (stepsOf (loopS.reg 0x30040).toNat - 4) * 5 * 4096 / 1000 && (tabFind t.power.vr 0).isSome) = true := by decide +kernel
theorem witness_retry : let s := { loopS with time := { up.time with tb := 10000000 * 2 ^ 24 }, power := { up.power with vr := [(0, ⟨3000, 3, 0⟩)] } }
    tabFind s.power.vr 0 = some ⟨3000, 3, 0⟩ ∧ 10000000 ≤ s.now - 0 := by decide +kernel
theorem witness_alert : (pf []).evqEnabled = true ∧ (pf []).host.resetting = [] ∧ ((pf []).host.evq.cqTail - (pf []).host.evq.cqHead).toNat + 4 ≤ ((pf []).reg 0x408).toNat ∧ (pf []).sec.home = none := by decide +kernel
theorem test_alert_posts_four : leads (exec (.vrAlert [1, 2, 3, 4]) (pf [])) (fun t => t.host.evq.cqTail == 4) = true := by decide +kernel

theorem witness_board : tabWf PortState.reset linked.fab.ports = true ∧ linked.power.tripped = false ∧ linked.sec.boot ≠ .held ∧ linked.sec.boot ≠ .wiping ∧ linked.time.clockLost = false ∧ linked.power.powerDown = false ∧
    (∃ e ∈ linked.fab.ports, e.2.phase ≠ .disabled) ∧ (∀ e ∈ up.fab.ports, e.2.phase = .disabled) := by decide +kernel
theorem witness_cap : (600 : BitVec 16).toNat = 600 ∧ (1800 : BitVec 16).toNat = 1800 ∧ (599 : BitVec 16).toNat < 600 ∧ 1800 < (1801 : BitVec 16).toNat := by decide
theorem test_trip : leads (exec (.thermalTrip ⟨.die 0, 115 * 16⟩) linked) (fun t => t.power.tripped && !t.power.thermTripN && !(t.port 4).phase == .up) = true := by decide +kernel
theorem witness_trip : (16 * 115 : Int) ≤ (115 * 16 : W16).toInt ∧ (115 * 16 - 1 : W16).toInt < 16 * 115 ∧ { linked with power := { linked.power with tripped := true } }.power.tripped = true := by decide
theorem test_no_trip_below : leads (exec (.thermalTrip ⟨.die 0, 115 * 16 - 1⟩) linked) (fun t => !t.power.tripped && (t.port 4).phase == .up) = true := by decide +kernel
/-- A reading at the trip point trips the package from the loop, too. -/
theorem test_loop_trips : leads (exec (.thermalControl (warm (115 * 16) 160 true)) loopS) (fun t => t.power.tripped && (t.reg 0x30080).toNat == 1840) = true := by decide +kernel
theorem test_position : leads (exec (.position true 0x03A005) up) (fun t => t.fab.pos == some (5, 0, 2)) = true := by decide +kernel
theorem test_cap : leads (exec (.cap true 600) up) (fun t => (t.reg 0x30010).toNat == 600) = true ∧ leads (exec (.cap true 599) up) (fun t => t == up) = true := by decide +kernel

/-- 15,625 steps of the timebase have gone by. -/
def meterS : State := { up with time := { up.time with steps := 15625 } }
theorem witness_meter : meterS.retired 3 = false ∧ meterS.ticks = true ∧ 15625 ≤ meterS.time.steps - (meterS.cluster 3).meter ∧ up.time.steps - (up.cluster 3).meter < 15625 := by decide +kernel
theorem witness_ack_timeout : (withCore { runner with vecQ := [.block []] }).enginesRun 0 = true ∧ ((withCore { runner with vecQ := [.block []] }).core 0).vecQ ≠ [] ∧ up.enginesRun 0 = false := by decide +kernel
def failedK : State := { withCore runner with clusters := [(0, { ClusterState.reset with owner := some (1, 0), failed := true, failCtx := some 1 })] }
theorem witness_retire : (failedK.cluster 0).failed = true ∧ failedK.retired 0 = false ∧ (failedK.cluster 0).failCtx = some 1 ∧ failedK.ctx? 1 = some ctxA := by decide +kernel
theorem test_retire : leads (exec (.clusterRetired 0) failedK) (fun t => t.retired 0 && t.sec.flash.retired == [0] && (t.ctx? 1).any (fun x => x.ending.any (fun e => e.cls == 5))) = true := by decide +kernel
theorem test_meter : leads (exec (.hskMeterWindow 3 100) meterS) (fun t => (t.cluster 3).meter == 15625 && (t.reg 0x40C000).toNat == 256) = true := by decide +kernel

/-! ### Illegal instructions, vats and words -/

theorem witness_illegal : (withCore runner).executes 0 = true ∧ (withCore runner).coreCtx 0 = some 1 ∧ tabWf CoreState.reset (withCore runner).cores = true ∧ scalarPhys 0 ((runner.sreg 1) + (1 : Imm).signExtend 64).toNat 8 = none ∧
    ((withRegs [(5, 2)]).core 0).sreg 5 = 2 := by decide +kernel
theorem test_illegal : leads (exec (.trap 0 true 0) (withCore runner)) (fun t => (t.ctx? 1).any (fun x => x.ending.any (fun e => e.cls == 1 && e.detail == BitVec.ofNat 64 (t.coreId 0))) && !t.canRun 0) = true := by decide +kernel

def vatS (q : Nat) (hs : List VatHold) (p : List VatPool) : State := { up with regs := [(0x41080, BitVec.ofNat 64 q), (offVatPromote 1, 1)], vats := { up.vats with held := hs, pools := p } }
theorem witness_grant : (vatS 4 [] up.vats.pools).vats.pools.length = 6 ∧ (vatS 4 [] up.vats.pools).vats.hurt = [] ∧ (vatS 4 [] up.vats.pools).sound = true ∧ (vatS 4 [] up.vats.pools).grantClass 1 0 0 = some 0 ∧ (vatS 0 [] up.vats.pools).grantClass 1 0 0 = none ∧ fitClass 256 = 0 ∧ fitClass 257 = 1 ∧ fitClass 1024 = 1 ∧ fitClass 1025 = 2 := by decide +kernel
/-- With class 0 empty a request is promoted to the lowest larger class that allows it. -/
theorem test_promotion : ({ vatS 4 [] ((VatPool.fresh 0 0) :: up.vats.pools.drop 1) with regs := [(0x41088, 4), (offVatPromote 1, 1)] }.grantClass 1 0 0) = some 1 := by decide +kernel
theorem witness_free : (vatS 4 [turnVat 0 3] up.vats.pools).vats.held = [turnVat 0 3] ∧ (turnVat 0 3).vat.k = 1 ∧ (turnVat 0 3).vat.ovf = false ∧ (vatS 4 [] up.vats.pools).vats.waiting = [] := by decide
/-- An overflow vat of class 1 at the base 0x8000. -/
def overS : State := let s := vatS 4 [⟨⟨1, true, 3⟩, 1, 1, ⟨1, 6, 0, 0⟩⟩] up.vats.pools
  { s with regs := tabInsert s.regs (offOvfBase 1) 0x8000 }
theorem witness_free_overflow : overS.sound = true ∧ overS.vats.waiting = [] ∧ overS.flatPieces (overS.regN (offOvfBase 1) + 3 * vatSize 1) 8 = some [(0x8C00, 0x8C00, 8)] := by decide +kernel
theorem test_word_setvl : decodeCoreWord 3 0xDCC50080 = some (.setvl 3 6 5 0 8) := by decide
theorem test_word_vred : decodeCoreWord 3 0xCC410180 = some (.vredSum 3 2 1 0 1 8) := by decide
theorem test_word_sumr : decodeCoreWord 3 0x84E00000 = some (.sumrPop 3 7 0) := by decide
theorem test_word_tstb : decodeCoreWord 3 0x2D803C00 = some (.tstb 3 0 7 32 0) := by decide
theorem test_word_br : decodeCoreWord 3 0x30800006 = some (.br 3 0 true 6) := by decide
theorem witness_encode : encodeCoreWord (.br 3 0 true 6) = some (3, 0x30800006) := by decide
theorem witness_canonical : State.reset.canonical = true ∧ up.canonical = true ∧ step up = .next up := ⟨by decide +kernel, by decide +kernel, rfl⟩
theorem test_step_takes_the_front : step { up with pending := [.tbSet 5, .linkReset] } = exec (.tbSet 5) { up with pending := [.linkReset] } := rfl

/-! ### The premises of the wider clauses -/

theorem witness_untripped : host.power.tripped = false ∧ linked.power.tripped = false ∧ (pf []).power.tripped = false ∧ (withCore runner).power.tripped = false ∧ (asked []).power.tripped = false ∧
    (trickBox trickT []).power.tripped = false ∧ colls0.power.tripped = false ∧ loopS.power.tripped = false := by decide
/-- A VCVT of BF16 to INT8. -/
def cvtV : VInstr := vi (.cvt 0 3 false false) 8 4
theorem witness_conversion : (withVec cvtV 1 2).enginesBegin 0 = true ∧ ((withVec cvtV 1 2).core 0).vecQ = [.instr cvtV] ∧ cvtV.op = .cvt 0 3 false false ∧ efmtOf cvtV.ty.toNat = some (.fp fmtBF16) ∧
    efmtOf 3 = some (.int 8) ∧ (withVec cvtV 1 2).coreCtx 0 = some 1 ∧ (withVec cvtV 1 2).ctx? 1 = some ctxA := by decide
/-- -3.0 and 1.0 in BF16 become the INT8 codes 0xFD and 1. -/
theorem test_conversion : leads (exec (.vectorInstructionComplete 0) (withVec { cvtV with vl := 2 } 0x3F80C040 0)) (fun t => ((t.core 0).vreg 2).toNat % 65536 == 0x01FD) = true := by decide +kernel
theorem witness_uncarried : (withSent copyBlk 2048 []).net.carries 0 0 = false ∧ (seqUse seqFill none).net.carries 0 0 = false := by decide +kernel
/-- The upper half of ACCT_WINDOW_NS: with 1 in it, a lower half of 32,704 makes a whole number of ms and one of 1,000,000 does not. -/
theorem witness_window_half : let ok : Nat → Bool := fun x => 1000000 ≤ x && x ≤ 3600000000000 && x % 1000000 == 0
    ok (32704 + 1 * 2 ^ 32) = true ∧ ok (1000000 + 1 * 2 ^ 32) = false ∧ up.pf0Open = true := by decide
theorem witness_port_off : (linked.port 4).phase = .up ∧ (linked.port 4).queues = [] ∧ (0 : W64).getLsbD 0 = false ∧ (linked.port 4).phase ≠ .disabled := by decide +kernel
theorem witness_retire_later : ({ withSlot (slotV 1) retireBlk with seq := { (withSlot (slotV 1) retireBlk).seq with boundary := some 1 } } : State).headDesc 1 0 = some retireBlk := by decide +kernel
theorem witness_owed_room : ∀ f, ((ending (slotV 4) stepBlk).backlogOf f).length + ((ending (slotV 4) stepBlk).seqCtx 1).owed.length < 65536 := fun f =>
  (by decide : ((ending (slotV 4) stepBlk).backlogOf 0).length + ((ending (slotV 4) stepBlk).seqCtx 1).owed.length < 65536)
/-- The probability of the one card is divided by itself. -/
theorem witness_norm : let l := { layer2 with norm := true }
    let total := ((List.range l.k).filterMap (fun i => ((l.dealHand [0, 0, 0] [0x3F800000, 0x40000000, 0x3F800000]).card? i).map (fun c => (l.probs [0x3F800000, 0x40000000, 0x3F800000]).getD c.expert 0))).foldl f32add 0
    (decodeFp fmtFP32 total).isFin = true ∧ flt fzero (decodeFp fmtFP32 total) = true := by decide +kernel
theorem witness_stall_record : stalled.canRecord 1 0 = true ∧ trickT.stallFrom = none ∧ (trickBox trickT []).trick? 1 9 = some trickT := by decide +kernel
theorem test_stall_is_told : leads (exec (.trickStalled 1 9) stalled) (fun t => (t.ring 1 0).cqTail == 1 && (t.trick? 1 9).any (fun k => k.stallFrom == none)) = true := by decide +kernel
/-- Packet 1 is held early when packet 0 comes. -/
def gapS : State := withPeer { PeerState.reset with rx := [(0, { RxStream.reset with early := [rdReqP 1] })] } []
theorem witness_gap : (rdReqP 0).wasMcast = false ∧ ((gapS.peer 5).rxOf 0).early = [rdReqP 1] ∧ (∀ i x, ((gapS.peer 5).rxOf 0).early[i]? = some x → x.seq = (rdReqP 0).seq + 1 + BitVec.ofNat 32 i ∧ x.mcast = false) ∧
    gapS.takesIn 4 (rdReqP 0) = true ∧ gapS.streamsRise = true := by
  refine ⟨by decide, by decide +kernel, ?_, by decide +kernel, by decide +kernel⟩
  intro i x h
  have e : ((gapS.peer 5).rxOf 0).early = [rdReqP 1] := by decide +kernel
  rw [e] at h
  match i with
  | 0 => cases h; decide
  | n + 1 => simp at h
theorem test_gap_is_filled : leads (exec (.packetForward 4 (rdReqP 0) (pktCrc (rdReqP 0))) gapS) (fun t => t.fab.inbox == [rdReqP 0, rdReqP 1] && ((t.peer 5).rxOf 0).expected == 2) = true := by decide +kernel
theorem witness_batch_room : batched.streamsRise = true ∧ batched.sec.home = none ∧ batched.storeUsed + 2084 * 2 ≤ 2 ^ 29 ∧ ∀ q ∈ [rdReqP 0, rdReq6], q.src.toNat ≠ batched.self ∧ (batched.peer q.src.toNat).dead = false ∧
    ((batched.peer q.src.toNat).txOf 1).waiting = [] ∧ ((batched.peer q.src.toNat).txOf 1).unacked.length + 2 ≤ 256 := by decide +kernel

/-! Reduce-scatters of three members. -/

/-- Rank 2 of three owns chunks 4 and 5 and waits for rank 0's part of chunk 4; chunk 5 has 8 bytes, and rank 1's part of it comes. -/
def early3 : Coll := { collOf (collBlk 0 3 0 20488 0) (zeroBytes 64) [(1, 3), (5, 2), (0, 1)] with
  rank := 2
  granted := 17
  acc := none }
def early3P : Packet := collP 0x40 5 1 0 1 0 0 (crc32c [1, 2, 3, 4, 5, 6, 7, 8]).toNat [1, 2, 3, 4, 5, 6, 7, 8]
def earlyS : State := { flying early3 [early3P] with vats := { up.vats with held := [⟨⟨1, false, 0⟩, 1, 1, ⟨1, 6, 4, 2⟩⟩, ⟨⟨1, false, 1⟩, 1, 1, ⟨1, 6, 5, 1⟩⟩] } }
theorem witness_coll_out_of_turn : early3.cmd.op = 0 ∧ early3.pos + 1 < early3.cmd.count 2 ∧ early3.cmd.first 2 = 4 ∧ early3.turn = 0 ∧ early3.turn < early3.cmd.n ∧ early3.used + early3.cmd.window ≤ early3.granted ∧
    early3P.payload.length = early3.cmd.len 5 ∧ pieceRef early3P = ⟨5, 1, 0, true, 0, 0, crc32c early3P.payload⟩ ∧ (earlyS.vatFor 1 1 (chunkVat early3 4 2)).isSome = true ∧ (earlyS.vatFor 1 1 (chunkVat early3 5 1)).isSome = true ∧
    earlyS.coll? 1 6 = some early3 ∧ earlyS.pieceWanted early3 early3P = true ∧ earlyS.vats.hurt = [] := by decide +kernel
theorem test_coll_out_of_turn : leads (exec .collData earlyS) (fun t => (t.coll? 1 6).any (fun y => y.acc == none && y.ins.map (fun i => (i.chunk, i.rank, i.checked)) == [(5, 1, true)])) = true := by decide +kernel

/-- Rank 0 of three owns chunk 0, of 4,096 bytes, has added its own part and holds that of rank 2; the last piece of rank 1's comes. -/
def kept3 (b0 : List Byte) (crc : W32) : Coll := { collOf (collBlk 0 3 0 12288 0) (zeroBytes 64) [(0, 1), (5, 2), (6, 2)] with
  turn := 1
  granted := 2
  acc := some (zeroBytes 4096)
  ins := [⟨0, 0, 2, 0, [(0, zeroBytes 2048), (1, zeroBytes 2048)], some 1, 0, false, true⟩, ⟨0, 0, 1, 0, [(0, b0)], none, crc, false, false⟩] }
def keptP (b0 : List Byte) : Packet := collP 0x40 0 1 0 1 0 1 (crc32c (b0 ++ zeroBytes 2048)).toNat (zeroBytes 2048)
def keptS : State := { flying (kept3 (zeroBytes 2048) 0) [keptP (zeroBytes 2048)] with vats := { up.vats with held := [turnVat 0 0, turnVat 1 1, turnVat 2 2] } }
theorem witness_coll_three : let x := kept3 (zeroBytes 2048) 0
    x.cmd.op = 0 ∧ 2 ≤ x.cmd.n ∧ x.cmd.clash 0 = false ∧ x.cmd.count 0 = 1 ∧ x.cmd.count 1 ≠ 0 ∧ x.cmd.len 0 = 4096 ∧ 4096 % collElem x.cmd.fmt = 0 ∧ x.granted = x.cmd.n - 1 ∧
    (∀ r < 3, ∃ h, keptS.vatFor 1 1 (chunkVat x 0 r) = some h ∧ h.vat.ovf = false) ∧ keptS.packageAccess 1 x.cmd.out 4096 true = .pieces [(0x30000, 0x30000, 4096)] ∧
    (∀ r < 3, 1 ≤ r → keptS.isSelf (x.peerOf r).1 = false) ∧ keptS.pieceWanted x (keptP (zeroBytes 2048)) = true := by
  refine ⟨by decide +kernel, by decide +kernel, by decide +kernel, by decide +kernel, by decide +kernel, by decide +kernel, by decide +kernel, by decide +kernel, ?_, by decide +kernel, by decide +kernel, by decide +kernel⟩
  intro r h
  match r with
  | 0 => exact ⟨turnVat 0 0, by decide +kernel, rfl⟩
  | 1 => exact ⟨turnVat 1 1, by decide +kernel, rfl⟩
  | 2 => exact ⟨turnVat 2 2, by decide +kernel, rfl⟩
theorem witness_coll_room : (flying collD []).streamsRise = true ∧ ((flying collD []).peer 5).dead = false ∧ (((flying collD []).peer 5).txOf 2).waiting = [] ∧ (((flying collD []).peer 5).txOf 2).unacked.length + (8 + 2047) / 2048 ≤ 256 ∧
    (flying collD []).storeUsed + 2084 * ((8 + 2047) / 2048) ≤ 2 ^ 29 ∧ (flying collD []).sec.home = none := by decide +kernel

theorem witness_alert_rises : (5 : W32) = ({ up.host.evq with cqTail := 5 } : RingState).cqTail := rfl
theorem witness_boot_holds : State.reset.sec.boot = .held ∨ State.reset.sec.boot = .wiping := by decide
theorem witness_reclaim_accepted : reclaimS.readRoom 0 = true ∧ reclaimS.ten.reclaim = [] ∧ ctxL.stopped = false ∧ ctxL.phase = .active := by decide +kernel
theorem witness_reclaim_alone : ∀ k y, k ≠ 1 → reclaimS.ctx? k = some y → y.phase ≠ .reclaiming := by
  intro k y h e
  have : reclaimS.ctx? k = none := by simp [State.ctx?, reclaimS, tabFind, Ne.symm h]
  rw [this] at e
  cases e
/-- A Reclaiming context whose cores have not stopped. -/
def stopping : State := { pf [] with ten := { up.ten with ctxs := [(1, { ctxK with stopped := false })] } }
theorem witness_reclaim_stops : stopping.ctx? 1 = some { ctxK with stopped := false } ∧ stopping.drainOpen 1 = false ∧ tabWf CoreState.reset stopping.cores = true := by decide +kernel
theorem test_reclaim_frees_the_clusters : leads (exec (.coresStopped 1) stopping) (fun t => (t.ctx? 1).any (fun y => y.stopped && y.clusters == []) && (t.cluster 0).owner == none) = true := by decide +kernel
theorem witness_cool : (∀ d < 4, ((warm 0 160 true).dies.getD d 0).toInt < 16 * 115) ∧ (warm 0 160 true).table.toInt < 16 * 115 ∧ (∀ i < 12, ((warm 0 160 true).stackTemps.getD i 0).toInt < 16 * 105) ∧
    (∀ p < 20, ((warm 0 160 true).optics.getD p 0).toInt < 16 * 95) ∧ ¬((warm (115 * 16) 160 true).dies.getD 0 0).toInt < 16 * 115 ∧ loopS.power.vcore.length = 4 := by decide +kernel
theorem witness_prompt : let near : W16 → Nat → Prop := fun r v => ((r.toNat : Int) - v).natAbs * 1000 ≤ 20 * 4096
    ∀ r ∈ (warm 0 110 true).vouts.getD 0 [], near r (loopS.power.vcore.getD 0 0) := by
  have reads : (warm 0 110 true).vouts.getD 0 [] = [2662] := by decide
  have volts : loopS.power.vcore.getD 0 0 = 2662 := by decide +kernel
  rw [reads, volts]
  simp

end Sys2Proof.Tests
end

section
/-!
SUPPORT. What a device event leaves alone (R384, R385, R450): it goes out as a record of PF0's event ring and as a packet of the management channel, so of a package
it moves host traffic, fabric traffic and what counts them.
-/
namespace Sys2Proof.Machine

/-- What every turn of a loop keeps, the loop keeps. -/
theorem foldl_keeps {σ α β : Type} (p : σ → β) (f : σ → α → σ) (h : ∀ s a, p (f s a) = p s) (l : List α) (s : σ) :
    p (l.foldl f s) = p s := by
  induction l generalizing s with
  | nil => rfl
  | cons a r ih => rw [List.foldl_cons, ih, h]

/-! ### Writes of a table outside a set of keys -/

theorem filter_tabErase {α : Type} (t : Tab α) (p : Nat → Bool) {k : Nat} (h : p k = false) :
    (tabErase t k).filter (fun e => p e.1) = t.filter (fun e => p e.1) := by
  rw [tabErase, List.filter_filter]
  refine List.filter_congr fun e _ => ?_
  by_cases he : e.1 = k <;> simp [he, h]

theorem filter_tabInsert {α : Type} (t : Tab α) (p : Nat → Bool) {k : Nat} (v : α) (h : p k = false) :
    (tabInsert t k v).filter (fun e => p e.1) = t.filter (fun e => p e.1) := by
  induction t with
  | nil => simp [tabInsert, h]
  | cons e r ih =>
    obtain ⟨a, w⟩ := e
    simp only [tabInsert]
    split
    · simp [h]
    · split
      · next hk => simp [← hk, h]
      · simp [List.filter_cons, ih]

/-- A write at a key that a test leaves out changes none of the entries the test picks. -/
theorem filter_tabSet {α : Type} [DecidableEq α] (d : α) (t : Tab α) (p : Nat → Bool) {k : Nat} (v : α) (h : p k = false) :
    (tabSet d t k v).filter (fun e => p e.1) = t.filter (fun e => p e.1) := by
  unfold tabSet
  split
  · exact filter_tabErase t p h
  · exact filter_tabInsert t p v h

/-! ### The part of the state that traffic does not touch -/

/-- The registers that outgoing traffic counts in: EVQ_DROPPED of PF0, and those of the contexts' blocks and of the blocks behind them (Tables 18.1, 18.8 to 18.13). -/
def trafficReg (a : Nat) : Bool := a == fnReg 0 offEvqDropped || decide (0x40000 ≤ a)

/-- A state without what outgoing traffic moves: the link to the host, the fabric and its streams, requests and collectives that a packet belongs to, and the counts of all these. -/
def State.besideTraffic (s : State) : State :=
  { s with
    freeCtr := 0
    regs := s.regs.filter (fun e => !trafficReg e.1)
    host := .reset
    ten := { s.ten with fabBytes := [] }
    life := .reset
    fab := .reset
    memop := .reset
    coll := .reset }

section
variable {s t : State} (h : t.besideTraffic = s.besideTraffic)
include h

theorem mem_of_besideTraffic : t.mem = s.mem := (congrArg State.mem h :)
theorem sec_of_besideTraffic : t.sec = s.sec := (congrArg State.sec h :)
theorem power_of_besideTraffic : t.power = s.power := (congrArg State.power h :)
theorem cluster_of_besideTraffic (k : Nat) : t.cluster k = s.cluster k := (congrArg (State.cluster · k) h :)
theorem ctx_of_besideTraffic (c : Nat) : t.ctx? c = s.ctx? c := (congrArg (State.ctx? · c) h :)

/-- Every other register reads as before. -/
theorem reg_of_besideTraffic {a : Nat} (ha : trafficReg a = false) : t.reg a = s.reg a := by
  have keeps : ∀ u : State, u.besideTraffic.reg a = u.reg a := fun u => by
    simp only [State.reg, tabGet, State.besideTraffic]
    rw [tabFind_filter u.regs (fun k => !trafficReg k) (by simp [ha])]
  rw [← keeps t, h, keeps]

end

section
variable (s : State)

/-! ### Counters -/

theorem besideTraffic_setReg {a : Nat} (v : W64) (h : trafficReg a = true) : (s.setReg a v).besideTraffic = s.besideTraffic := by
  simp only [State.besideTraffic, State.setReg]
  rw [filter_tabSet _ _ (fun k => !trafficReg k) _ (by simp [h])]

theorem besideTraffic_count {a : Nat} (n : Nat) (h : trafficReg a = true) : (s.count a n).besideTraffic = s.besideTraffic :=
  besideTraffic_setReg s _ h

theorem trafficReg_of_le {a : Nat} (h : 0x40000 ≤ a) : trafficReg a = true := by simp [trafficReg, h]

@[simp] theorem trafficReg_evqDropped : trafficReg (fnReg 0 offEvqDropped) = true := by simp [trafficReg]
@[simp] theorem trafficReg_fabPkg (i : Nat) : trafficReg (offFabPkg i) = true := trafficReg_of_le (by unfold offFabPkg; omega)
@[simp] theorem trafficReg_fabVc (p v i : Nat) : trafficReg (offFabVc p v i) = true := trafficReg_of_le (by unfold offFabVc; omega)
@[simp] theorem trafficReg_acctCtr (c i : Nat) : trafficReg (offAcctCtr c i) = true := trafficReg_of_le (by unfold offAcctCtr ctxReg; omega)
@[simp] theorem trafficReg_collCtr (c i : Nat) : trafficReg (offCollCtr c i) = true := trafficReg_of_le (by unfold offCollCtr ctxReg; omega)

/-! ### Traffic of the host's link (R376, R396, R397) -/

@[simp] theorem besideTraffic_emit (fn : Nat) (o : PcieOut) : (s.emit fn o).besideTraffic = s.besideTraffic := by
  unfold State.emit
  split <;> rfl

@[simp] theorem besideTraffic_hostWrite (fn a : Nat) (bs : List Byte) : (s.hostWrite fn a bs).besideTraffic = s.besideTraffic := by
  unfold State.hostWrite
  dsimp only
  split
  · simp
  · exact foldl_keeps State.besideTraffic _ (fun s i => by simp) _ s

@[simp] theorem besideTraffic_sendMsix (fn v : Nat) : (s.sendMsix fn v).besideTraffic = s.besideTraffic := by
  unfold State.sendMsix
  split
  · rfl
  · simp

theorem besideTraffic_host (x : HostState) : { s with host := x }.besideTraffic = s.besideTraffic := rfl

@[simp] theorem besideTraffic_writeEvent (r : List Byte) : (s.writeEvent r).besideTraffic = s.besideTraffic := by
  unfold State.writeEvent
  dsimp only
  split <;> simp [besideTraffic_host]

@[simp] theorem besideTraffic_postEventRecord (r : List Byte) : (s.postEventRecord r).besideTraffic = s.besideTraffic := by
  unfold State.postEventRecord
  split
  · rfl
  · split
    · simp
    · split
      · rfl
      · exact besideTraffic_count s 1 trafficReg_evqDropped

/-! ### Traffic of the fabric (R287, R288, R291, R293) -/

@[simp] theorem besideTraffic_setPort (p : Nat) (x : PortState) : (s.setPort p x).besideTraffic = s.besideTraffic := rfl
@[simp] theorem besideTraffic_setPeer (g : Nat) (x : PeerState) : (s.setPeer g x).besideTraffic = s.besideTraffic := rfl
@[simp] theorem besideTraffic_markSent (g cls : Nat) (p : Packet) (b : Bool) : (s.markSent g cls p b).besideTraffic = s.besideTraffic := rfl
@[simp] theorem besideTraffic_deliver (p : Packet) : (s.deliver p).besideTraffic = s.besideTraffic := rfl
@[simp] theorem besideTraffic_storeCopy (g : Nat) (p : Packet) : (s.storeCopy g p).besideTraffic = s.besideTraffic := rfl
@[simp] theorem besideTraffic_ringStep (c : Nat) (id : W32) : (s.ringStep c id).besideTraffic = s.besideTraffic := rfl

@[simp] theorem besideTraffic_acctFabric (c n : Nat) : (s.acctFabric c n).besideTraffic = s.besideTraffic := by
  unfold State.acctFabric
  split
  · split
    · exact besideTraffic_count s n (trafficReg_acctCtr c 2)
    · rfl
  · rfl

@[simp] theorem besideTraffic_transmit (p : Nat) (pkt : Packet) (b : Bool) : (s.transmit p pkt b).besideTraffic = s.besideTraffic := by
  have counted : ∀ (u : State) (v n : Nat), ((u.count (offFabVc p v 0) 1).count (offFabVc p v 2) n).besideTraffic = u.besideTraffic := fun u v n => by
    rw [besideTraffic_count _ _ (trafficReg_fabVc ..), besideTraffic_count _ _ (trafficReg_fabVc ..)]
  unfold State.transmit
  dsimp only
  split
  · rw [besideTraffic_acctFabric, counted]
    rfl
  · rw [counted]
    rfl

@[simp] theorem besideTraffic_drainPort (p vc : Nat) (l : List Queued) : (s.drainPort p vc l).besideTraffic = s.besideTraffic := by
  induction l generalizing s with
  | nil => rfl
  | cons q r ih =>
    unfold State.drainPort
    dsimp only
    split
    · simp [ih]
    · rfl

@[simp] theorem besideTraffic_noteDepth (p vc : Nat) : (s.noteDepth p vc).besideTraffic = s.besideTraffic := by
  unfold State.noteDepth
  dsimp only
  split
  · exact besideTraffic_setReg s _ (trafficReg_fabVc ..)
  · rfl

@[simp] theorem besideTraffic_enqueue (p : Nat) (pkt : Packet) (first det : Bool) : (s.enqueue p pkt first det).besideTraffic = s.besideTraffic := by
  unfold State.enqueue
  simp

@[simp] theorem besideTraffic_noteEntered (slot : Option Nat) (seq : W32) : (s.noteEntered slot seq).besideTraffic = s.besideTraffic := by
  unfold State.noteEntered
  split
  · rfl
  · split <;> rfl

@[simp] theorem besideTraffic_noteColl (pkt : Packet) : (s.noteColl pkt).besideTraffic = s.besideTraffic := by
  have counted : ∀ n, (s.count (offCollCtr pkt.sctx.toNat 2) n).besideTraffic = s.besideTraffic := fun n => besideTraffic_count s n (trafficReg_collCtr ..)
  unfold State.noteColl
  dsimp only
  split <;> split <;> simp [counted]

end

/-! ### Sending (R293, R297) -/

section
variable {ev : OnMismatch} (hev : ∀ s p g, (ev s p g).besideTraffic = s.besideTraffic) (s : State)
include hev

theorem besideTraffic_launchEv (g cls : Nat) (pkt : Packet) : (s.launchEv ev g cls pkt).besideTraffic = s.besideTraffic := by
  have counted : ∀ (u : State) (i : Nat), (u.count (offFabPkg i) 1).besideTraffic = u.besideTraffic := fun u i => besideTraffic_count u 1 (trafficReg_fabPkg i)
  unfold State.launchEv
  dsimp only
  split
  case h_1 =>
    rw [besideTraffic_enqueue]
    split <;> simp [counted]
  case h_2 => simp [counted]
  case h_3 => simp [State.mismatchDrop, hev, counted]
  case h_4 => rfl
  case h_5 => rfl

theorem besideTraffic_pumpTxEv (g cls : Nat) (l : List (Packet × Option Nat)) : (s.pumpTxEv ev g cls l).besideTraffic = s.besideTraffic := by
  induction l generalizing s with
  | nil => rfl
  | cons x r ih =>
    obtain ⟨pkt, slot⟩ := x
    unfold State.pumpTxEv
    dsimp only
    split
    · simp [ih, besideTraffic_launchEv hev]
    · rfl

theorem besideTraffic_sendSeqEv (g : Nat) (pkt : Packet) (slot : Option Nat) : (s.sendSeqEv ev g pkt slot).besideTraffic = s.besideTraffic := by
  unfold State.sendSeqEv
  dsimp only
  split
  · simp
  · split
    · exact besideTraffic_count s 1 (trafficReg_fabPkg 5)
    · simp [besideTraffic_pumpTxEv hev]

end

/-! ### Device events (R384, R450) -/

/-- An event of the management channel moves traffic alone. -/
@[simp] theorem besideTraffic_mgmtEvent (s : State) (code : Nat) (c : Option Nat) (a0 a1 : Nat) :
    (s.mgmtEvent code c a0 a1).besideTraffic = s.besideTraffic := by
  unfold State.mgmtEvent
  split
  · rfl
  · exact besideTraffic_sendSeqEv (fun _ _ _ => rfl) _ _ _ _

/-- A device event to PF0 and the management channel moves traffic and lets ALERT_N fall. -/
theorem besideTraffic_eventBoth (s : State) (code : Nat) (c : Option Nat) (a0 a1 : Nat) :
    (s.eventBoth code c a0 a1).besideTraffic = { s with power := { s.power with alertN := false } }.besideTraffic := by
  simp [State.eventBoth, State.eventPf0]

end Sys2Proof.Machine
end

section
/-!
SUPPORT. Clusters (R24, R28, R29): what a failure, a fault of a context and a wipe change, the bits that record retired clusters, and what the three events of a cluster do.
-/
namespace Sys2Proof.Machine

/-! ### A context's teardown begins (R420) -/

section
variable (s : State) (c cls detail : Nat)

/-- A fault either changes nothing or stops cores, drops commands of the Presses and the Dealer window, and notes the teardown of its context. -/
theorem fault_frame : (s.fault c cls detail).mem = s.mem ∧ (s.fault c cls detail).regs = s.regs ∧
    (s.fault c cls detail).clusters = s.clusters ∧ (s.fault c cls detail).sec = s.sec ∧ (s.fault c cls detail).power = s.power := by
  unfold State.fault State.beginTeardown
  split
  · exact ⟨rfl, rfl, rfl, rfl, rfl⟩
  · split <;> exact ⟨rfl, rfl, rfl, rfl, rfl⟩

@[simp] theorem fault_mem : (s.fault c cls detail).mem = s.mem := (fault_frame s c cls detail).1
@[simp] theorem fault_regs : (s.fault c cls detail).regs = s.regs := (fault_frame s c cls detail).2.1
@[simp] theorem fault_clusters : (s.fault c cls detail).clusters = s.clusters := (fault_frame s c cls detail).2.2.1
@[simp] theorem fault_sec : (s.fault c cls detail).sec = s.sec := (fault_frame s c cls detail).2.2.2.1
@[simp] theorem fault_power : (s.fault c cls detail).power = s.power := (fault_frame s c cls detail).2.2.2.2

/-- A context whose teardown has not begun ends with the fault's class and DETAIL. -/
theorem fault_ends {x : CtxState} (hx : s.ctx? c = some x) (hp : x.phase ≠ .ending) : (s.fault c cls detail).ends c cls 0 detail := by
  unfold State.fault State.beginTeardown
  simp only [hx, if_neg hp]
  exact ⟨_, _, State.ctx_setCtx_same .., rfl, rfl, rfl, rfl, rfl⟩

end

/-- Whether a context ends is told by the contexts alone. -/
theorem ends_of_ctx {s t : State} {c cls reason detail : Nat} (h : t.ctx? c = s.ctx? c) (e : s.ends c cls reason detail) : t.ends c cls reason detail := by
  unfold State.ends at *
  rwa [h]

/-! ### A wipe of clusters (R159) -/

/-- A state without its cores. -/
def State.besideCores (s : State) : State := { s with cores := [] }

@[simp] theorem besideCores_drainWiped (s : State) (k : Nat) : (s.drainWiped k).besideCores = s.besideCores := by
  unfold State.drainWiped
  split
  · rfl
  · rw [foldl_keeps State.besideCores]
    intro s i
    rfl

section
variable (s : State) (l : List Nat)

/-- Beside the cores, a wipe empties the memory of its clusters, takes away the errors there, and quiets their banks. -/
theorem besideCores_wipeClusters : ∃ damage rowPoison rowUe net, (s.wipeClusters l).besideCores = { s.besideCores with
    mem := s.mem.filter (fun e => !(!isDram e.1 && l.contains (clusterOfPhys e.1)))
    damage := damage, rowPoison := rowPoison, rowUe := rowUe, net := net } :=
  ⟨_, _, _, _, foldl_keeps State.besideCores _ besideCores_drainWiped l _⟩

@[simp] theorem wipeClusters_regs : (s.wipeClusters l).regs = s.regs := by
  obtain ⟨_, _, _, _, h⟩ := besideCores_wipeClusters s l
  exact (congrArg State.regs h :)

@[simp] theorem wipeClusters_clusters : (s.wipeClusters l).clusters = s.clusters := by
  obtain ⟨_, _, _, _, h⟩ := besideCores_wipeClusters s l
  exact (congrArg State.clusters h :)

@[simp] theorem wipeClusters_ten : (s.wipeClusters l).ten = s.ten := by
  obtain ⟨_, _, _, _, h⟩ := besideCores_wipeClusters s l
  exact (congrArg State.ten h :)

@[simp] theorem wipeClusters_sec : (s.wipeClusters l).sec = s.sec := by
  obtain ⟨_, _, _, _, h⟩ := besideCores_wipeClusters s l
  exact (congrArg State.sec h :)

/-- A byte of a wiped cluster reads 0, and every other byte stays. -/
theorem byteAt_wipeClusters (a : Nat) : (s.wipeClusters l).byteAt a = if isDram a = false ∧ clusterOfPhys a ∈ l then 0 else s.byteAt a := by
  obtain ⟨_, _, _, _, h⟩ := besideCores_wipeClusters s l
  have hm : (s.wipeClusters l).mem = s.mem.filter (fun e => !(!isDram e.1 && l.contains (clusterOfPhys e.1))) := (congrArg State.mem h :)
  simp only [State.byteAt, hm, memRead, tabGet]
  split
  · next hin => rw [tabFind_filter_out s.mem (fun a => !(!isDram a && l.contains (clusterOfPhys a))) (by simp [hin])]; rfl
  · next hout =>
    have stays : (!isDram a && l.contains (clusterOfPhys a)) = false :=
      Bool.eq_false_iff.2 fun hin => hout (by simpa only [Bool.and_eq_true, Bool.not_eq_true', List.contains_iff_mem] using hin)
    rw [tabFind_filter s.mem (fun a => !(!isDram a && l.contains (clusterOfPhys a))) (by rw [stays, Bool.not_false])]

end

/-! ### The bits of CLUSTER_RETIRED (R28) -/

theorem bitN_eq_getLsbD (w : W64) (i : Nat) : bitN w.toNat i = w.getLsbD i :=
  (Nat.testBit_eq_decide_div_mod_eq ..).symm

theorem retired_eq (s : State) (j : Nat) : s.retired j = (s.reg (offClusterRetired (j / 64))).getLsbD (j % 64) := bitN_eq_getLsbD ..

/-- Setting the bit of one cluster records it and no other. -/
theorem retired_orReg (s : State) (n j : Nat) :
    (s.orReg (offClusterRetired (n / 64)) (BitVec.ofNat 64 (2 ^ (n % 64)))).retired j = (decide (j = n) || s.retired j) := by
  have hj : j % 64 < 64 := Nat.mod_lt _ (by decide)
  simp only [retired_eq, State.orReg]
  by_cases hw : j / 64 = n / 64
  · have hbit : (2 ^ (n % 64)).testBit (j % 64) = decide (j = n) := by
      rw [Nat.testBit_two_pow]
      exact decide_eq_decide.2 (by omega)
    rw [hw, State.reg_setReg_same, BitVec.getLsbD_or, BitVec.getLsbD_ofNat, hbit, Bool.or_comm]
    simp [hj]
  · have hne : j ≠ n := fun e => hw (by rw [e])
    rw [State.reg_setReg_other _ _ (by unfold offClusterRetired; omega)]
    simp [hne]

/-- The four registers lie outside those that traffic counts in. -/
theorem trafficReg_clusterRetired {j : Nat} (h : j < 200) : trafficReg (offClusterRetired (j / 64)) = false := by
  have hdropped : offClusterRetired (j / 64) ≠ fnReg 0 offEvqDropped := by unfold offClusterRetired fnReg offEvqDropped; omega
  have hblocks : ¬0x40000 ≤ offClusterRetired (j / 64) := by unfold offClusterRetired; omega
  simp only [trafficReg, beq_eq_false_iff_ne.2 hdropped, decide_eq_false hblocks, Bool.or_self]

theorem retired_of_besideTraffic {s t : State} (h : t.besideTraffic = s.besideTraffic) {j : Nat} (hj : j < 200) : t.retired j = s.retired j := by
  rw [retired_eq, retired_eq, reg_of_besideTraffic h (trafficReg_clusterRetired hj)]

end Sys2Proof.Machine
end

section
/-!
SUPPORT. The three events of a cluster (R24, R28, R29) and the statement that gathers them.
-/
namespace Sys2Proof.Machine

/-! ### HSK_METER_WINDOW (R24) -/

theorem hskMeterWindow_waits {s : State} {k : Cluster} (n : Nat) (h : s.time.steps - (s.cluster k).meter < 15625) :
    leadsTo s (.hskMeterWindow k n) (fun t => t = s) :=
  ⟨_, rfl, if_pos (.inr (.inr h))⟩

/-- A full window of n handshakes in 100 µs leaves the mean with 8 fraction bits, which is rounded up only when it is not whole; the choice is a free one. -/
theorem hskMeterWindow_full {s : State} {k : Cluster} {n : Nat} (good : s.retired k = false) (ticks : s.ticks = true)
    (full : 15625 ≤ s.time.steps - (s.cluster k).meter) (hn : n < 2 ^ 24) : ∃ (up : Bool) (ctr : Nat), (up = true → n * 256 % 100 ≠ 0) ∧
      exec (.hskMeterWindow k n) s = .next (({ s with freeCtr := ctr }.setCluster k { s.cluster k with meter := s.time.steps }).setRegN
        (offHskRate k) (n * 256 / 100 + if up then 1 else 0)) := by
  have acts : ¬(s.retired k = true ∨ (!s.ticks) = true ∨ s.time.steps - (s.cluster k).meter < meterSteps) := by
    simp [good, ticks, meterSteps, full]
  have fits : ∀ b : Bool, min (n * 256 / 100 + if b then 1 else 0) (2 ^ 32 - 1) = n * 256 / 100 + if b then 1 else 0 := fun b => by
    split <;> omega
  change ∃ (up : Bool) (ctr : Nat), _ ∧ execHskMeterWindow k n s = _
  unfold execHskMeterWindow
  simp only [if_neg acts]
  by_cases whole : n * 256 % 100 = 0
  · exact ⟨false, s.freeCtr, nofun, by rw [if_pos whole, fits]⟩
  · exact ⟨Config.freeBool s.freeCtr, s.freeCtr + 1, fun _ => whole, by simp only [if_neg whole, fits]; rfl⟩

/-- The meter of the window that ends, read back. -/
theorem hskMeterWindow_counts {s : State} {k : Cluster} {n : Nat} (good : s.retired k = false) (ticks : s.ticks = true)
    (full : 15625 ≤ s.time.steps - (s.cluster k).meter) (hn : n < 2 ^ 24) : leadsTo s (.hskMeterWindow k n) (fun t =>
      let v := (t.reg (0x400000 + 0x4000 * k.val)).toNat
      t.cluster k = { s.cluster k with meter := s.time.steps } ∧ t.mem = s.mem ∧ (v = n * 256 / 100 ∨ (n * 256 % 100 ≠ 0 ∧ v = n * 256 / 100 + 1))) := by
  obtain ⟨up, ctr, hup, he⟩ := hskMeterWindow_full good ticks full hn
  refine ⟨_, he, State.cluster_setCluster_same .., rfl, ?_⟩
  have hread : ∀ (u : State) (v : Nat), v < 2 ^ 64 → ((u.setRegN (offHskRate k) v).reg (0x400000 + 0x4000 * k.val)).toNat = v := fun u v hv => by
    rw [show 0x400000 + 0x4000 * k.val = offHskRate k from rfl, State.setRegN, State.reg_setReg_same, BitVec.toNat_ofNat, Nat.mod_eq_of_lt hv]
  dsimp only
  rw [hread _ _ (by split <;> omega)]
  cases up with
  | false => exact .inl rfl
  | true => exact .inr ⟨hup rfl, rfl⟩

/-! ### CORE_ACK_TIMEOUT (R28) -/

/-- A core of the cluster has failed: the cluster is marked, with the context that has work on it now unless it was marked before. -/
theorem markFailed_spec (s : State) (k : Nat) : ((s.markFailed k).cluster k).failed = true ∧
    ((s.cluster k).failed = false → ((s.markFailed k).cluster k).failCtx = (s.cluster k).owner.map (·.1)) ∧
    (s.markFailed k).mem = s.mem ∧ (s.markFailed k).cores = s.cores ∧ ∀ j, j ≠ k → (s.markFailed k).cluster j = s.cluster j := by
  unfold State.markFailed
  dsimp only
  split
  · next h => exact ⟨h, fun h' => by simp [h] at h', rfl, rfl, fun _ _ => rfl⟩
  · exact ⟨by simp, fun _ => by simp, rfl, rfl, fun j hj => State.cluster_setCluster_other _ _ hj⟩

/-- Whether the engines of a core hold work. -/
theorem engineWork_iff (c : CoreState) : (!c.matQ.isEmpty || !c.vecQ.isEmpty || !c.dmaQ.isEmpty) = true ↔ c.matQ ≠ [] ∨ c.vecQ ≠ [] ∨ c.dmaQ ≠ [] := by
  simp [or_assoc]

theorem coreAckTimeout_fails {s : State} {c : Core} (hrun : s.enginesRun c = true)
    (hwork : (s.core c).matQ ≠ [] ∨ (s.core c).vecQ ≠ [] ∨ (s.core c).dmaQ ≠ []) :
    exec (.coreAckTimeout c) s = .next (s.markFailed (c.val / 128)) :=
  congrArg _ (if_pos (by rw [hrun, (engineWork_iff _).2 hwork]; rfl))

theorem coreAckTimeout_idle {s : State} {c : Core}
    (h : s.enginesRun c = false ∨ ((s.core c).matQ = [] ∧ (s.core c).vecQ = [] ∧ (s.core c).dmaQ = [])) :
    exec (.coreAckTimeout c) s = .next s := by
  refine congrArg _ (if_neg ?_)
  rcases h with h | ⟨h1, h2, h3⟩
  · simp [h]
  · simp [h1, h2, h3]

/-! ### CLUSTER_RETIRED (R28, R29) -/

/-- The first steps of R28: a cluster's port is closed, and the context that had work on it when the failure was detected is torn down with "hardware lost". -/
def State.cutOff (s : State) (k : Nat) : State :=
  let closed := s.setCluster k { s.cluster k with portClosed := true }
  match (s.cluster k).failCtx with
  | some c => closed.fault c clsHwLost k
  | none => closed

/-- A cluster given up (R28, R29): it is cut off, its stores are wiped, and the retirement is recorded in CLUSTER_RETIRED and in flash. -/
def State.giveUp (s : State) (k : Nat) : State :=
  let marked := ((s.cutOff k).wipeClusters [k]).orReg (offClusterRetired (k / 64)) (BitVec.ofNat 64 (2 ^ (k % 64)))
  { marked with sec := { marked.sec with flash := { marked.sec.flash with retired := setAdd marked.sec.flash.retired k } } }

section
variable (s : State) (k : Nat)

theorem cutOff_frame : (s.cutOff k).mem = s.mem ∧ (s.cutOff k).regs = s.regs ∧ (s.cutOff k).sec = s.sec := by
  unfold State.cutOff
  dsimp only
  split
  · exact ⟨fault_mem .., fault_regs .., fault_sec ..⟩
  · exact ⟨rfl, rfl, rfl⟩

@[simp] theorem cutOff_mem : (s.cutOff k).mem = s.mem := (cutOff_frame s k).1
@[simp] theorem cutOff_regs : (s.cutOff k).regs = s.regs := (cutOff_frame s k).2.1
@[simp] theorem cutOff_sec : (s.cutOff k).sec = s.sec := (cutOff_frame s k).2.2

@[simp] theorem cutOff_clusters : (s.cutOff k).clusters = (s.setCluster k { s.cluster k with portClosed := true }).clusters := by
  unfold State.cutOff
  dsimp only
  split
  · exact fault_clusters ..
  · rfl

theorem cutOff_ends {c : Nat} {x : CtxState} (hc : (s.cluster k).failCtx = some c) (hx : s.ctx? c = some x) (hp : x.phase ≠ .ending) :
    (s.cutOff k).ends c 5 0 k := by
  simp only [State.cutOff, hc]
  exact fault_ends _ c clsHwLost k hx hp

theorem giveUp_cluster : (s.giveUp k).cluster k = { s.cluster k with portClosed := true } := by
  have hcl : (s.giveUp k).clusters = (s.setCluster k { s.cluster k with portClosed := true }).clusters := by simp [State.giveUp]
  rw [State.cluster, hcl]
  exact State.cluster_setCluster_same ..

theorem giveUp_flashRetired : (s.giveUp k).sec.flash.retired = setAdd s.sec.flash.retired k := by
  simp [State.giveUp]

theorem giveUp_byteAt (a : Nat) : (s.giveUp k).byteAt a = if isDram a = false ∧ clusterOfPhys a = k then 0 else s.byteAt a := by
  have hwipe := byteAt_wipeClusters (s.cutOff k) [k] a
  simp only [List.mem_singleton, State.byteAt, cutOff_mem] at hwipe
  exact hwipe

theorem giveUp_retired (j : Nat) : (s.giveUp k).retired j = (decide (j = k) || s.retired j) := by
  have hkeep : ((s.cutOff k).wipeClusters [k]).retired j = s.retired j := by
    simp [State.retired, State.regN, State.reg]
  rw [← hkeep]
  exact retired_orReg ..

theorem giveUp_ends {c : Nat} {x : CtxState} (hc : (s.cluster k).failCtx = some c) (hx : s.ctx? c = some x) (hp : x.phase ≠ .ending) :
    (s.giveUp k).ends c 5 0 k :=
  ends_of_ctx (by simp [State.giveUp, State.ctx?]) (cutOff_ends s k hc hx hp)

end

/-- A failed cluster that is not retired yet is given up while firmware runs, and the event of it is posted. -/
theorem clusterRetired_next {s : State} {k : Cluster} (hboot : s.sec.boot = .running) (hpower : s.power.tripped = false)
    (hfailed : (s.cluster k).failed = true) (hgood : s.retired k = false) :
    exec (.clusterRetired k) s = .next ({ s.giveUp k with power := { (s.giveUp k).power with alertN := false } }.eventBoth 0x10 none k 0) := by
  have acts : ¬((!s.firmware) = true ∨ (!(s.cluster k).failed) = true ∨ s.retired k = true) := by
    simp [State.firmware, hboot, hpower, hfailed, hgood]
  exact congrArg _ (if_neg acts)

/-- What is left of a cluster that is given up (R28, R29). -/
theorem clusterRetired_gives_up {s : State} {k : Cluster} (hboot : s.sec.boot = .running) (hpower : s.power.tripped = false)
    (hfailed : (s.cluster k).failed = true) (hgood : s.retired k = false) : leadsTo s (.clusterRetired k) (fun t =>
      t.retired k = true ∧ (∀ j < 200, j ≠ k.val → t.retired j = s.retired j) ∧
      t.cluster k = { s.cluster k with portClosed := true } ∧ t.sec.flash.retired = setAdd s.sec.flash.retired k ∧ t.power.alertN = false ∧
      (∀ a, t.byteAt a = if isDram a = false ∧ clusterOfPhys a = k.val then 0 else s.byteAt a) ∧
      (∀ c x, (s.cluster k).failCtx = some c → s.ctx? c = some x → x.phase ≠ .ending → t.ends c 5 0 k)) := by
  refine ⟨_, clusterRetired_next hboot hpower hfailed hgood, ?_⟩
  have event := besideTraffic_eventBoth { s.giveUp k with power := { (s.giveUp k).power with alertN := false } } 0x10 none k 0
  refine ⟨?_, fun j hj hne => ?_, ?_, ?_, ?_, fun a => ?_, fun c x hc hx hp => ?_⟩
  · rw [retired_of_besideTraffic event k.isLt]
    exact (giveUp_retired s k k).trans (by simp)
  · rw [retired_of_besideTraffic event hj]
    exact (giveUp_retired s k j).trans (by simp [hne])
  · rw [cluster_of_besideTraffic event]
    exact giveUp_cluster s k
  · rw [sec_of_besideTraffic event]
    exact giveUp_flashRetired s k
  · rw [power_of_besideTraffic event]
  · rw [State.byteAt, mem_of_besideTraffic event]
    exact giveUp_byteAt s k a
  · exact ends_of_ctx (ctx_of_besideTraffic event c) (giveUp_ends s k hc hx hp)

/-- Settles O53: the meter's window and the failed core act on one register and one mark, and of a cluster given up each part stands after the event that reports it, which moves traffic alone. -/
theorem clustersAreMeteredAndRetired : Obligations.ClustersAreMeteredAndRetired := by
  unfold Obligations.ClustersAreMeteredAndRetired
  intro s k
  refine ⟨fun n => hskMeterWindow_counts, fun n => hskMeterWindow_waits n, fun c => ⟨fun hrun hwork => ?_, fun hidle => ?_⟩, clusterRetired_gives_up⟩
  · exact ⟨_, coreAckTimeout_fails hrun hwork, markFailed_spec s (c.val / 128)⟩
  · exact ⟨_, coreAckTimeout_idle hidle, rfl⟩

end Sys2Proof.Machine
end

section
/-!
SUPPORT. Numbers and their bytes: what a little-endian string and a packed list of elements hold, field by field and bit by bit.
-/
namespace Sys2Proof.Machine

theorem leNat_lt (bs : List Byte) : leNat bs < 2 ^ (8 * bs.length) := by
  induction bs with
  | nil => simp [leNat]
  | cons b r ih =>
    have hb : b.toNat < 256 := b.isLt
    rw [List.length_cons, Nat.mul_succ, Nat.pow_add, leNat]
    omega

theorem leNat_append (a b : List Byte) : leNat (a ++ b) = leNat a + 2 ^ (8 * a.length) * leNat b := by
  induction a with
  | nil => simp [leNat]
  | cons x r ih =>
    have hshift : 2 ^ (8 * r.length) * 2 ^ 8 * leNat b = 256 * (2 ^ (8 * r.length) * leNat b) := (Nat.mul_right_comm ..).trans (Nat.mul_comm ..)
    rw [List.cons_append, leNat, leNat, ih, List.length_cons, Nat.mul_succ, Nat.pow_add, hshift, Nat.mul_add, Nat.add_assoc]

theorem leNat_leBytes (n v : Nat) : leNat (leBytes n v) = v % 2 ^ (8 * n) := by
  induction n with
  | zero => simp [leBytes, leNat, Nat.mod_one]
  | succ n ih =>
    have hsplit : leBytes (n + 1) v = leBytes n v ++ [BitVec.ofNat 8 (v / 256 ^ n)] := by simp [leBytes, List.range_succ]
    rw [hsplit, leNat_append, ih, length_leBytes, Nat.mul_succ, Nat.pow_add, Nat.mod_mul, Nat.pow_mul 2 8 n]
    simp [leNat]

theorem testBit_leNat (bs : List Byte) (j : Nat) : (leNat bs).testBit j = (bs.getD (j / 8) 0).getLsbD (j % 8) := by
  induction bs generalizing j with
  | nil => simp [leNat]
  | cons b r ih =>
    rw [leNat, Nat.add_comm, show 256 = 2 ^ 8 from rfl, Nat.testBit_two_pow_mul_add _ b.isLt]
    by_cases hj : j < 8
    · rw [if_pos hj, Nat.div_eq_of_lt hj, Nat.mod_eq_of_lt hj]
      rfl
    · obtain ⟨k, rfl⟩ : ∃ k, j = k + 8 := ⟨j - 8, by omega⟩
      rw [if_neg hj, Nat.add_sub_cancel, ih, Nat.add_div_right k (by decide), Nat.add_mod_right, List.getD_cons_succ]

@[simp] theorem length_elemsOf (w n v : Nat) : (elemsOf w n v).length = n := by simp [elemsOf]

theorem packElems_lt (w : Nat) (l : List Nat) : packElems w l < 2 ^ (w * l.length) := by
  induction l with
  | nil => simp [packElems]
  | cons x r ih =>
    have hx : x % 2 ^ w < 2 ^ w := Nat.mod_lt _ (Nat.two_pow_pos w)
    rw [List.length_cons, Nat.mul_succ, Nat.add_comm, Nat.pow_add, packElems]
    calc x % 2 ^ w + 2 ^ w * packElems w r < 2 ^ w * (packElems w r + 1) := by rw [Nat.mul_succ]; omega
      _ ≤ 2 ^ w * 2 ^ (w * r.length) := Nat.mul_le_mul_left _ ih

/-- Element i of a packed list. -/
theorem packElems_elem (w : Nat) (l : List Nat) (i : Nat) : packElems w l / 2 ^ (w * i) % 2 ^ w = l.getD i 0 % 2 ^ w := by
  induction l generalizing i with
  | nil => simp [packElems]
  | cons x r ih =>
    cases i with
    | zero => simp [packElems]
    | succ i =>
      have hx : x % 2 ^ w < 2 ^ w := Nat.mod_lt _ (Nat.two_pow_pos w)
      rw [packElems, Nat.mul_succ, Nat.add_comm (w * i) w, Nat.pow_add, ← Nat.div_div_eq_div_mul, Nat.add_mul_div_left _ _ (Nat.two_pow_pos w),
        Nat.div_eq_of_lt hx, Nat.zero_add, ih]
      rfl

theorem testBit_packElems_one (l : List Bool) (j : Nat) : (packElems 1 (l.map Bool.toNat)).testBit j = l.getD j false := by
  have h := packElems_elem 1 (l.map Bool.toNat) j
  rw [Nat.one_mul, Nat.pow_one] at h
  rw [Nat.testBit_eq_decide_div_mod_eq, h, List.getD_eq_getElem?_getD, List.getD_eq_getElem?_getD, List.getElem?_map]
  cases l[j]? with
  | none => rfl
  | some x => cases x <;> rfl

/-- Elements of n bytes each, written one after the other, are the packed list. -/
theorem leNat_flatMap_leBytes (n : Nat) (l : List Nat) : leNat (l.flatMap (leBytes n)) = packElems (8 * n) l := by
  induction l with
  | nil => rfl
  | cons x r ih => rw [List.flatMap_cons, leNat_append, leNat_leBytes, length_leBytes, ih, packElems]

theorem length_flatMap_leBytes (n : Nat) (l : List Nat) : (l.flatMap (leBytes n)).length = l.length * n := by
  induction l with
  | nil => exact (Nat.zero_mul n).symm
  | cons x r ih => rw [List.flatMap_cons, List.length_append, length_leBytes, ih, List.length_cons, Nat.succ_mul, Nat.add_comm]

/-- A union of numbers gathered in a loop has the bits that one of them has. -/
theorem testBit_foldl_or {α : Type} (m : α → Nat) (l : List α) (a j : Nat) :
    (l.foldl (fun x i => x ||| m i) a).testBit j = (a.testBit j || l.any (fun i => (m i).testBit j)) := by
  induction l generalizing a with
  | nil => simp
  | cons i r ih => simp [ih, Bool.or_assoc]

end Sys2Proof.Machine
end

section
/-!
SUPPORT. The vector engine's accesses to the local windows (R117, R136 to R138, R144): what is read back after a write, and what a write and the counters of R53 leave alone.
-/
namespace Sys2Proof.Machine

/-! ### Reads and writes of memory -/

theorem readNat_congr {s t : State} {p n : Nat} (h : ∀ i < n, t.byteAt (p + i) = s.byteAt (p + i)) : t.readNat p n = s.readNat p n := by
  unfold State.readNat
  rw [readPhys_eq, readPhys_eq, List.map_congr_left (fun i hi => h i (List.mem_range.1 hi))]

theorem readNat_lt (s : State) (p n : Nat) : s.readNat p n < 2 ^ (8 * n) := by
  simpa [State.readNat, readPhys_eq] using leNat_lt (s.readPhys p n)

theorem readNat_writePhys_same (s : State) (p : Nat) (bs : List Byte) : (s.writePhys p bs).readNat p bs.length = leNat bs := by
  have h : (s.writePhys p bs).readPhys p bs.length = bs := by
    rw [readPhys_eq]
    refine List.ext_getElem (by simp) (fun i hi hi' => ?_)
    rw [List.getElem_map, List.getElem_range]
    exact byteAt_writePhys_same s bs hi'
  rw [State.readNat, h]

theorem testBit_readNat (s : State) (p : Nat) {n j : Nat} (h : j < 8 * n) : (s.readNat p n).testBit j = (s.byteAt (p + j / 8)).getLsbD (j % 8) := by
  have hj : j / 8 < n := by omega
  simp [State.readNat, testBit_leNat, readPhys_eq, List.getD_eq_getElem?_getD, hj]

section
variable {s : State} {core a n p : Nat}

theorem localNat_eq (h : localPhys core a n = some p) : s.localNat core a n = s.readNat p n := by
  simp [State.localNat, h]

theorem localNat_congr {t : State} (h : t.mem = s.mem) : t.localNat core a n = s.localNat core a n := by
  simp [State.localNat, State.readNat, State.readPhys, h]

@[simp] theorem localNat_presentVec (l : List (Nat × Nat)) (w : Bool) : (s.presentVec core l w).localNat core a n = s.localNat core a n :=
  localNat_congr rfl

variable {bs : List Byte} (hn : bs.length = n) (h : localPhys core a n = some p)
include hn h

theorem vxWrite_eq : s.vxWrite core a bs = (s.presentVec core [(a, n)] true).writePhys p bs := by
  subst hn
  simp [State.vxWrite, State.localWrite, h]

theorem readNat_vxWrite_same : (s.vxWrite core a bs).readNat p n = leNat bs := by
  rw [vxWrite_eq hn h, ← hn]
  exact readNat_writePhys_same ..

theorem byteAt_vxWrite_other {x : Nat} (hx : x < p ∨ p + n ≤ x) : (s.vxWrite core a bs).byteAt x = s.byteAt x := by
  rw [vxWrite_eq hn h]
  exact byteAt_writePhys_other _ bs (by rwa [hn])

theorem readNat_vxWrite_other {p' n' : Nat} (hx : p' + n' ≤ p ∨ p + n ≤ p') : (s.vxWrite core a bs).readNat p' n' = s.readNat p' n' :=
  readNat_congr (fun i hi => byteAt_vxWrite_other hn h (by omega))

end

/-- Elements that fill their bytes are written as they are. -/
theorem writePacked_whole {s : State} {core a p w nb : Nat} {codes : List Nat} (hlen : w * codes.length = 8 * nb) (h : localPhys core a nb = some p) :
    s.writePacked core a w codes = s.vxWrite core a (leBytes nb (packElems w codes)) := by
  have hnb : ceilDiv (8 * nb) 8 = nb := by unfold ceilDiv; omega
  have hold : s.localNat core a nb / 2 ^ (8 * nb) = 0 := Nat.div_eq_of_lt (by rw [localNat_eq h]; exact readNat_lt s p nb)
  simp [State.writePacked, hlen, hnb, hold]

/-! ### What an access and a count leave alone -/

/-- What decides which commands the engines of a core take, and what these keep of the package: the cores, the clusters and which of them are retired, the contexts, the security state
and the power. -/
def State.engineView (s : State) : Tab CoreState × Tab ClusterState × TenState × SecState × PowerState × (Cluster → Bool) :=
  (s.cores, s.clusters, s.ten, s.sec, s.power, fun k => s.retired k)

theorem engineView_eq_iff {s t : State} : t.engineView = s.engineView ↔
    t.cores = s.cores ∧ t.clusters = s.clusters ∧ t.ten = s.ten ∧ t.sec = s.sec ∧ t.power = s.power ∧ ∀ k : Cluster, t.retired k = s.retired k := by
  simp [State.engineView, funext_iff]

theorem enginesBegin_of_engineView {s t : State} (h : t.engineView = s.engineView) (core : Core) : t.enginesBegin core = s.enginesBegin core := by
  obtain ⟨_, hclusters, hten, _, hpower, hretired⟩ := engineView_eq_iff.1 h
  have hcluster : t.retired (coreCluster core) = s.retired (coreCluster core) := hretired ⟨coreCluster core, by unfold coreCluster; omega⟩
  have howner : t.coreCtx core = s.coreCtx core := by simp only [State.coreCtx, State.ownerOf, State.cluster, hclusters]
  have hctx : t.ctx? = s.ctx? := funext fun c => by simp only [State.ctx?, hten]
  have hphase : t.ctxPhase? = s.ctxPhase? := funext fun c => by simp only [State.ctxPhase?, hctx]
  simp only [State.enginesBegin, State.enginesRun, howner, hctx, hphase, hpower, hcluster]

/-- A register other than the four that record retired clusters. -/
theorem engineView_setReg (s : State) {a : Nat} (v : W64) (h : ∀ j < 4, a ≠ offClusterRetired j) : (s.setReg a v).engineView = s.engineView := by
  refine engineView_eq_iff.2 ⟨rfl, rfl, rfl, rfl, rfl, fun k => ?_⟩
  rw [retired_eq, retired_eq, State.reg_setReg_other _ _ (h _ (by omega)).symm]

@[simp] theorem engineView_countR53 (s : State) (ctx hr nf : Nat) : (s.countR53 ctx hr nf).engineView = s.engineView := by
  have counted : ∀ (u : State) {a : Nat} (n : Nat), (∀ j < 4, a ≠ offClusterRetired j) → (u.count a n).engineView = u.engineView :=
    fun u _ _ h => engineView_setReg u _ h
  unfold State.countR53
  rw [counted, counted, counted, counted] <;> intro j hj <;>
    simp only [offHeadroom, offNonfinite, ctxReg, fnReg, offHeadroomFn, offNonfiniteFn, offClusterRetired] <;> omega

@[simp] theorem engineView_presentVec (s : State) (core : Nat) (l : List (Nat × Nat)) (w : Bool) : (s.presentVec core l w).engineView = s.engineView := rfl

@[simp] theorem byteAt_presentVec (s : State) (core : Nat) (l : List (Nat × Nat)) (w : Bool) (x : Nat) : (s.presentVec core l w).byteAt x = s.byteAt x := rfl
@[simp] theorem readNat_presentVec (s : State) (core : Nat) (l : List (Nat × Nat)) (w : Bool) (p n : Nat) : (s.presentVec core l w).readNat p n = s.readNat p n := rfl
@[simp] theorem byteAt_countR53 (s : State) (ctx hr nf x : Nat) : (s.countR53 ctx hr nf).byteAt x = s.byteAt x := rfl
@[simp] theorem readNat_countR53 (s : State) (ctx hr nf p n : Nat) : (s.countR53 ctx hr nf).readNat p n = s.readNat p n := rfl

@[simp] theorem engineView_vxWrite (s : State) (core a : Nat) (bs : List Byte) : (s.vxWrite core a bs).engineView = s.engineView := by
  unfold State.vxWrite State.localWrite
  split
  · simp [engineView_eq_iff, State.retired, State.regN, State.reg, State.presentVec]
  · rfl

end Sys2Proof.Machine
end

section
/-!
SUPPORT. A vector block command at the head of its queue (R131, R136, R423): which commands are taken, the checks before its first row, and its rows when nothing stops its engine.
-/
namespace Sys2Proof.Machine

/-- The head of a core's vector queue replaced by an entry: the rest of the core, every other core and the contexts stand as before. -/
def State.HeadReplaced (s t : State) (core : Core) (i : VItem) (rest : List VItem) : Prop :=
  t.core core = { s.core core with vecQ := i :: rest } ∧ (∀ j, j ≠ core.val → t.core j = s.core j) ∧ t.ten = s.ten

/-! ### The queue's head -/

section
variable {s : State} {core : Core} {b : List Byte} {rest : List VItem} (hbegin : s.enginesBegin core = true) (hq : (s.core core).vecQ = .block b :: rest)
include hbegin hq

theorem onVxHead_block (op : Nat) (f : State → List Byte → BlockPos → State) : s.onVxHead core op f =
    if fieldN b 0 1 = op then f s b .start
    else if fieldN b 0 1 = 0x11 ∨ fieldN b 0 1 = 0x12 ∨ fieldN b 0 1 = 0x13 then s else s.faultBad core (fieldN b 0 1) := by
  have hrun : s.enginesRun core = true := by
    unfold State.enginesBegin at hbegin
    exact (Bool.and_eq_true_iff.1 hbegin).1
  have hhead : (s.core core).vxHead = some (b, .start) := by simp [CoreState.vxHead, hq]
  simp [State.onVxHead, hrun, hbegin, hhead]

/-- The head replaced, in a state that differs from the one that took the command in no core and in nothing that stops its engine. -/
theorem setVxHead_of_engineView {u : State} (h : u.engineView = s.engineView) (i : VItem) : s.HeadReplaced (u.setVxHead core i) core i rest := by
  obtain ⟨hcores, _, hten, _⟩ := engineView_eq_iff.1 h
  have hcore : ∀ j, u.core j = s.core j := fun j => by rw [State.core, hcores, State.core]
  have hgo : u.enginesBegin core = true := (enginesBegin_of_engineView h core).trans hbegin
  refine ⟨?_, fun j hj => ?_, hten⟩
  · simp [State.setVxHead, hgo, hcore, hq]
  · exact (State.core_modCore_other u _ hj).trans (hcore j)

end

@[simp] theorem byteAt_setVxHead (s : State) (core : Nat) (i : VItem) (x : Nat) : (s.setVxHead core i).byteAt x = s.byteAt x := rfl
@[simp] theorem readNat_setVxHead (s : State) (core : Nat) (i : VItem) (p n : Nat) : (s.setVxHead core i).readNat p n = s.readNat p n := rfl

/-! ### The checks (R131, R144) -/

theorem checkPieces_clean {s : State} {core : Nat} {l : List (Nat × Nat)}
    (h : ∀ q ∈ l, ∃ p, localPhys core q.1 q.2 = some p ∧ s.clean p q.2 = true) : s.checkPieces core true l = (s, none) := by
  induction l with
  | nil => rfl
  | cons q r ih =>
    obtain ⟨p, hp, hclean⟩ := h q (by simp)
    simp [State.checkPieces, hp, checkSram_clean hclean, ih (fun q hq => h q (by simp [hq]))]

theorem blockStep_illegal (s : State) (core op : Nat) (reads : List (Nat × Nat)) (f : State → State) :
    s.blockStep core op false reads f = s.faultBad core op := rfl

theorem blockStep_clean {s : State} {core : Nat} {reads : List (Nat × Nat)} (op : Nat) (f : State → State)
    (h : ∀ q ∈ reads, ∃ p, localPhys core q.1 q.2 = some p ∧ s.clean p q.2 = true) :
    s.blockStep core op true reads f = f (s.presentVec core (reads.filter (fun p => p.2 != 0)) false) := by
  simp [State.blockStep, checkPieces_clean (fun q hq => h q (List.mem_filter.1 hq).1)]

/-! ### From the head to the first row -/

section
variable {s : State} {core : Core} {b : List Byte} {rest : List VItem} (hbegin : s.enginesBegin core = true) (hq : (s.core core).vecQ = .block b :: rest)
  {op : Nat} (hop : fieldN b 0 1 = op) {legal : List Byte → Bool}
include hbegin hq hop

theorem vxHead_illegal (h : legal b = false) (reads : List Byte → BlockPos → List (Nat × Nat)) (work : List Byte → BlockPos → State → State) :
    s.onVxHead core op (fun s b p => s.blockStep core op (legal b) (reads b p) (work b p)) = s.faultBad core (fieldN b 0 1) := by
  rw [onVxHead_block hbegin hq, if_pos hop, h, blockStep_illegal, hop]

/-- A legal block whose operands read without an error is worked after its reads are presented. -/
theorem vxHead_clean (h : legal b = true) (reads : List Byte → BlockPos → List (Nat × Nat)) (work : List Byte → BlockPos → State → State)
    (hreads : ∀ q ∈ reads b .start, ∃ p, localPhys core q.1 q.2 = some p ∧ s.clean p q.2 = true) :
    ∃ l, s.onVxHead core op (fun s b p => s.blockStep core op (legal b) (reads b p) (work b p)) = work b .start (s.presentVec core l false) :=
  ⟨_, by rw [onVxHead_block hbegin hq, if_pos hop, h, blockStep_clean _ _ hreads]⟩

end

/-! ### Rows of an engine that nothing stops (R423) -/

section
variable {s : State} {core : Core} (hbegin : s.enginesBegin core = true) (b : List Byte) (row : State → BlockPos → State × BlockPos)
  (last : State → BlockPos → State × VItem)
include hbegin

/-- A command of one row or head is done after it. -/
theorem vxRows_one : s.vxRows core b .start 1 row last =
    (last (row s .start).1 { (row s .start).2 with next := 1 }).1.setVxHead core (last (row s .start).1 { (row s .start).2 with next := 1 }).2 := by
  simp [State.vxRows, State.stopPoint, hbegin, BlockPos.start, List.range_succ]

/-- Rows that write nothing and gather a mask give the union of their masks. -/
theorem vxRows_gather (n : Nat) (m : Nat → Nat) (hrow : ∀ p, row s p = (s, { p with mask := p.mask ||| m p.next })) :
    let done : BlockPos := { BlockPos.start with next := n, mask := (List.range n).foldl (fun x i => x ||| m i) 0 }
    s.vxRows core b .start n row last = (last s done).1.setVxHead core (last s done).2 := by
  have hfold : ∀ k, (List.range k).foldl (fun (a : State × BlockPos) _ => ((row a.1 a.2).1, { (row a.1 a.2).2 with next := a.2.next + 1 })) (s, .start) =
      (s, { BlockPos.start with next := k, mask := (List.range k).foldl (fun x i => x ||| m i) 0 }) := by
    intro k
    induction k with
    | zero => rfl
    | succ k ih => simp [List.range_succ, ih, hrow]
  have hall : n - BlockPos.start.next = n := rfl
  simp [State.vxRows, State.stopPoint, hbegin, hall, hfold]

end

end Sys2Proof.Machine
end

section
/-!
SUPPORT. VX.QUANT (R40, R55, R136): one row of one block, and what it writes.
-/
namespace Sys2Proof.Machine

theorem vxQuant_reserved {s : State} {core : Core} {b : List Byte} {rest : List VItem} (hbegin : s.enginesBegin core = true)
    (hq : (s.core core).vecQ = .block b :: rest) (h11 : fieldN b 0 1 ≠ 0x11) (h12 : fieldN b 0 1 ≠ 0x12) (h13 : fieldN b 0 1 ≠ 0x13) :
    exec (.vxQuant core) s = .next (s.faultBad core (fieldN b 0 1)) := by
  refine congrArg Host.Outcome.next ((onVxHead_block hbegin hq _ _).trans ?_)
  rw [if_neg h11, if_neg (by simp [h11, h12, h13])]

/-- Bytes of a row of elements read. -/
def QuantCmd.inBytes (q : QuantCmd) : Nat := q.cols * (q.inWidth / 8)
/-- Bytes of a row of codes that ends with a byte. -/
def QuantCmd.outBytes (q : QuantCmd) : Nat := q.cols * q.outWidth / 8

/-- The shape of a command of one row of one block without an amax array: its elements, in format fi, lie at the physical address pin, its codes go to pout, ending with a byte, and its
scale, apart from them, to psc. -/
structure QuantCmd.OneBlock (q : QuantCmd) (core : Nat) (fi : EFmt) (pin pout psc : Nat) : Prop where
  rows : q.rows = 1
  colsPos : 1 ≤ q.cols
  colsLe : q.cols ≤ schemeLen q.scheme
  noAmax : q.amaxEn = false
  whole : q.cols * q.outWidth % 8 = 0
  fmt : efmtOf q.inFmt = some fi
  inAt : localPhys core q.inPtr q.inBytes = some pin
  outAt : localPhys core q.outPtr q.outBytes = some pout
  scaleAt : localPhys core q.scalePtr (schemeBytes q.scheme) = some psc
  apart : pout + q.outBytes ≤ psc ∨ psc + schemeBytes q.scheme ≤ pout

theorem cols_pos_of_quantLegal {core : Nat} {b : List Byte} (h : quantLegal core b = true) : 1 ≤ (quantCmd b).cols := by
  simp only [quantLegal, Bool.and_eq_true, decide_eq_true_eq] at h
  obtain ⟨⟨⟨⟨⟨⟨⟨⟨-, hcols⟩, -⟩, -⟩, -⟩, -⟩, -⟩, -⟩, -⟩ := h
  exact hcols

/-- What quantising the block of a command's only row gives, of the elements in format fi that the number `raw` holds. -/
def State.oneBlock (s : State) (core : Nat) (q : QuantCmd) (fi : EFmt) (raw : Nat) : QBlock :=
  quantBlock q.scheme q.outFmt q.sr q.ieee
    (fun e => srBits (s.srKeyOf core) q.tensor ((q.index + BitVec.ofNat 64 e) &&& 0xFFFFFFFFFFFF#64) (s.core core).step)
    ((List.range q.cols).map (fun i => decodeElem fi (raw / 2 ^ (q.inWidth * i) % 2 ^ q.inWidth)))

@[simp] theorem length_codes_oneBlock (s : State) (core : Nat) (q : QuantCmd) (fi : EFmt) (raw : Nat) : (s.oneBlock core q fi raw).codes.length = q.cols := by
  simp [State.oneBlock, quantBlock]

@[simp] theorem oneBlock_presentVec (s : State) (core : Nat) (q : QuantCmd) (fi : EFmt) (raw : Nat) (l : List (Nat × Nat)) (w : Bool) :
    (s.presentVec core l w).oneBlock core q fi raw = s.oneBlock core q fi raw := rfl

section
variable {s : State} {core : Nat} {q : QuantCmd} {fi : EFmt} {pin pout psc : Nat} (shape : q.OneBlock core fi pin pout psc)
include shape

theorem codes_whole (raw : Nat) : q.outWidth * (s.oneBlock core q fi raw).codes.length = 8 * q.outBytes := by
  have hwhole := shape.whole
  rw [length_codes_oneBlock, Nat.mul_comm q.outWidth, QuantCmd.outBytes]
  omega

theorem leNat_codes (raw : Nat) :
    leNat (leBytes q.outBytes (packElems q.outWidth (s.oneBlock core q fi raw).codes)) = packElems q.outWidth (s.oneBlock core q fi raw).codes := by
  rw [leNat_leBytes, ← codes_whole shape raw]
  exact Nat.mod_eq_of_lt (packElems_lt _ _)

/-- The row's codes fill their bytes, so that they are written as they are, and the scale after them. -/
theorem quantRow_oneBlock :
    let r := s.oneBlock core q fi (s.readNat pin q.inBytes)
    let u := s.vxWrite core q.outPtr (leBytes q.outBytes (packElems q.outWidth r.codes))
    s.quantRow core q .start = (if q.scheme = 0 then u else u.vxWrite core q.scalePtr (leBytes (schemeBytes q.scheme) r.scale),
      { BlockPos.start with mon := QMon.start.add r }) := by
  intro r
  have hpos := shape.colsPos
  have hle := shape.colsLe
  have hone : q.perRow = 1 := Nat.div_eq_of_lt_le (by omega) (by omega)
  have hraw : s.localNat core q.inPtr (q.cols * (q.inWidth / 8)) = s.readNat pin q.inBytes := localNat_eq shape.inAt
  have hall : ∀ raw, ((elemsOf q.inWidth q.cols raw).map (decodeElem fi)).take (schemeLen q.scheme) =
      (List.range q.cols).map (fun i => decodeElem fi (raw / 2 ^ (q.inWidth * i) % 2 ^ q.inWidth)) := fun raw => by
    rw [List.take_of_length_le (by simpa using hle), elemsOf, List.map_map]
    rfl
  rw [← writePacked_whole (codes_whole shape _) shape.outAt]
  simp [r, State.quantRow, State.oneBlock, hone, hraw, hall, shape.fmt, shape.noAmax, QuantCmd.inRange, QuantCmd.outRange, BlockPos.start]

/-- The only block's codes and scale, and the bytes that stay. -/
theorem quantRow_oneBlock_writes :
    let r := s.oneBlock core q fi (s.readNat pin q.inBytes)
    let u := (s.quantRow core q .start).1
    u.engineView = s.engineView ∧
    (∀ i < q.cols, u.readNat pout q.outBytes / 2 ^ (q.outWidth * i) % 2 ^ q.outWidth = r.codes.getD i 0 % 2 ^ q.outWidth) ∧
    (q.scheme ≠ 0 → u.readNat psc (schemeBytes q.scheme) = r.scale % 256 ^ schemeBytes q.scheme) ∧
    (∀ x, (x < pout ∨ pout + q.outBytes ≤ x) → (x < psc ∨ psc + schemeBytes q.scheme ≤ x) → u.byteAt x = s.byteAt x) := by
  intro r u
  have hcodes := leNat_codes (s := s) shape (s.readNat pin q.inBytes)
  have hrow : u = _ := congrArg Prod.fst (quantRow_oneBlock shape)
  by_cases h0 : q.scheme = 0
  · rw [if_pos h0] at hrow
    refine ⟨by simp [hrow], fun i _ => ?_, fun h => absurd h0 h, fun x hx _ => ?_⟩
    · rw [hrow, readNat_vxWrite_same (length_leBytes ..) shape.outAt, hcodes, packElems_elem]
    · rw [hrow, byteAt_vxWrite_other (length_leBytes ..) shape.outAt hx]
  · rw [if_neg h0] at hrow
    refine ⟨by simp [hrow], fun i _ => ?_, fun _ => ?_, fun x hx hy => ?_⟩
    · rw [hrow, readNat_vxWrite_other (length_leBytes ..) shape.scaleAt shape.apart, readNat_vxWrite_same (length_leBytes ..) shape.outAt, hcodes, packElems_elem]
    · rw [hrow, readNat_vxWrite_same (length_leBytes ..) shape.scaleAt, leNat_leBytes, Nat.pow_mul]
    · rw [hrow, byteAt_vxWrite_other (length_leBytes ..) shape.scaleAt hy, byteAt_vxWrite_other (length_leBytes ..) shape.outAt hx]

end

section
variable {s : State} {core : Core} {b : List Byte} {rest : List VItem} (hbegin : s.enginesBegin core = true) (hq : (s.core core).vecQ = .block b :: rest)
  (hop : fieldN b 0 1 = 0x11)
include hbegin hq hop

theorem vxQuant_illegal (h : quantLegal core b = false) : exec (.vxQuant core) s = .next (s.faultBad core (fieldN b 0 1)) :=
  congrArg Host.Outcome.next (vxHead_illegal hbegin hq hop h (fun b p => ((List.range (quantCmd b).rows).drop p.next).map (quantCmd b).inRange) _)

variable (h : quantLegal core b = true) {fi : EFmt} {pin pout psc : Nat} (shape : (quantCmd b).OneBlock core fi pin pout psc)
  (hclean : s.clean pin (quantCmd b).inBytes = true)
include h shape hclean

theorem vxQuant_oneRow : ∃ l, exec (.vxQuant core) s = .next (
    let x := (s.presentVec core l false).quantRow core (quantCmd b) .start
    (x.1.countR53 ((x.1.coreCtx core).getD 0) x.2.mon.hr x.2.mon.nf).setVxHead core
      (.worked b (some ((quantCmd b).monPtr, x.2.mon.record (quantCmd b).sr x.1.sec.arithRev)) none)) := by
  have hread : ∃ p, localPhys core (quantCmd b).inPtr ((quantCmd b).cols * ((quantCmd b).inWidth / 8)) = some p ∧
      s.clean p ((quantCmd b).cols * ((quantCmd b).inWidth / 8)) = true := ⟨pin, shape.inAt, hclean⟩
  obtain ⟨l, hl⟩ := vxHead_clean hbegin hq hop h (fun b p => ((List.range (quantCmd b).rows).drop p.next).map (quantCmd b).inRange)
    (fun b p s => s.vxRows core b p (quantCmd b).rows (fun s p => s.quantRow core (quantCmd b) p) (fun s p =>
      (s.countR53 ((s.coreCtx core).getD 0) p.mon.hr p.mon.nf, .worked b (some ((quantCmd b).monPtr, p.mon.record (quantCmd b).sr s.sec.arithRev)) none)))
    (by simpa [shape.rows, BlockPos.start, QuantCmd.inRange] using hread)
  refine ⟨l, congrArg Host.Outcome.next (hl.trans ?_)⟩
  rw [shape.rows]
  exact vxRows_one (s := s.presentVec core l false) hbegin b _ _

/-- VX.QUANT of one row of one block: the codes and the scale are written and the monitor record is held. -/
theorem vxQuant_works :
    let q := quantCmd b
    let r := s.oneBlock core q fi (s.readNat pin q.inBytes)
    ∃ t, exec (.vxQuant core) s = .next t ∧
      s.HeadReplaced t core (.worked b (some (q.monPtr, (QMon.start.add r).record q.sr s.sec.arithRev)) none) rest ∧
      (∀ i < q.cols, t.readNat pout q.outBytes / 2 ^ (q.outWidth * i) % 2 ^ q.outWidth = r.codes.getD i 0 % 2 ^ q.outWidth) ∧
      (q.scheme ≠ 0 → t.readNat psc (schemeBytes q.scheme) = r.scale % 256 ^ schemeBytes q.scheme) ∧
      (∀ x, (x < pout ∨ pout + q.outBytes ≤ x) → (x < psc ∨ psc + schemeBytes q.scheme ≤ x) → t.byteAt x = s.byteAt x) := by
  obtain ⟨l, hexec⟩ := vxQuant_oneRow hbegin hq hop h shape hclean
  have hmon := congrArg Prod.snd (quantRow_oneBlock (s := s.presentVec core l false) shape)
  obtain ⟨hview, hcodes, hscale, hstay⟩ := quantRow_oneBlock_writes (s := s.presentVec core l false) shape
  rw [oneBlock_presentVec, readNat_presentVec] at hmon hcodes hscale
  obtain ⟨_, _, _, hsec, _⟩ := engineView_eq_iff.1 hview
  refine ⟨_, hexec, ?_, ?_⟩ <;> dsimp only
  · rw [hmon, hsec]
    exact setVxHead_of_engineView hbegin hq ((engineView_countR53 ..).trans hview) _
  · simp only [readNat_setVxHead, byteAt_setVxHead, readNat_countR53, byteAt_countR53]
    exact ⟨hcodes, hscale, hstay⟩

end

end Sys2Proof.Machine
end

section
/-!
SUPPORT. VX.ACOMB (R137): one head, its row and its summary word.
-/
namespace Sys2Proof.Machine

theorem getD_replicate_of_lt {i n x : Nat} (h : i < n) : (List.replicate n x).getD i 0 = x := by
  rw [List.getD_eq_getElem?_getD, List.getElem?_replicate, if_pos h, Option.getD_some]

/-- The output formats of VX.ACOMB fill whole bytes. -/
theorem outWidth_of_acombLegal {core : Nat} {b : List Byte} (h : acombLegal core b = true) {fo : Fmt} (hfo : efmtOf (acombCmd b).outFmt = some (.fp fo)) :
    8 * ((acombCmd b).outWidth / 8) = fo.width := by
  simp only [acombLegal, Bool.and_eq_true, Bool.or_eq_true, beq_iff_eq] at h
  obtain ⟨⟨⟨⟨⟨⟨⟨⟨-, hfmt⟩, -⟩, -⟩, -⟩, -⟩, -⟩, -⟩, -⟩ := h
  unfold AcombCmd.outWidth
  rcases hfmt with (e | e) | e <;> rw [e] at hfo ⊢ <;> cases hfo <;> rfl

theorem length_combineHead {dim : Nat} {ps : List Partial} {m l : Nat} {o : List Nat} (h : combineHead dim ps = some (m, l, o)) : o.length = dim := by
  unfold combineHead at h
  dsimp only at h
  split at h
  case isTrue => cases h
  case isFalse =>
    cases h
    refine List.foldlRecOn (motive := fun a : Nat × List Nat => a.2.length = dim) ps _ List.length_replicate (fun a ha p _ => ?_)
    split
    · exact ha
    · simp

/-- Bytes of a row written. -/
def AcombCmd.rowBytes (q : AcombCmd) : Nat := q.dim * (q.outWidth / 8)

/-- The partials of a command's first head. -/
def State.headPartials (s : State) (core : Nat) (q : AcombCmd) : List Partial :=
  q.stackTemps.map (fun st =>
    let a := q.partAddr st 0
    ⟨s.localNat core a 4, s.localNat core (a + 4) 4, elemsOf 32 q.dim (s.localNat core (a + 16) (4 * q.dim))⟩)

@[simp] theorem headPartials_presentVec (s : State) (core : Nat) (q : AcombCmd) (l : List (Nat × Nat)) (w : Bool) :
    (s.presentVec core l w).headPartials core q = s.headPartials core q := by
  simp [State.headPartials]

/-- The row of one head, written from its codes. -/
def State.putHead (s : State) (core : Nat) (q : AcombCmd) (codes : List Nat) : State := s.vxWrite core q.out (codes.flatMap (leBytes (q.outWidth / 8)))

section
variable {s : State} {core : Nat} {q : AcombCmd} (hml : q.writeMl = false)
include hml

theorem acombHead_bad {fo : Fmt} (hfo : efmtOf q.outFmt = some (.fp fo)) (h : (s.headPartials core q).any Partial.bad = true) : s.acombHead core q .start =
    (s.putHead core q (List.replicate q.dim (encodeIeee fo .nan)), { BlockPos.start with empty := [false], bad := true }) := by
  unfold State.headPartials at h
  simp [State.acombHead, State.putHead, BlockPos.start, h, hml, hfo]

variable (h : (s.headPartials core q).any Partial.bad = false)
include h

theorem acombHead_empty (hc : combineHead q.dim (s.headPartials core q) = none) : s.acombHead core q .start =
    (s.putHead core q (List.replicate q.dim 0), { BlockPos.start with empty := [true] }) := by
  unfold State.headPartials at h hc
  simp [State.acombHead, State.putHead, BlockPos.start, h, hml, hc]

theorem acombHead_row {fo : Fmt} (hfo : efmtOf q.outFmt = some (.fp fo)) {m l : Nat} {o : List Nat}
    (hc : combineHead q.dim (s.headPartials core q) = some (m, l, o)) : s.acombHead core q .start =
    (s.putHead core q (o.map (fun a => acombCode fo (fdiv (decodeFp fmtFP32 a) (decodeFp fmtFP32 l)))), { BlockPos.start with empty := [false] }) := by
  unfold State.headPartials at h hc
  simp [State.acombHead, State.putHead, BlockPos.start, h, hml, hc, hfo]

end

/-! ### The command -/

section
variable {s : State} {core : Core} {b : List Byte} {rest : List VItem} (hbegin : s.enginesBegin core = true) (hq : (s.core core).vecQ = .block b :: rest)
  (hop : fieldN b 0 1 = 0x12)
include hbegin hq hop

theorem vxAcomb_illegal (h : acombLegal core b = false) : exec (.vxAcomb core) s = .next (s.faultBad core (fieldN b 0 1)) :=
  congrArg Host.Outcome.next (vxHead_illegal hbegin hq hop h (fun b p => (acombCmd b).partsFrom p.next) _)

variable (h : acombLegal core b = true) (hheads : (acombCmd b).heads = 1) (hempty : (acombCmd b).empty = 0)
  (hreads : ∀ st ∈ (acombCmd b).stackTemps, ∃ p, localPhys core ((acombCmd b).partAddr st 0) (16 + 4 * (acombCmd b).dim) = some p ∧
    s.clean p (16 + 4 * (acombCmd b).dim) = true)
include h hheads hempty hreads

theorem vxAcomb_oneHead : ∃ l, exec (.vxAcomb core) s = .next (
    let x := (s.presentVec core l false).acombHead core (acombCmd b) .start
    let empties := (x.2.empty.filter id).length
    x.1.setVxHead core (.worked b none (some (summaryWord empties ⟨empties == 1, x.2.bad, false, false⟩ 0 11 (1 - empties))))) := by
  obtain ⟨l, hl⟩ := vxHead_clean hbegin hq hop h (fun b p => (acombCmd b).partsFrom p.next)
    (fun b p s => s.vxRows core b p (acombCmd b).heads (fun s p => s.acombHead core (acombCmd b) p) (fun s p =>
      (if (acombCmd b).empty = 0 then s else s.writePacked core (acombCmd b).empty 1 (p.empty.map Bool.toNat),
        .worked b none (some (summaryWord (p.empty.filter id).length ⟨(p.empty.filter id).length == (acombCmd b).heads, p.bad, false, false⟩ 0 11
          ((acombCmd b).heads - (p.empty.filter id).length))))))
    (by simpa [AcombCmd.partsFrom, hheads, BlockPos.start] using hreads)
  refine ⟨l, congrArg Host.Outcome.next (hl.trans ?_)⟩
  rw [hheads]
  refine (vxRows_one (s := s.presentVec core l false) hbegin b _ _).trans ?_
  rw [if_pos hempty]

/-- VX.ACOMB of one head whose row is known: the row is written and the summary word is held. -/
theorem vxAcomb_works {pout : Nat} (hout : localPhys core (acombCmd b).out (acombCmd b).rowBytes = some pout)
    {fo : Fmt} (hfo : efmtOf (acombCmd b).outFmt = some (.fp fo)) {codes : List Nat} {pos : BlockPos} {word : W64} {code : Nat → Nat}
    (hrow : ∀ l, (s.presentVec core l false).acombHead core (acombCmd b) .start = ((s.presentVec core l false).putHead core (acombCmd b) codes, pos))
    (hlen : codes.length = (acombCmd b).dim) (hcode : ∀ i < (acombCmd b).dim, codes.getD i 0 = code i)
    (hword : summaryWord (pos.empty.filter id).length ⟨(pos.empty.filter id).length == 1, pos.bad, false, false⟩ 0 11 (1 - (pos.empty.filter id).length) = word) :
    ∃ t, exec (.vxAcomb core) s = .next t ∧ s.HeadReplaced t core (.worked b none (some word)) rest ∧
      (∀ i < (acombCmd b).dim, t.readNat pout (acombCmd b).rowBytes / 2 ^ (fo.width * i) % 2 ^ fo.width = code i % 2 ^ fo.width) ∧
      (∀ x, (x < pout ∨ pout + (acombCmd b).rowBytes ≤ x) → t.byteAt x = s.byteAt x) := by
  obtain ⟨l, hexec⟩ := vxAcomb_oneHead hbegin hq hop h hheads hempty hreads
  have hbytes : (codes.flatMap (leBytes ((acombCmd b).outWidth / 8))).length = (acombCmd b).rowBytes := by
    rw [length_flatMap_leBytes, hlen, AcombCmd.rowBytes]
  rw [hrow l] at hexec
  refine ⟨_, hexec, ?_, fun i hi => ?_, fun x hx => ?_⟩ <;> dsimp only
  · rw [hword]
    exact setVxHead_of_engineView hbegin hq ((engineView_vxWrite ..).trans (engineView_presentVec ..)) _
  · rw [readNat_setVxHead, State.putHead, readNat_vxWrite_same hbytes hout, leNat_flatMap_leBytes, outWidth_of_acombLegal h hfo, packElems_elem, hcode i hi]
  · rw [byteAt_setVxHead, State.putHead, byteAt_vxWrite_other hbytes hout hx, byteAt_presentVec]

end

end Sys2Proof.Machine
end

section
/-!
SUPPORT. VX.TOPF (R138): the rows' masks gathered and written over the mask words.
-/
namespace Sys2Proof.Machine

/-- Bytes of the mask words of a VX.TOPF block. -/
def topfBytes (b : List Byte) : Nat := 2 * ceilDiv (fieldN b 4 4) 16

/-- Row i of a VX.TOPF block: its address and its length. -/
def topfRow (b : List Byte) (i : Nat) : Nat × Nat := (fieldN b 0x10 8 + i * fieldN b 0x18 4, 4 * fieldN b 4 4)

/-- The neurons that row i chooses. -/
def State.topfChosen (s : State) (core : Nat) (b : List Byte) (i : Nat) : List Bool :=
  topMask (fieldN b 8 4) ((elemsOf 32 (fieldN b 4 4) (s.localNat core (topfRow b i).1 (topfRow b i).2)).map (decodeFp fmtFP32))

@[simp] theorem length_topfChosen (s : State) (core : Nat) (b : List Byte) (i : Nat) : (s.topfChosen core b i).length = fieldN b 4 4 := by
  simp [State.topfChosen, topMask]

@[simp] theorem topfChosen_presentVec (s : State) (core : Nat) (b : List Byte) (i : Nat) (l : List (Nat × Nat)) (w : Bool) :
    (s.presentVec core l w).topfChosen core b i = s.topfChosen core b i := by
  simp [State.topfChosen]

/-- The mask of a command: the union of what its rows choose. -/
def State.topfMask (s : State) (core : Nat) (b : List Byte) : Nat :=
  (List.range (fieldN b 0x0C 2)).foldl (fun x i => x ||| packElems 1 ((s.topfChosen core b i).map Bool.toNat)) 0

/-- A bit of the mask is set when a row chooses its neuron; bits past the last neuron are clear. -/
theorem testBit_topfMask (s : State) (core : Nat) (b : List Byte) (j : Nat) : (s.topfMask core b).testBit j =
    (List.range (fieldN b 0x0C 2)).any (fun i => decide (j < fieldN b 4 4) && (s.topfChosen core b i).getD j false) := by
  rw [State.topfMask, testBit_foldl_or, Nat.zero_testBit, Bool.false_or]
  refine congrArg (List.any _) (funext fun i => ?_)
  rw [testBit_packElems_one]
  by_cases hj : j < fieldN b 4 4
  · simp [hj]
  · simp [hj]

section
variable {s : State} {core : Core} {b : List Byte} {rest : List VItem} (hbegin : s.enginesBegin core = true) (hq : (s.core core).vecQ = .block b :: rest)
  (hop : fieldN b 0 1 = 0x13)
include hbegin hq hop

theorem vxTopf_illegal (h : topfLegal core b = false) : exec (.vxTopf core) s = .next (s.faultBad core (fieldN b 0 1)) :=
  congrArg Host.Outcome.next (vxHead_illegal hbegin hq hop h
    (fun b p => ((List.range (fieldN b 0x0C 2)).drop p.next).map (topfRow b) ++ [(fieldN b 0x20 8, topfBytes b)]) _)

variable {pm : Nat} (h : topfLegal core b = true) (hmask : localPhys core (fieldN b 0x20 8) (topfBytes b) = some pm)
  (hclean : s.clean pm (topfBytes b) = true)
  (hrows : ∀ i < fieldN b 0x0C 2, ∃ p, localPhys core (topfRow b i).1 (topfRow b i).2 = some p ∧ s.clean p (topfRow b i).2 = true)
include h hmask hclean hrows

theorem vxTopf_next : ∃ l, exec (.vxTopf core) s = .next (((s.presentVec core l false).vxWrite core (fieldN b 0x20 8)
    (leBytes (topfBytes b) (s.readNat pm (topfBytes b) ||| s.topfMask core b))).setVxHead core (.worked b none none)) := by
  obtain ⟨l, hl⟩ := vxHead_clean hbegin hq hop h
    (fun b p => ((List.range (fieldN b 0x0C 2)).drop p.next).map (topfRow b) ++ [(fieldN b 0x20 8, topfBytes b)])
    (fun b p s => s.vxRows core b p (fieldN b 0x0C 2)
      (fun s p => (s, { p with mask := p.mask ||| packElems 1 ((s.topfChosen core b p.next).map Bool.toNat) }))
      (fun s p => (s.vxWrite core (fieldN b 0x20 8) (leBytes (topfBytes b)
        (s.localNat core (fieldN b 0x20 8) (topfBytes b) ||| p.mask)), .worked b none none)))
    (by
      intro r hr
      rcases List.mem_append.1 hr with hr | hr
      · obtain ⟨i, hi, rfl⟩ := List.mem_map.1 hr
        exact hrows i (List.mem_range.1 hi)
      · rw [List.mem_singleton.1 hr]
        exact ⟨pm, hmask, hclean⟩)
  refine ⟨l, congrArg Host.Outcome.next (hl.trans ?_)⟩
  refine (vxRows_gather (s := s.presentVec core l false) hbegin b _ _ _ (fun i => packElems 1 ((s.topfChosen core b i).map Bool.toNat)) ?_).trans ?_
  · intro p
    rw [topfChosen_presentVec]
  · dsimp only
    rw [localNat_eq hmask, readNat_presentVec]
    rfl

/-- VX.TOPF: the mask bits of the chosen neurons are set and none is cleared. -/
theorem vxTopf_works : ∃ t, exec (.vxTopf core) s = .next t ∧ s.HeadReplaced t core (.worked b none none) rest ∧
    (∀ j < 8 * topfBytes b, (t.byteAt (pm + j / 8)).getLsbD (j % 8) = ((s.byteAt (pm + j / 8)).getLsbD (j % 8) ||
      (List.range (fieldN b 0x0C 2)).any (fun i => decide (j < fieldN b 4 4) && (s.topfChosen core b i).getD j false))) ∧
    (∀ x, (x < pm ∨ pm + topfBytes b ≤ x) → t.byteAt x = s.byteAt x) := by
  obtain ⟨l, hexec⟩ := vxTopf_next hbegin hq hop h hmask hclean hrows
  refine ⟨_, hexec, setVxHead_of_engineView hbegin hq ((engineView_vxWrite ..).trans (engineView_presentVec ..)) _, fun j hj => ?_, fun x hx => ?_⟩
  · rw [byteAt_setVxHead, ← testBit_readNat _ pm hj, readNat_vxWrite_same (length_leBytes ..) hmask, leNat_leBytes, Nat.testBit_mod_two_pow, Nat.testBit_or,
      testBit_readNat s pm hj, testBit_topfMask, decide_eq_true hj, Bool.true_and]
  · rw [byteAt_setVxHead, byteAt_vxWrite_other (length_leBytes ..) hmask hx, byteAt_presentVec]

end

end Sys2Proof.Machine
end

section
/-!
SUPPORT. The vector block commands together (R55, R136 to R138).
-/
namespace Sys2Proof.Machine

/-- Settles O12: each of the three commands takes a legal block from the queue's head to its entry as worked, writing what its rows give, and ends the context for any other block. -/
theorem vectorBlockCommandsWork : Obligations.VectorBlockCommandsWork := by
  unfold Obligations.VectorBlockCommandsWork
  intro s core b rest hbegin hq
  refine ⟨vxQuant_reserved hbegin hq, vxQuant_illegal hbegin hq, vxAcomb_illegal hbegin hq, vxTopf_illegal hbegin hq, ?quant, ?acomb, ?topf⟩
  case quant =>
    intro pin pout psc hop h q nin nout nsc hrows hlen hamax hwhole hin hout hsc hapart hclean fi hfi
    exact vxQuant_works hbegin hq hop h ⟨hrows, cols_pos_of_quantLegal h, hlen, hamax, hwhole, hfi, hin, hout, hsc, hapart⟩ hclean
  case acomb =>
    intro pout hop h q nout hheads hml hempty hout hreads fo hfo ps row
    have works := @vxAcomb_works s core b rest hbegin hq hop h hheads hempty hreads pout hout fo hfo
    have hps : ∀ l, (s.presentVec core l false).headPartials core q = ps := headPartials_presentVec s core q (w := false)
    refine ⟨fun hbad => ?_, fun hgood => ⟨fun hc => ?_, fun m l o hc => ?_⟩⟩
    · exact works (fun l => acombHead_bad hml hfo (by rwa [hps])) List.length_replicate (fun i hi => getD_replicate_of_lt hi) rfl
    · exact works (fun l => acombHead_empty hml (by rwa [hps]) (by rwa [hps])) List.length_replicate (fun i hi => getD_replicate_of_lt hi) rfl
    · have hlen := length_combineHead hc
      exact works (fun l => acombHead_row hml (by rwa [hps]) hfo (by rwa [hps])) ((List.length_map ..).trans hlen)
        (fun i hi => by simp [hlen.symm ▸ hi]) rfl
  case topf =>
    intro pm hop h n rows nm hmask hclean hrows chosen
    exact vxTopf_works hbegin hq hop h hmask hclean hrows

end Sys2Proof.Machine
end

section
/-!
SUPPORT. Package reset (R156, R473, R474): what a command that can start one does in each of its cases, the release of the hold, and what a held package sees of a step of the timebase.
-/
namespace Sys2Proof.Machine

/-! ### The registers of the state after reset (R490) -/

/-- After reset every register reads its reset value. -/
theorem reg_reset (a : Nat) : State.reset.reg a = regReset a := rfl

/-- LEDGER_FIRST_FRAME of each stack is reset to 174,763 (Table 18.10). -/
theorem regReset_ledgerFirst {i : Nat} (h : i < 12) : regReset (offLedgerFirst i) = 174763 := by
  have offset : offLedgerFirst i % 2 ^ 25 = 0x90100 + 8 * i := by unfold offLedgerFirst; omega
  have value : mgmtReset (0x90100 + 8 * i) = 174763 := by
    unfold mgmtReset offThrottleT offPwrCapW
    repeat rw [if_neg (by omega)]
    exact if_pos (by omega)
  unfold regReset
  simp only [offset, value]
  rw [if_neg (by omega)]
  rfl

/-! ### What starts a package reset (R473, R474, R442) -/

section
variable {s : State}

/-- A reset keeps the wipes that run, or starts all twelve (R158). -/
theorem wiping_packageReset (s : State) : s.packageReset.press.wiping ≠ [] := by
  show (if s.press.wiping.isEmpty then List.range 12 else s.press.wiping) ≠ []
  split
  · decide
  · next h => simpa using h

theorem exec_packageReset_tripped (ns : Nat) (h : s.power.tripped = true) : exec (.packageReset ns) s = .next s :=
  congrArg _ (if_pos (.inl h))

theorem exec_packageReset_short {ns : Nat} (h : ns < 1000) : exec (.packageReset ns) s = .next s :=
  congrArg _ (if_pos (.inr h))

theorem exec_packageReset_long {ns : Nat} (hpower : s.power.tripped = false) (h : 10000 ≤ ns) :
    exec (.packageReset ns) s = .next s.packageReset := by
  show Host.Outcome.next (if s.power.tripped ∨ ns < 1000 then s else _) = _
  rw [if_neg (by simp [hpower]; omega), if_pos h]

/-- A pulse between 1 µs and 10 µs draws a free value, which says whether the package resets. -/
theorem exec_packageReset_between {ns : Nat} (hpower : s.power.tripped = false) (hlo : 1000 ≤ ns) (hhi : ns < 10000) :
    exec (.packageReset ns) s = .next (if Config.freeBool s.freeCtr then { s with freeCtr := s.freeCtr + 1 }.packageReset
      else { s with freeCtr := s.freeCtr + 1 }) := by
  show Host.Outcome.next (if s.power.tripped ∨ ns < 1000 then s else _) = _
  rw [if_neg (by simp [hpower]; omega), if_neg (by omega)]
  rfl

theorem exec_firmwareWatchdog (s : State) : exec .firmwareWatchdog s = .next (if s.firmware then s.packageReset else s) := rfl

theorem firmware_iff : s.firmware = true ↔ s.sec.boot = .running ∧ s.power.tripped = false := by
  simp [State.firmware]

/-- PKG_RESET is judged by its low 32 bits alone (Table 18.5). -/
theorem exec_pkgReset (v : W64) (h : s.hears 0 = true) :
    exec (.pkgReset v) s = .next (if v.toNat % 2 ^ 32 = 0x7A3C51E9 then s.packageReset else s) := by
  show Host.Outcome.next (if s.hears 0 && bitsN v.toNat 31 0 == pkgResetKey then _ else _) = _
  simp [h, bitsN, pkgResetKey]

/-! ### The hold and its end (R474, R475) -/

theorem holdOver_iff : s.holdOver = true ↔
    s.power.sysRstN = true ∧ s.power.railsOk = true ∧ (if s.power.browned = true then 156250 else 7813) ≤ s.power.held := by
  rw [State.holdOver, Bool.and_eq_true, Bool.and_eq_true, decide_eq_true_iff, and_assoc]
  rfl

theorem exec_packageResetRelease_ended (hboot : s.sec.boot = .held) (hover : s.holdOver = true) :
    exec .packageResetRelease s = .next (if s.time.clockLost = true then { s with sec := { s.sec with boot := .wiping } }.setTherm thRefclkLost true
      else { s with sec := { s.sec with boot := .wiping } }) :=
  congrArg _ (if_pos ⟨hboot, hover⟩)

theorem exec_packageResetRelease_held (h : ¬(s.sec.boot = .held ∧ s.holdOver = true)) : exec .packageResetRelease s = .next s :=
  congrArg _ (if_neg h)

/-- The levels of the board as a held package sees them: a rail outside its limits is noted, the hold counts on or starts again, and PWR_GOOD_OUT stays as it was. -/
theorem countHold_boardLevels_held (hboot : s.sec.boot = .held) (ok band rst : Bool) :
    (s.boardLevels (some (ok, band)) (some rst)).countHold = { s with power := { s.power with
      railsOk := ok, railsInBand := band, sysRstN := rst, browned := s.power.browned || !ok, held := if rst && ok then s.power.held + 1 else 0 } } := by
  simp [State.countHold, State.boardLevels, hboot]

theorem sec_countHold_boardLevels (rails : Option (Bool × Bool)) (rst : Option Bool) : (s.boardLevels rails rst).countHold.sec = s.sec := by
  unfold State.countHold
  split <;> rfl

/-- A held package sees the levels of the board in a step of the timebase, and its timebase does not count (R474). -/
theorem exec_timebaseStep_held (hboot : s.sec.boot = .held) (env : StepEnv) :
    exec (.timebaseStep env) s = .next (s.boardLevels env.rails env.sysRst).countHold := by
  have held : (s.boardLevels env.rails env.sysRst).countHold.sec.boot = .held := by rw [sec_countHold_boardLevels, hboot]
  have events : s.stepEvents env = (s.boardLevels env.rails env.sysRst).countHold := if_pos (.inl held)
  have stands : (s.stepEvents env).ticks = false := by simp [State.ticks, events, held]
  show Host.Outcome.next (if !(s.stepEvents env).ticks then s.stepEvents env else _) = _
  rw [stands, ← events]
  rfl

end

/-- Settles O44: whatever starts a reset leads to the same state but for the levels of power and the count of free values, so one proof that this state is the restarted one serves every cause. -/
theorem resetsRestartThePackage : Obligations.ResetsRestartThePackage := by
  unfold Obligations.ResetsRestartThePackage
  intro s restarted
  have resets : restarted s.packageReset := by
    repeat refine ⟨rfl, ?_⟩
    exact ⟨wiping_packageReset s, rfl, rfl, rfl, rfl, rfl, rfl⟩
  refine ⟨fun ns hp hns => ⟨_, exec_packageReset_long hp hns, resets⟩, fun ns hns => ⟨_, exec_packageReset_short hns, rfl⟩,
    fun ns hp hlo hhi => ⟨_, exec_packageReset_between hp hlo hhi, ?between⟩, fun hp ns => ⟨_, exec_packageReset_tripped ns hp, rfl⟩,
    ⟨_, rfl, resets, rfl, rfl, rfl⟩, fun hb hp => ⟨_, exec_firmwareWatchdog s, ?silent⟩, fun hb => ⟨_, exec_firmwareWatchdog s, ?recovery⟩,
    fun v hv => ⟨fun hk => ⟨_, exec_pkgReset v hv, ?key⟩, fun hk => ⟨_, exec_pkgReset v hv, if_neg hk⟩⟩, ?release, ?hold⟩
  case between =>
    split
    · exact .inl resets
    · exact .inr ⟨_, rfl⟩
  case silent =>
    rw [if_pos (firmware_iff.2 ⟨hb, hp⟩)]
    exact resets
  case recovery => exact if_neg (by simp [firmware_iff, hb])
  case key =>
    rw [if_pos hk]
    exact resets
  case release =>
    intro ended wiping
    have ends_iff : ended ↔ s.sec.boot = .held ∧ s.holdOver = true := and_congr_right' holdOver_iff.symm
    constructor
    · intro h
      obtain ⟨hboot, hover⟩ := ends_iff.1 h
      exact ⟨_, exec_packageResetRelease_ended hboot hover, rfl⟩
    · intro h
      exact ⟨_, exec_packageResetRelease_held (mt ends_iff.2 h), rfl⟩
  case hold =>
    intro ok band rst hboot
    exact ⟨_, (exec_timebaseStep_held hboot _).trans (congrArg _ (countHold_boardLevels_held hboot ok band rst)), rfl, rfl, rfl⟩

/-- Refutes O54: its last clause asks 0x06666666, the nominal TB_INC, of register 0x90108, which is LEDGER_FIRST_FRAME[1] (Table 18.10) and is reset to 174,763; TB_INC is at 0x20108 (Table 18.6) and the
model holds its nominal value in `TimeState.inc`. -/
theorem not_resetLeavesNothing : ¬ Obligations.ResetLeavesNothing := by
  unfold Obligations.ResetLeavesNothing
  rintro ⟨-, -, -, -, -, -, -, -, -, -, -, -, nominal⟩
  have ledger : State.reset.reg 0x90108 = 174763 := (reg_reset _).trans (regReset_ledgerFirst (i := 1) (by decide))
  exact absurd (ledger.symm.trans nominal) (by decide)

end Sys2Proof.Machine
end

section
/-!
SUPPORT. Accesses of the Presses and the Dealer for a context in a package whose memory holds no error (R144, R164, R185, R190, R413): which part of the state an access and its
accounting leave alone, and what a read, a write and an addition to a counter then do.
-/
namespace Sys2Proof.Machine

/-! ### The part of the state that an access does not touch -/

/-- The registers in the block of a context or a function that hold counters of accesses and events (Tables 18.1 and 18.8): offset 0x400 on in their 4 KiB. -/
def accessReg (a : Nat) : Bool := decide (0x400 ≤ a % 0x1000)

theorem accessReg_of_le {a : Nat} (h : 0x400 ≤ a % 0x1000) : accessReg a = true := decide_eq_true h

/-- A state without what an access in error-free memory moves: memory itself, the lifetime ledger, the counters of contexts, and the bytes noted for the split of energy. -/
def State.besideAccess (s : State) : State :=
  { s with mem := [], life := .reset, regs := s.regs.filter (fun e => !accessReg e.1), ten := { s.ten with dramBytes := [] } }

theorem reg_besideAccess (s : State) {a : Nat} (h : accessReg a = false) : s.besideAccess.reg a = s.reg a := by
  simp only [State.reg, tabGet, State.besideAccess]
  rw [tabFind_filter s.regs (fun k => !accessReg k) (by simp [h])]

theorem besideAccess_count (s : State) {a : Nat} (n : Nat) (h : accessReg a = true) : (s.count a n).besideAccess = s.besideAccess := by
  simp only [State.besideAccess, State.count, State.setRegN, State.setReg]
  rw [filter_tabSet _ _ (fun k => !accessReg k) _ (by simp [h])]

@[simp] theorem besideAccess_acctDram (s : State) (c n : Nat) : (s.acctDram c n).besideAccess = s.besideAccess := by
  have noted : ∀ (u : State) (d : Tab Nat), { u with ten := { u.ten with dramBytes := d } }.besideAccess = u.besideAccess := fun _ _ => rfl
  unfold State.acctDram
  split
  · dsimp only
    rw [noted]
    split
    · exact besideAccess_count s n (accessReg_of_le (by unfold offAcctCtr ctxReg; omega))
    · rfl
  · rfl

@[simp] theorem besideAccess_countR53 (s : State) (c hr nf : Nat) : (s.countR53 c hr nf).besideAccess = s.besideAccess := by
  unfold State.countR53
  rw [besideAccess_count, besideAccess_count, besideAccess_count, besideAccess_count] <;> refine accessReg_of_le ?_ <;>
    simp only [offHeadroom, offNonfinite, ctxReg, fnReg, offHeadroomFn, offNonfiniteFn] <;> omega

theorem besideAccess_countStackWrite (s : State) (a n : Nat) : (s.countStackWrite a n).besideAccess = s.besideAccess := by
  unfold State.countStackWrite
  split <;> rfl

/-! ### Where an access lands -/

/-- A native flat address names one of the twelve stacks (Table 6.3). -/
theorem addrForm_native_lt {a st b : Nat} (h : addrForm a = .native st b) : st < 12 := by
  unfold addrForm at h
  grind

theorem regionOf_besideAccess (s : State) {st : Nat} (f : Nat) (h : st < 12) : s.besideAccess.regionOf st f = s.regionOf st f := by
  have first : accessReg (offLedgerFirst st) = false := decide_eq_false (by unfold offLedgerFirst; omega)
  unfold State.regionOf State.regN
  rw [reg_besideAccess s first, reg_besideAccess s rfl]

theorem flatPieces_besideAccess (s : State) (a n : Nat) : s.besideAccess.flatPieces a n = s.flatPieces a n := by
  unfold State.flatPieces
  split
  · rfl
  · split
    · next hform =>
      rw [regionOf_besideAccess s _ (addrForm_native_lt hform), regionOf_besideAccess s _ (addrForm_native_lt hform)]
      rfl
    · rw [State.regN, reg_besideAccess s rfl]
      rfl
    · rfl

theorem packageAccess_besideAccess (s : State) (c a n : Nat) (wr : Bool) : s.besideAccess.packageAccess c a n wr = s.packageAccess c a n wr := by
  unfold State.packageAccess
  rw [flatPieces_besideAccess]
  rfl

section
variable {s t : State} (h : t.besideAccess = s.besideAccess)
include h

theorem ctx_of_besideAccess (c : Nat) : t.ctx? c = s.ctx? c := (congrArg (State.ctx? · c) h :)
theorem ctxs_of_besideAccess : t.ten.ctxs = s.ten.ctxs := (congrArg (fun u : State => u.ten.ctxs) h :)
theorem cores_of_besideAccess : t.cores = s.cores := (congrArg State.cores h :)
theorem pressQueue_of_besideAccess (p : Nat) : t.pressQueue p = s.pressQueue p := (congrArg (State.pressQueue · p) h :)
theorem sound_of_besideAccess : t.sound = s.sound := (congrArg State.sound h :)
theorem meetsUnheld_of_besideAccess (l : List Piece) : t.meetsUnheld l = s.meetsUnheld l := (congrArg (State.meetsUnheld · l) h :)

theorem packageAccess_of_besideAccess (c a n : Nat) (wr : Bool) : t.packageAccess c a n wr = s.packageAccess c a n wr := by
  rw [← packageAccess_besideAccess t, h, packageAccess_besideAccess]

end

/-! ### Reads of error-free memory -/

theorem sound_iff {s : State} : s.sound = true ↔ s.damage = [] ∧ s.dramPoison = [] ∧ s.rowPoison = [] := by
  simp [State.sound, and_assoc]

theorem checkDram_sound {s : State} (h : s.sound = true) (a n : Nat) : s.checkDram a n = (s, none) := by
  obtain ⟨hdamage, hpoison, -⟩ := sound_iff.1 h
  simp [State.checkDram, hdamage, hpoison]

theorem clean_of_sound {s : State} (h : s.sound = true) (a n : Nat) : s.clean a n = true := by
  obtain ⟨hdamage, -, hrows⟩ := sound_iff.1 h
  simp [State.clean, hdamage, hrows]

theorem readPieces_sound {s : State} (h : s.sound = true) (l : List Piece) : s.readPieces l = (s, .bytes (s.pieceBytes l)) := by
  induction l with
  | nil => rfl
  | cons x r ih =>
    obtain ⟨flat, a, n⟩ := x
    simp only [State.readPieces, checkDram_sound h, checkSram_clean (clean_of_sound h a n), ih]
    split <;> rfl

theorem readFor_sound {s : State} (h : s.sound = true) (c : Nat) {l : List Piece} (hheld : s.meetsUnheld l = false) :
    s.readFor c l = (s.acctDram c (dramBytesOf l), .bytes (s.pieceBytes l)) := by
  simp [State.readFor, State.readRaw, readPieces_sound h, hheld]

/-! ### Writes to error-free memory -/

theorem mergeCheck_sound {s : State} (h : s.sound = true) (a n : Nat) : s.mergeCheck a n = s := by
  simp [State.mergeCheck, checkDram_sound h]

/-- No word loses poison or damage by a write, and no row's rewriting is noted. -/
theorem writePhys_sound {s : State} (h : s.sound = true) (a : Nat) (bs : List Byte) :
    s.writePhys a bs = { s.countStackWrite a bs.length with mem := memWriteAll s.mem a bs } := by
  obtain ⟨hdamage, hpoison, hrows⟩ := sound_iff.1 h
  simp [State.writePhys, hdamage, hpoison, hrows]

theorem besideAccess_writePhys {s : State} (h : s.sound = true) (a : Nat) (bs : List Byte) : (s.writePhys a bs).besideAccess = s.besideAccess := by
  rw [writePhys_sound h]
  exact besideAccess_countStackWrite s a bs.length

theorem writePieces_one {s : State} (h : s.sound = true) (f a : Nat) (bs : List Byte) : s.writePieces [(f, a, bs.length)] bs = s.writePhys a bs := by
  simp [State.writePieces, mergeCheck_sound h]

@[simp] theorem acctDram_mem (s : State) (c n : Nat) : (s.acctDram c n).mem = s.mem := by
  unfold State.acctDram
  split
  · dsimp only
    split <;> rfl
  · rfl

section
variable {s : State} (h : s.sound = true) (c f a : Nat) (bs : List Byte)
include h

theorem besideAccess_writeFor_one : (s.writeFor c [(f, a, bs.length)] bs).besideAccess = s.besideAccess := by
  rw [State.writeFor, besideAccess_acctDram, writePieces_one h, besideAccess_writePhys h]

theorem mem_writeFor_one : (s.writeFor c [(f, a, bs.length)] bs).mem = memWriteAll s.mem a bs := by
  rw [State.writeFor, acctDram_mem, writePieces_one h, writePhys_mem]

end

/-! ### A Press or the Dealer at work for a context whose clusters are held -/

theorem logging_eq_false {x : CtxState} (hphase : x.phase = .active) (hrows : x.savedRows = false) : x.logging = false := by
  simp [CtxState.logging, hphase, hrows]

section
variable {s : State} {c : Nat} {x : CtxState} (hctx : s.ctx? c = some x) (hlog : x.logging = false)
include hctx hlog

theorem readsAt_held (a : Nat) : s.readsAt c a = true := by
  unfold State.readsAt
  split
  · next y hy =>
    cases hctx.symm.trans hy
    simp [hlog]
  · rfl

/-- A read whose bytes lie in some pieces goes on with them after it is accounted. -/
theorem engineRead_held (hs : s.sound = true) (op : Nat) {a n : Nat} (k : State → List Byte → State) {l : List Piece} (hn : n ≠ 0)
    (hl : s.packageAccess c a n false = .pieces l) (hheld : s.meetsUnheld l = false) :
    s.engineRead op c a n k = k (s.acctDram c (dramBytesOf l)) (s.pieceBytes l) := by
  unfold State.engineRead
  simp only [if_neg hn, hl, hctx]
  cases addrForm a <;> simp [hlog, readFor_sound hs c hheld]

/-- A write goes to the pieces of its address. -/
theorem engineWrite_held (op : Nat) {a : Nat} {bs : List Byte} {l : List Piece} (hl : s.packageAccess c a bs.length true = .pieces l) :
    s.engineWrite op c a bs = s.writeFor c l bs := by
  unfold State.engineWrite
  split
  · next logical o y hform hy =>
    cases hctx.symm.trans hy
    have hwindow : s.windowPieces c logical o bs.length = .pieces l := by simpa [State.packageAccess, hform] using hl
    simp [hlog, hwindow]
  · rw [hl]

theorem windowHeld_held (a : Nat) : s.windowHeld c a = false := by
  unfold State.windowHeld
  split
  · next y hy =>
    cases hctx.symm.trans hy
    exact hlog
  · rfl

/-- A counter in one piece takes the sum. -/
theorem bumpCounter_held (hs : s.sound = true) (op : Nat) {a f w : Nat} (hl : s.packageAccess c a 8 true = .pieces [(f, w, 8)])
    (hheld : s.meetsUnheld [(f, w, 8)] = false) :
    s.bumpCounter op c a = (s.acctDram c (dramBytesOf [(f, w, 8)])).writeFor c [(f, w, 8)] (leBytes 8 (leNat (s.readPhys w 8) + 1)) := by
  have bytes : s.pieceBytes [(f, w, 8)] = s.readPhys w 8 := by simp [State.pieceBytes]
  unfold State.bumpCounter
  simp only [hl, windowHeld_held hctx hlog, readFor_sound hs c hheld, bytes]
  split
  · next hlogged => cases hlogged
  · rfl

end

end Sys2Proof.Machine
end

section
/-!
SUPPORT. The in-stack attention of a Press (R187 to R191): the shape of the partials it computes, the loop that writes them, and its completion.
-/
namespace Sys2Proof.Machine

/-! ### Strings written one after the other -/

theorem memReadAll_writeAll_same (m : Tab Byte) (a : Nat) (bs : List Byte) : memReadAll (memWriteAll m a bs) a bs.length = bs := by
  refine List.ext_getElem (by simp [memReadAll]) (fun i _ hi => ?_)
  simp only [memReadAll, List.getElem_map, List.getElem_range]
  exact memRead_writeAll_same m bs hi

/-- Strings bs 0, bs 1, … of n bytes each, written at w 0, w 1, …: bytes outside them stay, and each is read back when none meets another. -/
def writeEach (m : Tab Byte) (w : Nat → Nat) (bs : Nat → List Byte) (k : Nat) : Tab Byte :=
  (List.range k).foldl (fun m h => memWriteAll m (w h) (bs h)) m

theorem writeEach_succ (m : Tab Byte) (w : Nat → Nat) (bs : Nat → List Byte) (k : Nat) :
    writeEach m w bs (k + 1) = memWriteAll (writeEach m w bs k) (w k) (bs k) := by
  simp [writeEach, List.range_succ]

section
variable {w : Nat → Nat} {bs : Nat → List Byte} {n k : Nat} (hlen : ∀ h < k, (bs h).length = n)
include hlen

theorem memRead_writeEach_other (m : Tab Byte) {x : Nat} (hx : ∀ h < k, ¬(w h ≤ x ∧ x < w h + n)) : memRead (writeEach m w bs k) x = memRead m x := by
  induction k with
  | zero => rfl
  | succ k ih =>
    have hlast := hx k (Nat.lt_succ_self k)
    rw [writeEach_succ, memRead_writeAll_other _ _ (by rw [hlen k (Nat.lt_succ_self k)]; omega)]
    exact ih (fun h hh => hlen h (Nat.lt_succ_of_lt hh)) (fun h hh => hx h (Nat.lt_succ_of_lt hh))

theorem memReadAll_writeEach_same (m : Tab Byte) (hapart : ∀ h < k, ∀ j < k, h < j → w h + n ≤ w j ∨ w j + n ≤ w h) {h : Nat} (hh : h < k) :
    memReadAll (writeEach m w bs k) (w h) n = bs h := by
  induction k with
  | zero => exact absurd hh (Nat.not_lt_zero h)
  | succ k ih =>
    rw [writeEach_succ]
    rcases Nat.lt_succ_iff_lt_or_eq.1 hh with hlt | rfl
    · have before := ih (fun h hh => hlen h (Nat.lt_succ_of_lt hh)) (fun h hh j hj => hapart h (Nat.lt_succ_of_lt hh) j (Nat.lt_succ_of_lt hj)) hlt
      have apart := hapart h hh k (Nat.lt_succ_self k) hlt
      have last := hlen k (Nat.lt_succ_self k)
      rw [← before]
      refine List.map_congr_left (fun i hi => memRead_writeAll_other _ _ ?_)
      have := List.mem_range.1 hi
      omega
    · rw [← hlen h (Nat.lt_succ_self h)]
      exact memReadAll_writeAll_same ..

end

/-! ### What a Press scans, and the shape of its partials -/

theorem attnKeys_of_besideAccess {s t : State} (h : t.besideAccess = s.besideAccess) (p : Nat) (a : AttnCmd) (mask : List Byte) :
    t.attnKeys p a mask = s.attnKeys p a mask := (congrArg (State.attnKeys · p a mask) h :)

/-- The bytes of the partial of query head i. -/
def State.attnPartial (s : State) (p : Nat) (a : AttnCmd) (q : List Byte) (keys : List (Nat × Nat)) (i : Nat) : List Byte :=
  partialBytes ((s.attnScan p a q keys).1.getD i ⟨0, 0, []⟩)

theorem attnScan_of_mem {s t : State} (h : t.mem = s.mem) (p : Nat) (a : AttnCmd) (q : List Byte) (keys : List (Nat × Nat)) :
    t.attnScan p a q keys = s.attnScan p a q keys := by
  simp only [State.attnScan, State.readPhys, h]

/-- No record that a Press reads is poisoned. -/
theorem attnCheck_sound {s : State} (h : s.sound = true) (p : Nat) (a : AttnCmd) (keys : List (Nat × Nat)) : s.attnCheck p a keys = (s, none) := by
  unfold State.attnCheck
  dsimp only
  generalize keys.flatMap _ = reads
  induction reads with
  | nil => rfl
  | cons x r ih => rw [List.foldl_cons, checkDram_sound h]; exact ih

theorem length_attnGroup {d : Nat} {p : Partial} (g : List (Nat × List Nat)) (h : p.o.length = d) : (attnGroup d p g).o.length = d := by
  refine List.foldlRecOn (motive := fun p : Partial => p.o.length = d) g _ ?_ (fun _ _ _ _ => by simp)
  dsimp only
  split
  · split
    · exact h
    · exact (List.length_map ..).trans h
  · exact h

/-- A head's partial holds D outputs. -/
theorem length_attnHead (a : AttnCmd) (ks : List (Nat × List Nat)) : (attnHead a ks).o.length = a.d := by
  have scanned : ((groups16 ks).foldl (attnGroup a.d) ⟨f32NegInf, 0, List.replicate a.d 0⟩).o.length = a.d :=
    List.foldlRecOn (motive := fun p : Partial => p.o.length = a.d) _ _ List.length_replicate (fun _ h _ _ => length_attnGroup _ h)
  unfold attnHead
  split
  · exact List.length_replicate
  · dsimp only
    split
    · exact scanned
    · exact (List.length_map ..).trans scanned

/-- A loop that appends to a list appends what its turns give. -/
theorem foldl_fst_append {α β γ : Type} (f : List β × γ → α → List β × γ) (g : α → List β) (h : ∀ acc a, (f acc a).1 = acc.1 ++ g a) (l : List α)
    (acc : List β × γ) : (l.foldl f acc).1 = acc.1 ++ l.flatMap g := by
  induction l generalizing acc with
  | nil => simp
  | cons a r ih => rw [List.foldl_cons, ih, h, List.append_assoc, List.flatMap_cons]

/-- A scan gives the partial of each query head of each KV head, in order. -/
theorem attnScan_heads (s : State) (p : Nat) (a : AttnCmd) (q : List Byte) (keys : List (Nat × Nat)) : ∃ ks : Nat → Nat → List (Nat × List Nat),
    (s.attnScan p a q keys).1 = (List.range a.heads).flatMap (fun g => (List.range a.group).flatMap (fun j => [attnHead a (ks g j)])) :=
  ⟨_, foldl_fst_append _ _ (fun acc _ => foldl_fst_append _ _ (fun _ _ => rfl) _ acc) _ _⟩

theorem length_flatMap_const {α β : Type} (l : List α) {n : Nat} (f : α → List β) (h : ∀ a, (f a).length = n) : (l.flatMap f).length = l.length * n := by
  induction l with
  | nil => exact (Nat.zero_mul n).symm
  | cons a r ih => rw [List.flatMap_cons, List.length_append, h, ih, List.length_cons, Nat.succ_mul, Nat.add_comm]

theorem length_attnScan (s : State) (p : Nat) (a : AttnCmd) (q : List Byte) (keys : List (Nat × Nat)) :
    (s.attnScan p a q keys).1.length = a.heads * a.group := by
  obtain ⟨ks, h⟩ := attnScan_heads s p a q keys
  rw [h, length_flatMap_const _ (n := a.group) _ (fun g => ?_), List.length_range]
  rw [length_flatMap_const _ (n := 1) _ (fun _ => rfl), List.length_range, Nat.mul_one]

theorem length_partialBytes (p : Partial) : (partialBytes p).length = 16 + 4 * p.o.length := by
  simp only [partialBytes, List.length_append, length_leBytes, zeroBytes, List.length_replicate, length_flatMap_leBytes]
  omega

theorem length_attnPartial (s : State) (p : Nat) (a : AttnCmd) (q : List Byte) (keys : List (Nat × Nat)) {i : Nat} (hi : i < a.heads * a.group) :
    (s.attnPartial p a q keys i).length = 16 + 4 * a.d := by
  have member : ∀ y ∈ (s.attnScan p a q keys).1, y.o.length = a.d := by
    obtain ⟨ks, h⟩ := attnScan_heads s p a q keys
    simp only [h, List.mem_flatMap, List.mem_singleton]
    rintro y ⟨g, -, j, -, rfl⟩
    exact length_attnHead ..
  rw [← length_attnScan s p a q keys] at hi
  rw [State.attnPartial, length_partialBytes, List.getD_eq_getElem?_getD, List.getElem?_eq_getElem hi, Option.getD_some, member _ (List.getElem_mem hi)]

theorem attnPartial_of_mem {s t : State} (h : t.mem = s.mem) (p : Nat) (a : AttnCmd) (q : List Byte) (keys : List (Nat × Nat)) :
    t.attnPartial p a q keys = s.attnPartial p a q keys := by
  unfold State.attnPartial
  rw [attnScan_of_mem h]

/-! ### The writes of a command's partials -/

/-- Writes of the context to places of one piece each, in a loop that stops when the context ends. -/
theorem foldl_engineWrite_held {v : State} {c : Nat} {x : CtxState} (hs : v.sound = true) (hctx : v.ctx? c = some x) (hlive : x.phase = .active) (hlog : x.logging = false)
    (op : Nat) {at_ w : Nat → Nat} {bs : Nat → List Byte} {n : Nat} (k : Nat) (hlen : ∀ h < k, (bs h).length = n)
    (hat : ∀ h < k, ∃ f, v.packageAccess c (at_ h) n true = .pieces [(f, w h, n)]) :
    let t := (List.range k).foldl (fun s h => if s.ctxLive c then s.engineWrite op c (at_ h) (bs h) else s) v
    t.besideAccess = v.besideAccess ∧ t.mem = writeEach v.mem w bs k := by
  induction k with
  | zero => exact ⟨rfl, rfl⟩
  | succ k ih =>
    obtain ⟨hbeside, hmem⟩ := ih (fun h hh => hlen h (Nat.lt_succ_of_lt hh)) (fun h hh => hat h (Nat.lt_succ_of_lt hh))
    simp only [List.range_succ, List.foldl_append, List.foldl_cons, List.foldl_nil]
    generalize (List.range k).foldl _ v = u at hbeside hmem ⊢
    have hctx' : u.ctx? c = some x := (ctx_of_besideAccess hbeside c).trans hctx
    have hs' : u.sound = true := (sound_of_besideAccess hbeside).trans hs
    have live : u.ctxLive c = true := by simp [State.ctxLive, hctx', hlive]
    obtain ⟨f, hf⟩ := hat k (Nat.lt_succ_self k)
    rw [← packageAccess_of_besideAccess hbeside, ← hlen k (Nat.lt_succ_self k)] at hf
    rw [if_pos live, engineWrite_held hctx' hlog op hf]
    exact ⟨(besideAccess_writeFor_one hs' ..).trans hbeside, by rw [mem_writeFor_one hs', hmem, writeEach_succ]⟩

theorem scanBytes_pos {b : List Byte} (h : attnFields b = true) : 0 < (attnCmd b).heads * (attnCmd b).group * (attnCmd b).d := by
  simp only [attnFields, Bool.and_eq_true, decide_eq_true_eq] at h
  have group : 0 < (attnCmd b).group := by omega
  have heads : 0 < (attnCmd b).heads := by omega
  have dims : 0 < (attnCmd b).d := by omega
  exact Nat.mul_pos (Nat.mul_pos heads group) dims

/-- A command at work once no record of its keys is poisoned: the scan is accounted, the command is marked, and the partials are written. -/
def State.attnFinish (s₀ : State) (p : Nat) (cmd : PressCmd) (q : List Byte) (keys : List (Nat × Nat)) : State :=
  let a := attnCmd cmd.bytes
  let scan := s₀.attnScan p a q keys
  let marked := (s₀.acctDram cmd.ctx (keys.length * a.heads * (kvBytes a.kf a.d + kvBytes a.vf a.d))).setPressQueue p (markRun true cmd (s₀.pressQueue p))
  let counted := if scan.2 = 0 then marked else marked.countR53 cmd.ctx scan.2 0
  (List.range scan.1.length).foldl (fun s h => if s.ctxLive cmd.ctx then
    s.engineWrite 0x31 cmd.ctx (a.part + p * a.strideS + h * a.strideH) (s₀.attnPartial p a q keys h) else s) counted

/-- A command at work once its query heads and its mask are read: its records are checked, and a poisoned one ends the context (R191). -/
def State.attnGo (s : State) (p : Nat) (cmd : PressCmd) (q mask : List Byte) : State :=
  let keys := s.attnKeys p (attnCmd cmd.bytes) mask
  match s.attnCheck p (attnCmd cmd.bytes) keys with
  | (s, some f) => s.fault cmd.ctx clsUncorr f
  | (s, none) => s.attnFinish p cmd q keys

theorem attnGo_sound {s : State} (h : s.sound = true) (p : Nat) (cmd : PressCmd) (q mask : List Byte) :
    s.attnGo p cmd q mask = s.attnFinish p cmd q (s.attnKeys p (attnCmd cmd.bytes) mask) := by
  simp only [State.attnGo, attnCheck_sound h]

/-- A command reads its query heads, then its mask if it has one, and goes on. -/
theorem attnRun_eq (s : State) (p : Nat) (cmd : PressCmd) : let a := attnCmd cmd.bytes
    s.attnRun p cmd = s.engineRead 0x31 cmd.ctx a.q (a.heads * a.group * a.d) (fun s q =>
      if a.masked && a.last - a.first != 0 then
        match addrForm a.maskP with
        | .cluster .. => s.fault cmd.ctx clsBadDesc 0x31
        | _ => s.engineRead 0x31 cmd.ctx a.maskP (ceilDiv (a.last - a.first) 8) (fun s mask => s.attnGo p cmd q mask)
      else s.attnGo p cmd q []) := rfl

@[simp] theorem setPressQueue_mem (s : State) (p : Nat) (l : List PressCmd) : (s.setPressQueue p l).mem = s.mem := rfl
@[simp] theorem readPhys_setPressQueue (s : State) (p : Nat) (l : List PressCmd) (a n : Nat) : (s.setPressQueue p l).readPhys a n = s.readPhys a n := rfl
@[simp] theorem countR53_mem (s : State) (c hr nf : Nat) : (s.countR53 c hr nf).mem = s.mem := rfl

theorem besideAccess_setPressQueue (s : State) (p : Nat) (l : List PressCmd) : (s.setPressQueue p l).besideAccess = s.besideAccess.setPressQueue p l := rfl

@[simp] theorem pressQueue_setPressQueue (s : State) (p : Nat) (l : List PressCmd) : (s.setPressQueue p l).pressQueue p = l :=
  tabGet_set_same [] s.press.queues p l

/-- The mask that a command reads with its query heads (Table 6.7): none, or the bytes of pieces outside every cluster window. -/
def State.attnMask (s : State) (c : Nat) (a : AttnCmd) (mask : List Byte) : Prop :=
  if a.masked = true ∧ a.first < a.last then
    (∀ l o, addrForm a.maskP ≠ .cluster l o) ∧
      ∃ lm, s.packageAccess c a.maskP ((a.last - a.first + 7) / 8) false = .pieces lm ∧ s.meetsUnheld lm = false ∧ mask = s.pieceBytes lm
  else mask = []

section
variable {s : State} {q : PressCmd} {x : CtxState} (hs : s.sound = true) (hctx : s.ctx? q.ctx = some x) (hlog : x.logging = false)
include hs hctx hlog

/-- The reads of a command before its scan move only what an access moves, and leave memory. -/
theorem attnRun_held (p : Nat) {lq : List Piece} {mask : List Byte} (hfields : attnFields q.bytes = true) :
    let a := attnCmd q.bytes
    s.packageAccess q.ctx a.q (a.heads * a.group * a.d) false = .pieces lq → s.meetsUnheld lq = false →
    s.attnMask q.ctx a mask →
    ∃ u : State, u.besideAccess = s.besideAccess ∧ u.mem = s.mem ∧ s.attnRun p q = u.attnFinish p q (s.pieceBytes lq) (s.attnKeys p a mask) := by
  intro a hq hqheld hmask
  unfold State.attnMask at hmask
  rw [attnRun_eq, engineRead_held hctx hlog hs 0x31 _ (Nat.ne_of_gt (scanBytes_pos hfields)) hq hqheld]
  generalize hu : s.acctDram q.ctx (dramBytesOf lq) = u
  have ubeside : u.besideAccess = s.besideAccess := by rw [← hu, besideAccess_acctDram]
  have umem : u.mem = s.mem := by rw [← hu, acctDram_mem]
  have usound := (sound_of_besideAccess ubeside).trans hs
  have reads : (a.masked && a.last - a.first != 0) = true ↔ a.masked = true ∧ a.first < a.last := by simp; omega
  by_cases masked : a.masked = true ∧ a.first < a.last
  · rw [if_pos masked] at hmask
    obtain ⟨hform, lm, hm, hmheld, rfl⟩ := hmask
    rw [← packageAccess_of_besideAccess ubeside] at hm
    rw [← meetsUnheld_of_besideAccess ubeside] at hmheld
    have bytes : u.pieceBytes lm = s.pieceBytes lm := by simp only [State.pieceBytes, State.readPhys, umem]
    have vbeside : (u.acctDram q.ctx (dramBytesOf lm)).besideAccess = s.besideAccess := by rw [besideAccess_acctDram, ubeside]
    refine ⟨u.acctDram q.ctx (dramBytesOf lm), vbeside, by rw [acctDram_mem, umem], ?_⟩
    rw [if_pos (reads.2 masked)]
    split
    · next l o hc => exact absurd hc (hform l o)
    · refine (engineRead_held ((ctx_of_besideAccess ubeside _).trans hctx) hlog usound 0x31 _ (by omega) hm hmheld).trans ?_
      rw [bytes, attnGo_sound ((sound_of_besideAccess vbeside).trans hs), attnKeys_of_besideAccess vbeside]
  · rw [if_neg masked] at hmask
    subst hmask
    refine ⟨u, ubeside, umem, ?_⟩
    rw [if_neg (mt reads.1 masked), attnGo_sound usound, attnKeys_of_besideAccess ubeside]

theorem attnFinish_held (p : Nat) (qs : List Byte) (keys : List (Nat × Nat)) {w : Nat → Nat} (hphase : x.phase = .active) :
    let a := attnCmd q.bytes
    (∀ h < a.heads * a.group, ∃ f, s.packageAccess q.ctx (a.part + p * a.strideS + h * a.strideH) (16 + 4 * a.d) true = .pieces [(f, w h, 16 + 4 * a.d)]) →
    (s.attnFinish p q qs keys).besideAccess = (s.setPressQueue p (markRun true q (s.pressQueue p))).besideAccess ∧
    (s.attnFinish p q qs keys).mem = writeEach s.mem w (s.attnPartial p a qs keys) (a.heads * a.group) := by
  intro a hat
  unfold State.attnFinish
  dsimp only
  generalize hv : (if (s.attnScan p (attnCmd q.bytes) qs keys).2 = 0 then _ else _) = v
  have vbeside : v.besideAccess = (s.setPressQueue p (markRun true q (s.pressQueue p))).besideAccess := by
    rw [← hv]
    split <;> simp [besideAccess_setPressQueue]
  have vmem : v.mem = s.mem := by
    rw [← hv]
    split <;> simp
  have vaccess : ∀ at_ n, v.packageAccess q.ctx at_ n true = s.packageAccess q.ctx at_ n true := fun _ _ => packageAccess_of_besideAccess vbeside ..
  rw [length_attnScan, ← vmem, ← vbeside]
  refine foldl_engineWrite_held ((sound_of_besideAccess vbeside).trans hs) ((ctx_of_besideAccess vbeside _).trans hctx) hphase hlog 0x31
    (n := 16 + 4 * a.d) _ (fun h hh => ?_) (fun h hh => ?_)
  · exact length_attnPartial _ _ _ _ _ hh
  · rw [vaccess]
    exact hat h hh

end

/-! ### The queue of a Press (R185, R425) -/

section
variable {s : State} {p : Nat} {q : PressCmd} {rest : List PressCmd} {x : CtxState} (hq : s.pressQueue p = q :: rest) (hctx : s.ctx? q.ctx = some x)
include hq hctx

/-- The oldest command that has not run is worked, if its context is Active, its clusters are held and none of its writes is. -/
theorem onPressHead_runs (hran : q.ran = false) (hphase : x.phase = .active) (hlog : x.logging = false) (hnone : x.heldWrites = []) (want : Nat → Bool)
    (f : State → PressCmd → State) : s.onPressHead p want f = if want (fieldN q.bytes 0 1) then f s q else s := by
  have runs : s.pressRuns q = true := by simp [State.pressRuns, State.ctxLive, hctx, hphase, hnone, readsAt_held hctx hlog]
  simp [State.onPressHead, hq, hran, runs]

end

theorem markRun_head (q : PressCmd) (rest : List PressCmd) : markRun true q (q :: rest) = { q with ran := true } :: rest := by
  simp [markRun]

end Sys2Proof.Machine
end

section
/-!
SUPPORT. ATTENTION and ATTENTION_DONE in error-free memory, for a context whose clusters are held (R187 to R191).
-/
namespace Sys2Proof.Machine

section
variable {s : State} {p : Stack} {q : PressCmd} {rest : List PressCmd} {x : CtxState} (hs : s.sound = true) (hctx : s.ctx? q.ctx = some x)
  (hlog : x.logging = false) (hnone : x.heldWrites = []) (hq : s.pressQueue p = q :: rest)
include hs hctx hlog hnone hq

/-- ATTENTION leaves the partial of every query head at a place of its own, and its command marked. -/
theorem attention_writes {lq : List Piece} {w : Nat → Nat} {mask : List Byte} (hphase : x.phase = .active) (hran : q.ran = false)
    (hop : fieldN q.bytes 0 1 = 0x31) (hfields : attnFields q.bytes = true) :
    let a := attnCmd q.bytes
    let c := q.ctx
    s.packageAccess c a.q (a.heads * a.group * a.d) false = .pieces lq → s.meetsUnheld lq = false →
    s.attnMask c a mask →
    (∀ h < a.heads * a.group, ∃ f, s.packageAccess c (a.part + p.val * a.strideS + h * a.strideH) (16 + 4 * a.d) true = .pieces [(f, w h, 16 + 4 * a.d)]) →
    (∀ h < a.heads * a.group, ∀ k < a.heads * a.group, h < k → w h + (16 + 4 * a.d) ≤ w k ∨ w k + (16 + 4 * a.d) ≤ w h) →
    runsTo s (.attention p) (fun t =>
      (∀ h < a.heads * a.group, t.readPhys (w h) (16 + 4 * a.d) = s.attnPartial p a (s.pieceBytes lq) (s.attnKeys p a mask) h) ∧
      s.sameOutside t ((List.range (a.heads * a.group)).map (fun h => (w h, 16 + 4 * a.d))) ∧
      t.pressQueue p = { q with ran := true } :: rest ∧ t.cores = s.cores ∧ t.ten.ctxs = s.ten.ctxs) := by
  intro a c hread hheld hmask hat hapart htrip
  obtain ⟨u, ubeside, umem, hrun⟩ := attnRun_held hs hctx hlog p hfields hread hheld hmask
  generalize hkeys : s.attnKeys p a mask = keys at hrun ⊢
  have access : ∀ at_ n, u.packageAccess c at_ n true = s.packageAccess c at_ n true := fun _ _ => packageAccess_of_besideAccess ubeside ..
  have finish := attnFinish_held ((sound_of_besideAccess ubeside).trans hs) ((ctx_of_besideAccess ubeside _).trans hctx) hlog p (s.pieceBytes lq) keys (w := w) hphase
  obtain ⟨tbeside, tmem⟩ := finish (fun h hh => by rw [access]; exact hat h hh)
  rw [umem, attnPartial_of_mem umem] at tmem
  rw [pressQueue_of_besideAccess ubeside, hq, markRun_head] at tbeside
  have length : ∀ h < a.heads * a.group, (s.attnPartial p a (s.pieceBytes lq) keys h).length = 16 + 4 * a.d := fun h hh => length_attnPartial _ _ _ _ _ hh
  have whole : exec (.attention p) s = .next (s.attnRun p q) := by
    refine congrArg Host.Outcome.next ((State.unlessTripped_running _ htrip).trans ?_)
    rw [onPressHead_runs hq hctx hran hphase hlog hnone, hop]
    rfl
  rw [hrun] at whole
  refine ⟨_, whole, fun h hh => ?_, fun b hb => ?_, ?_, ?_, ?_⟩
  · rw [State.readPhys, tmem, memReadAll_writeEach_same length _ hapart hh]
  · rw [State.byteAt, tmem, memRead_writeEach_other length, State.byteAt]
    exact fun h hh => hb (w h, 16 + 4 * a.d) (List.mem_map.2 ⟨h, List.mem_range.2 hh, rfl⟩)
  · rw [pressQueue_of_besideAccess tbeside, pressQueue_setPressQueue]
  · exact (cores_of_besideAccess tbeside).trans (cores_of_besideAccess ubeside :)
  · exact (ctxs_of_besideAccess tbeside).trans (ctxs_of_besideAccess ubeside :)

/-- ATTENTION_DONE takes the oldest command from the queue if it has run, and adds 1 to its counter. -/
theorem attentionDone_counts {f w : Nat} (hran : q.ran = true) (hat : s.packageAccess q.ctx (attnCmd q.bytes).done 8 true = .pieces [(f, w, 8)])
    (hheld : s.meetsUnheld [(f, w, 8)] = false) :
    runsTo s (.attentionDone p) (fun t => t.readPhys w 8 = leBytes 8 (leNat (s.readPhys w 8) + 1) ∧ s.sameOutside t [(w, 8)] ∧ t.pressQueue p = rest ∧
      t.cores = s.cores ∧ t.ten.ctxs = s.ten.ctxs) := by
  intro htrip
  have whole : exec (.attentionDone p) s = .next ((s.setPressQueue p rest).bumpCounter 0x31 q.ctx (attnCmd q.bytes).done) := by
    refine congrArg Host.Outcome.next ((State.unlessTripped_running _ htrip).trans ?_)
    simp [hq, hran, hctx, hnone]
  have taken : (s.setPressQueue p rest).packageAccess q.ctx (attnCmd q.bytes).done 8 true = .pieces [(f, w, 8)] := hat
  have bump := bumpCounter_held (s := s.setPressQueue p rest) (c := q.ctx) hctx hlog hs 0x31 taken hheld
  rw [readPhys_setPressQueue] at bump
  generalize hsum : leBytes 8 (leNat (s.readPhys w 8) + 1) = sum at bump ⊢
  have len : sum.length = 8 := by rw [← hsum, length_leBytes]
  generalize hv : (s.setPressQueue p rest).acctDram q.ctx (dramBytesOf [(f, w, 8)]) = v at bump
  have vbeside : v.besideAccess = (s.setPressQueue p rest).besideAccess := by rw [← hv, besideAccess_acctDram]
  have vmem : v.mem = s.mem := by rw [← hv, acctDram_mem, setPressQueue_mem]
  have vsound : v.sound = true := (sound_of_besideAccess vbeside).trans hs
  have tbeside := (besideAccess_writeFor_one vsound q.ctx f w sum).trans vbeside
  have tmem := mem_writeFor_one vsound q.ctx f w sum
  rw [len] at tbeside tmem
  rw [vmem] at tmem
  refine ⟨_, whole.trans (congrArg _ bump), ?_, fun b hb => ?_, ?_,
    (cores_of_besideAccess tbeside :), (ctxs_of_besideAccess tbeside :)⟩
  · rw [State.readPhys, tmem]
    exact len ▸ memReadAll_writeAll_same s.mem w sum
  · have outside := hb (w, 8) (List.mem_singleton_self _)
    rw [State.byteAt, tmem, memRead_writeAll_other _ _ (by omega), State.byteAt]
  · rw [pressQueue_of_besideAccess tbeside, pressQueue_setPressQueue]

end

/-- Settles O20: with memory free of errors the reads before the scan and its accounting leave what the scan reads; each partial then
goes to a place of its own, and the completion adds to one counter. -/
theorem attentionWritesPartials : Obligations.AttentionWritesPartials := by
  unfold Obligations.AttentionWritesPartials
  intro s p q x hs hctx hphase hrows hnone
  have hlog := logging_eq_false hphase hrows
  refine ⟨fun lq w mask rest hq hran hop hfields => ?_, fun f w rest hq hran hat hheld => ?_⟩
  · exact attention_writes hs hctx hlog hnone hq hphase hran hop hfields
  · exact attentionDone_counts hs hctx hlog hnone hq hran hat hheld

end Sys2Proof.Machine
end

section
/-!
SUPPORT. A tile command of a context one of whose writes is held for want of room in its window log (R193, R425): it waits in its Press's queue, also while its context is Active.
-/
namespace Sys2Proof.Machine

/-! ### A held command -/

/-- A Press works no command of a context one of whose writes is held. -/
theorem pressRuns_of_heldWrites {s : State} {q : PressCmd} {x : CtxState} (hctx : s.ctx? q.ctx = some x) (hheld : x.heldWrites ≠ []) : s.pressRuns q = false := by
  simp [State.pressRuns, hctx, hheld]

/-- A Press none of whose commands may be worked does nothing. -/
theorem onPressHead_waits {s : State} {p : Nat} (h : ∀ q ∈ s.pressQueue p, s.pressRuns q = false) (want : Nat → Bool) (f : State → PressCmd → State) :
    s.onPressHead p want f = s := by
  have none_runs : (s.pressQueue p).find? (fun q => !q.ran && s.pressRuns q) = none := by
    rw [List.find?_eq_none]
    intro q hq
    simp [h q hq]
  rw [State.onPressHead, none_runs]

/-! ### A state that holds one -/

/-- An Active context that may use the first 64 frames of S0, and one of whose writes, of no bytes, is held. -/
def heldCtx : CtxState where
  lent := false
  phase := .active
  count := 1
  clusters := [0]
  srKey := 0
  saveBase := 0
  replyBase := 0
  map := [(0, BitVec.ofNat 128 (64 * 2 ^ 64 + 0x1F * 2 ^ 88))]
  preempt := none
  resume := none
  stopped := false
  saved := none
  savedRows := false
  replies := []
  log := []
  heldWrites := [(0, [])]
  ending := none
  owed := []
  acctFirst := false
  acctStart := 0
  acctBase := []

/-- TILE.PACK (Table 6.8) of one E4M3 tile: IN_DIR 0x10000, OUT_DIR 0x30000, OUT_DATA 0x40000, OUT_LIMIT 4096, STATUS_PTR 0x50000. Its directory entry, all zeros, names the tile at 0. -/
def heldPack : PressCmd where
  ctx := 1
  bytes := leBytes 1 0x32 ++ leBytes 1 1 ++ zeroBytes 2 ++ leBytes 4 1 ++ leBytes 8 0x10000 ++ leBytes 8 0x30000 ++ leBytes 8 0x40000 ++ leBytes 8 4096 ++
    leBytes 8 0x50000 ++ zeroBytes 16
  ran := false

/-- The command at the head of Press 0's queue, in a package that holds nothing else. -/
def heldTile : State := { State.reset with
  ten := { State.reset.ten with ctxs := [(1, heldCtx)] }
  press := { State.reset.press with queues := [(0, [heldPack])] } }

theorem exec_tilePack_heldTile : exec (.tilePack 0) heldTile = .next heldTile := by
  refine congrArg Host.Outcome.next ((State.unlessTripped_running _ rfl).trans (onPressHead_waits (fun q hq => ?_) _ _))
  obtain rfl : q = heldPack := List.mem_singleton.1 hq
  exact pressRuns_of_heldWrites (x := heldCtx) rfl (List.cons_ne_nil _ _)

/-- The command's fields, its directory entry and its tile: dense and all zeros, so that it packs into an empty bitmap. -/
theorem heldPack_reads : tileCmd heldPack.bytes = ⟨0x32, 1, 1, 0x10000, 0x30000, 0x40000, 4096, 0x50000⟩ ∧
    heldTile.readPhys 0x10000 64 = zeroBytes 64 ∧ heldTile.readPhys 0 256 = zeroBytes 256 ∧ packTile true 1 0 (zeroBytes 256) = (zeroBytes 32, true, 0) := by
  decide +kernel

/-- Where the command's ranges land. -/
theorem heldTile_places : heldTile.inStack 0 0x40000 1 = true ∧ heldTile.ownStack 0 1 0x10000 64 false = some [(0x10000, 0x10000, 64)] ∧
    heldTile.ownStack 0 1 0 256 false = some [(0, 0, 256)] ∧ heldTile.ownStack 0 1 0x40000 32 true = some [(0x40000, 0x40000, 32)] ∧
    heldTile.ownStack 0 1 0x30000 64 true = some [(0x30000, 0x30000, 64)] ∧ heldTile.packageAccess 1 0x50000 16 true = .pieces [(0x50000, 0x50000, 16)] := by
  decide +kernel

theorem fieldN_zeroBytes (n off len : Nat) : fieldN (zeroBytes n) off len = 0 := by
  have zeros : ∀ k, leNat (List.replicate k 0) = 0 := fun k => by induction k with
    | zero => rfl
    | succ k ih => rw [List.replicate_succ, leNat, ih]; rfl
  rw [fieldN, zeroBytes, List.drop_replicate, List.take_replicate, zeros]

/-- Refutes O21: its clause on tiles asks that the command leaves the queue, and unlike O20 does not ask that none of the context's writes is held. In `heldTile` one is, so the Press does not
work the command (R425) and TILE.PACK leaves the package as it is, with the command still queued. -/
theorem not_pressMaintenanceKeepsData : ¬ Obligations.PressMaintenanceKeepsData := by
  unfold Obligations.PressMaintenanceKeepsData
  rintro ⟨-, tiles⟩
  obtain ⟨hcmd, hentry, htile, hpack⟩ := heldPack_reads
  obtain ⟨inStack, atDir, atTile, atData, atEntry, atStatus⟩ := heldTile_places
  have dense : 256 * cellBytes 1 = 256 := rfl
  have packedLength : (zeroBytes 32).length = 32 := List.length_replicate
  have works := tiles heldTile 0 heldPack [] heldCtx 0x10000 0 0x40000 0x30000 0x50000 0x50000
  simp only [hcmd, hentry, fieldN_zeroBytes, Nat.zero_testBit, Bool.false_eq_true, if_false, if_true, dense, htile, decide_true, hpack, packedLength] at works
  obtain ⟨u, hu, hqueue, -⟩ := works rfl rfl rfl rfl rfl rfl (.inl trivial) trivial (by decide) inStack atDir trivial atTile rfl atData atEntry atStatus
    (by decide) (by decide) (by decide) rfl
  rw [exec_tilePack_heldTile] at hu
  cases hu
  exact List.cons_ne_nil _ _ hqueue

end Sys2Proof.Machine
end
